-- ==== Sys2Proof/Word.lean ====
section
/-! DEFINITION. The word types of the part: bytes, 32-bit and 64-bit words, the 96-bit instruction word (R3, R25),
lane masks (R41) and code offsets (R12). -/

namespace Sys2Proof

/-- A byte of memory (R3). -/
abbrev Byte := BitVec 8

/-- A 32-bit register word (R38, R41). -/
abbrev Word := BitVec 32

/-- A 64-bit word: an even pair of registers, the named register low (R39). -/
abbrev DWord := BitVec 64

/-- A 96-bit instruction word, bit 95 the most significant (R3, R25). -/
abbrev IWord := BitVec 96

/-- A set of lanes: bit L is lane L (R41). -/
abbrev Lanes := BitVec 32

/-- A code offset: bits 29:3 the fetch line counted from the plane's start, bits 2:0 the slot (R12). -/
abbrev Offset := BitVec 30

/-- A lane number. -/
abbrev Lane := Nat

/-- The lanes of a group (R10). -/
def allLanes : List Lane := List.range 32

end Sys2Proof
end

