-- ==== Sys2Proof/Config.lean ====
section
/-! DEFINITION. What the spec leaves open: constants with no body. Nothing can evaluate them, and no proof knows a value of
one; whatever is proved holds for every choice. Each is named in a row of the assumption log. -/

namespace Sys2Proof.Config

/-- The n-th value the spec does not state, 32 bits. DESIGN CHOICE (log 1), safe. -/
opaque freeValue : Nat → BitVec 32

/-- The byte of code that a launch fetches at a physical address of another package or of the host window (R110). DESIGN CHOICE
(log 70), safe. -/
opaque farCode : Nat → Nat → BitVec 8

/-- Which of the values inside the bound of R156 the SFU gives for a function code and an operand. DESIGN CHOICE (log 6), safe. -/
opaque sfuChoice : Nat → BitVec 32 → Nat

/-- The order in which IREDUCE in ARRIVAL mode adds the n-th segment's rows: a number that selects a permutation (R252).
DESIGN CHOICE (log 7), safe. -/
opaque arrivalOrder : Nat → Nat

/-- The ShangMi hash SM3 of a byte string: R300 and R302 name it and give no definition. DESIGN CHOICE (log 8), safe. -/
opaque sm3 : List (BitVec 8) → List (BitVec 8)

/-- The check word of a save record over the bytes it covers (R200): its layout and rule are private to the device.
DESIGN CHOICE (log 8), safe. -/
opaque saveCheck : List (BitVec 8) → BitVec 32

/-- Whether a signature verifies under a key (R300): the scheme is named, not defined. DESIGN CHOICE (log 8), safe. -/
opaque sigOk : List (BitVec 8) → List (BitVec 8) → List (BitVec 8) → Bool

/-- The signature the device key gives (R302). DESIGN CHOICE (log 8), safe. -/
opaque deviceSign : List (BitVec 8) → List (BitVec 8)

end Sys2Proof.Config
end

