-- ==== Sys2Proof/Syntax.lean ====
section
/-! DEFINITION. The instructions and events of spec/opcode_table.json as data: operand codes (R38), the six instruction
formats (R30 to R35), the SINK header (R165), the cause codes (R276) and ONE inductive, Instr, with a constructor for
every row of the table. The 299 rows with an encoding carry the fields of their format; the 80 rows without one are
events of the part, carrying what the event names. -/

namespace Sys2Proof

/-- An operand code 0x00 to 0xF7 (R38). The codes 0xF8 to 0xFF name nothing: decoding refuses them. -/
inductive Opd where
  | v (n : Fin 192)
  | s (n : Fin 48)
  | vx (k : Fin 4)
  | lane
  | zero
  | group
  | plane
  deriving DecidableEq, Repr

/-- The causes of R276, by name. -/
inductive Cause where
  | illegalOpcode | illegalFunction | reservedField | illegalOperand | modifier | lineParity | lineReserved
  | branchTarget | fetchRange | pairAlign | regRange | indexRange | csrNumber | csrAccess
  | planeAlign | planeRange
  | intDivzero | intOverflow | fpInvalid | fpDivzero | fpOverflow | fpUnderflow | fpInexact | quantSat
  | vaRange | pageAbsent | pteFormat | readPerm | writePerm | writeDirty | fetchPerm
  | misaligned | scratchRange | remoteRank | constRange | roPath | poison | paRange | atomicKind | walkError
  | resRange | sinkSpan | sinkIllegal | sinkLength | sinkOperand
  | tileRange | tileState | tileUndef | tileBounds | cpyCard | cpyFootprint | mxFormat | mxShape
  | mxTernCode | mxMismatch | mxPlaneLost
  | barScope | divstackOverflow | barRearrive | barToken | queuePointer | saveCheck
  | resourceRetired | leaseRange | partDestroyed | osKill
  | nearFormat | nearRegion | nearBounds | nearPerm | nearStation | nearNocfg | nearStall | nearPoison
  | nearRecord | nearSegment
  | fabricTimeout | fabricUnreachable | userTrap | breakpoint | trapNested | stateError
  deriving DecidableEq, Repr

/-- Access size of the memory form (R32). -/
inductive Size where
  | b8 | b16 | b32 | b64 | b128
  deriving DecidableEq, Repr

/-- ORDER of the memory form (R32). -/
inductive Order where
  | plain | acq | rel | ar
  deriving DecidableEq, Repr

/-- Scopes (R11). -/
inductive Scope where
  | core | quad | die | pkg | pod | sys
  deriving DecidableEq, Repr

/-- HINT of the memory form (R32). -/
inductive Hint where
  | default | stream | keepL1 | bypassL1
  deriving DecidableEq, Repr

/-- The register form (R29, R30) less its function-specific bits. -/
structure RegF where
  guard : BitVec 3
  ginv : Bool
  d : Opd
  a : Opd
  b : Opd
  c : Opd
  nega : Bool
  absa : Bool
  negb : Bool
  absb : Bool
  negc : Bool
  absc : Bool
  clamp : BitVec 2
  scale : BitVec 5
  hold : BitVec 2
  deriving DecidableEq, Repr

/-- The immediate form (R29, R31). -/
structure ImmF where
  guard : BitVec 3
  ginv : Bool
  d : Opd
  a : Opd
  imm : Word
  deriving DecidableEq, Repr

/-- The memory form (R29, R32). -/
structure MemF where
  guard : BitVec 3
  ginv : Bool
  d : Opd
  a : Opd
  s : Opd
  t : Opd
  size : Size
  order : Order
  scope : Scope
  hint : Hint
  offset : BitVec 20
  deriving DecidableEq, Repr

/-- The branch form (R29, R33). -/
structure BrF where
  guard : BitVec 3
  ginv : Bool
  d : Opd
  a : Opd
  jslot : BitVec 3
  jdisp : BitVec 20
  cmask : BitVec 3
  cinv : Bool
  slot : BitVec 3
  disp : BitVec 20
  deriving DecidableEq, Repr

/-- The engine form (R29, R34). -/
structure EngF where
  guard : BitVec 3
  ginv : Bool
  d : Opd
  a : Opd
  b : Opd
  c : Opd
  tile : BitVec 6
  acc : BitVec 2
  flags : BitVec 4
  scope : Scope
  deriving DecidableEq, Repr

/-- The system form (R29, R35). -/
structure SysF where
  guard : BitVec 3
  ginv : Bool
  d : Opd
  a : Opd
  csr : BitVec 12
  b : Opd
  imm16 : BitVec 16
  deriving DecidableEq, Repr

/-- The SINK header (R165). -/
structure SinkF where
  guard : BitVec 3
  ginv : Bool
  log : BitVec 8
  out0 : BitVec 8
  in0 : BitVec 8
  in1 : BitVec 8
  in2 : BitVec 8
  in3 : BitVec 8
  out1 : BitVec 8
  len : BitVec 4
  nin : BitVec 3
  nout : BitVec 2
  inplace : Bool
  loc : Bool
  deriving DecidableEq, Repr

/-- Function-specific field of the cross-lane instructions (R87). -/
structure LaneX where
  lane5 : BitVec 5
  usei : Bool
  w64 : Bool
  sgn : BitVec 2
  deriving DecidableEq, Repr

/-- Element fields of the conversions (R158). -/
structure ElemX where
  rms : BitVec 3
  pos : BitVec 3
  scb : Bool
  ef : BitVec 4
  deriving DecidableEq, Repr

/-- Function-specific field of VQUANT (R161). `scd` is the raw code of the scale register field. -/
structure QuantX where
  scd : BitVec 8
  qf : BitVec 4
  pack : Bool
  deriving DecidableEq, Repr

/-- Function-specific field of the atomics (R118). -/
structure SpaceX where
  space : BitVec 2
  rank : BitVec 4
  deriving DecidableEq, Repr

/-- Function-specific field of ACCRD (R228). -/
structure AccrdX where
  ofmt : BitVec 4
  sat : Bool
  row0 : BitVec 8
  nrows : BitVec 7
  deriving DecidableEq, Repr

/-- One of the two program counter slots of a group (R12). -/
inductive SlotId where
  | A | B
  deriving DecidableEq, Repr

/-- Where a block is placed: its core and the port of each of its groups (R10). -/
structure Place where
  core : Nat
  ports : List Nat
  deriving DecidableEq, Repr

/-- A resource of a partition (R278, R281). -/
inductive Resource where
  | quad (n : Nat)
  | station (n : Nat)
  | hall (n : Nat)
  | eth (n : Nat)
  | nvme (n : Nat)
  deriving DecidableEq, Repr

/-- What a debugger access names (R273). -/
inductive DbgSpace where
  | v (entry : Nat) (lane : Nat)
  | s (n : Nat)
  | m (n : Nat)
  | xbase (k : Nat)
  | xlimit (k : Nat)
  | xindex (k : Nat) (lane : Nat)
  | csr (n : Nat) (lane : Nat) (high : Bool)
  | slotState (slot : SlotId) (word : Nat)
  | acc (a : Nat) (row : Nat) (col : Nat)
  | tile (t : Nat) (word : Nat)
  deriving DecidableEq, Repr

/-- Completion of a host-window access (R294). -/
inductive CplStatus where
  | successful | unsupported | completerAbort
  deriving DecidableEq, Repr

/-- A settable field of the capability table (R279). -/
inductive CapField where
  | min | ucost | cap
  deriving DecidableEq, Repr

/-- What CTX.BUDGET sets (R279). -/
inductive Budget where
  | memory (rate depth : Nat)
  | fabric (rate depth : Nat)
  | p3quota (units : Nat)
  deriving DecidableEq, Repr

/-- Where a soft error is met (R275): counted at a core, an L2 slice, a station or a pseudo-channel. -/
inductive ErrUnit where
  | core (n : Nat)
  | slice (n : Nat)
  | station (n : Nat)
  | channel (n : Nat)
  deriving DecidableEq, Repr

/-- What a soft error hits (R103, R275). -/
inductive ErrHit where
  | corrected
  | data (pa : Nat)
  | scratch (block : Nat) (off : Nat)
  | groupState (gid : Nat)
  | tileEntry (block : Nat)
  deriving DecidableEq, Repr

/-- What the home in another package answers (R296): data with the lanes whose sector is poisoned, for a packet its line with its
poisoned sectors, or PA_RANGE (R94). -/
inductive Resp where
  | data (bs : List Byte) (poisoned : List Nat)
  | paRange
  deriving DecidableEq, Repr

/-- A sink packet of another package that travels to its home line here (R171, R175): the header, the region's words by plane from
its first load on with the slots' UNI bits, the lanes with their virtual lines and leaves, and what the header captured for
them, as keyed stores. -/
structure FarPacket where
  line : Nat
  hdr : SinkF
  words : List (List (Nat × IWord))
  unis : List Bool
  lanes : BitVec 32
  pages : List (Nat × Nat × DWord)
  fpMode : BitVec 2
  regs : List (Nat × Word)
  sregs : List (Nat × Word)
  masks : List (Nat × Word)
  planes : List (Nat × BitVec 2)
  num : Nat
  deriving DecidableEq, Repr

/-- A request from another package (R296); a store names the 64-byte sectors of its data that cross poisoned, counted from its
first; an atomic has the operand and the compare value of each lane that it combines, in ascending order (R119). -/
inductive RemoteReq where
  | load (pa : Nat) (len : Nat)
  | store (pa : Nat) (data : List Byte) (poisoned : List Nat)
  | atom (fn : Nat) (wide : Bool) (pa : Nat) (ops : List (DWord × DWord))
  | packet (p : FarPacket)
  deriving DecidableEq, Repr

/-- Where a host access leads (R293): PF 0 BAR 0, a virtual function's BAR 0 (the partition window, which hall cores reach too), or
its BAR 4. -/
inductive HostBar where
  | porch
  | window (part : Nat)
  | memory (part : Nat)
  deriving DecidableEq, Repr

/-- A doorbell: a queue's, in the BAR 0 of a partition's virtual function (R182, R293). -/
structure Bell where
  part : Nat
  queue : Nat
  deriving DecidableEq, Repr

/-- What a host write carries: bytes, or an AtomicOp that the device completes (R293). -/
inductive HostOp where
  | write (data : List Byte)
  | atom (fn : Nat) (wide : Bool) (x t : DWord)
  deriving DecidableEq, Repr

/-- A boot image as the porch sees it (R300): its key, body and signature. -/
structure BootImage where
  key : List Byte
  body : List Byte
  sig : List Byte
  deriving DecidableEq, Repr

/-- Every row of spec/opcode_table.json: the words a sink region may hold (R168), then the events, then the other words,
each in the table's order. -/
inductive Instr where
  | nop
  | mand (x : RegF)
  | mor (x : RegF)
  | mxor (x : RegF)
  | mandn (x : RegF)
  | mnot (x : RegF)
  | mmov (x : RegF)
  | mtos (x : RegF)
  | stom (x : RegF)
  | mpopc (x : RegF)
  | mffs (x : RegF)
  | many (x : RegF)
  | mall (x : RegF)
  | meq (x : RegF)
  | vaddI32 (x : RegF)
  | vsubI32 (x : RegF)
  | vaddSatI32 (x : RegF)
  | vsubSatI32 (x : RegF)
  | vaddSatB32 (x : RegF)
  | vsubSatB32 (x : RegF)
  | vmulI32 (x : RegF)
  | vmulhiI32 (x : RegF)
  | vmulhiB32 (x : RegF)
  | vmadI32 (x : RegF)
  | vmadwI32 (x : RegF)
  | vmadwB32 (x : RegF)
  | vaddB64 (x : RegF)
  | vsubB64 (x : RegF)
  | vminI32 (x : RegF)
  | vmaxI32 (x : RegF)
  | vminB32 (x : RegF)
  | vmaxB32 (x : RegF)
  | vabsI32 (x : RegF)
  | vnegI32 (x : RegF)
  | vandB32 (x : RegF)
  | vorB32 (x : RegF)
  | vxorB32 (x : RegF)
  | vandnB32 (x : RegF)
  | vnotB32 (x : RegF)
  | vshlB32 (x : RegF)
  | vshrB32 (x : RegF)
  | vshrI32 (x : RegF)
  | vmovB32 (x : RegF)
  | vselB32 (x : RegF) (selm : BitVec 3)
  | vdp4I8 (x : RegF)
  | vdp4B8 (x : RegF)
  | vaddI32Imm (x : ImmF)
  | vsubI32Imm (x : ImmF)
  | vaddSatI32Imm (x : ImmF)
  | vsubSatI32Imm (x : ImmF)
  | vaddSatB32Imm (x : ImmF)
  | vsubSatB32Imm (x : ImmF)
  | vmulI32Imm (x : ImmF)
  | vmulhiI32Imm (x : ImmF)
  | vmulhiB32Imm (x : ImmF)
  | vminI32Imm (x : ImmF)
  | vmaxI32Imm (x : ImmF)
  | vminB32Imm (x : ImmF)
  | vmaxB32Imm (x : ImmF)
  | vandB32Imm (x : ImmF)
  | vorB32Imm (x : ImmF)
  | vxorB32Imm (x : ImmF)
  | vandnB32Imm (x : ImmF)
  | vshlB32Imm (x : ImmF)
  | vshrB32Imm (x : ImmF)
  | vshrI32Imm (x : ImmF)
  | vmovB32Imm (x : ImmF)
  | vcmpEqB32 (x : RegF) (comb : BitVec 2)
  | vcmpNeB32 (x : RegF) (comb : BitVec 2)
  | vcmpLtI32 (x : RegF) (comb : BitVec 2)
  | vcmpLeI32 (x : RegF) (comb : BitVec 2)
  | vcmpGtI32 (x : RegF) (comb : BitVec 2)
  | vcmpGeI32 (x : RegF) (comb : BitVec 2)
  | vcmpLtB32 (x : RegF) (comb : BitVec 2)
  | vcmpLeB32 (x : RegF) (comb : BitVec 2)
  | vcmpGtB32 (x : RegF) (comb : BitVec 2)
  | vcmpGeB32 (x : RegF) (comb : BitVec 2)
  | vaddF32 (x : RegF)
  | vsubF32 (x : RegF)
  | vmulF32 (x : RegF)
  | vfmaF32 (x : RegF)
  | vrndF32 (x : RegF) (rms : BitVec 3)
  | vldexpF32 (x : RegF)
  | vclassF32 (x : RegF)
  | vaddF32Imm (x : ImmF)
  | vsubF32Imm (x : ImmF)
  | vmulF32Imm (x : ImmF)
  | vsubrF32 (x : ImmF)
  | vfcmpEqF32 (x : RegF) (comb : BitVec 2)
  | vfcmpNeF32 (x : RegF) (comb : BitVec 2)
  | vfcmpLtF32 (x : RegF) (comb : BitVec 2)
  | vfcmpLeF32 (x : RegF) (comb : BitVec 2)
  | vfcmpGtF32 (x : RegF) (comb : BitVec 2)
  | vfcmpGeF32 (x : RegF) (comb : BitVec 2)
  | vfcmpUnF32 (x : RegF) (comb : BitVec 2)
  | vfcmpOrdF32 (x : RegF) (comb : BitVec 2)
  | vminF32 (x : RegF)
  | vmaxF32 (x : RegF)
  | ldG (x : MemF) (sx : Bool)
  | stG (x : MemF)
  | atomAddI32 (x : MemF) (sp : SpaceX)
  | atomAddB64 (x : MemF) (sp : SpaceX)
  | atomMinI32 (x : MemF) (sp : SpaceX)
  | atomMaxI32 (x : MemF) (sp : SpaceX)
  | atomMinB32 (x : MemF) (sp : SpaceX)
  | atomMaxB32 (x : MemF) (sp : SpaceX)
  | atomAndB32 (x : MemF) (sp : SpaceX)
  | atomOrB32 (x : MemF) (sp : SpaceX)
  | atomXorB32 (x : MemF) (sp : SpaceX)
  | atomExchB32 (x : MemF) (sp : SpaceX)
  | atomExchB64 (x : MemF) (sp : SpaceX)
  | atomCasB32 (x : MemF) (sp : SpaceX)
  | atomCasB64 (x : MemF) (sp : SpaceX)
  | atomAddF32 (x : MemF) (sp : SpaceX)
  | atomIncB32 (x : MemF) (sp : SpaceX)
  | atomDecB32 (x : MemF) (sp : SpaceX)
  | joinEntryReadReturn (gid : Nat) (slot : SlotId)
  | barWaitProceed (gid : Nat) (slot : SlotId)
  | loadReturn (k : Nat) (resp : Resp)
  | sinkPacketAccept (k : Nat)
  | sinkPacketExecute (k : Nat)
  | sinkPacketLand (k : Nat)
  | copyJobAccept (gid : Nat) (slot : SlotId)
  | copyJobComplete (core : Nat) (k : Nat)
  | followOnEnqueue (core : Nat)
  | matrixCommandExecute (core : Nat)
  | mxWindowEnd (core : Nat)
  | leaseExpiry (k : Nat)
  | registerUnitDrowsy (core : Nat) (port : Nat) (unit : Nat)
  | trapEntry (gid : Nat) (slot : SlotId)
  | deferredTrapTake (gid : Nat) (slot : SlotId)
  | faultRecordPost (k : Nat)
  | fqPop (part : Nat) (cmd : BitVec 128)
  | ctxResume (part : Nat) (cmd : BitVec 128)
  | ctxKill (part : Nat) (cmd : BitVec 128)
  | dbgHalt (ctx : Nat) (core : Nat) (group : Nat)
  | dbgStep (ctx : Nat) (core : Nat) (group : Nat) (slot : SlotId)
  | dbgGo (ctx : Nat) (core : Nat) (group : Nat)
  | dbgBkpt (ctx : Nat) (on : Bool)
  | dbgRead (ctx : Nat) (core : Nat) (group : Nat) (sp : DbgSpace)
  | dbgWrite (ctx : Nat) (core : Nat) (group : Nat) (sp : DbgSpace) (value : Word)
  | queueCreate (ctx : Nat) (base : Nat) (log2n : Nat) (status : Nat)
  | doorbellWrite (bell : Bell) (value : DWord)
  | packetAccept (q : Nat)
  | dependenceRead (launch : Nat)
  | blockResident (launch : Nat) (places : List Place)
  | launchComplete (launch : Nat)
  | queueDestroy (q : Nat) (abort : Bool)
  | timeSliceExpiry (ctx : Nat)
  | contextResume (ctx : Nat) (places : List Place)
  | tlbInvalidate (ctx : Nat) (va : Nat) (len : Nat)
  | hostWrite (bar : HostBar) (off : Nat) (op : HostOp)
  | hostAccessCompletion (k : Nat) (status : CplStatus) (data : List Byte)
  | hostAccessTimeout (k : Nat)
  | fabricTimeout (k : Nat)
  | linkFlitRetry (link : Nat)
  | linkDown (link : Nat)
  | functionReady (bit : Nat) (namespaces : List (Nat × Nat))
  | nearCommandStart (ctx : Nat)
  | nnop (k : Nat)
  | cgraCfg (k : Nat)
  | cgraRun (k : Nat)
  | nearStall (k : Nat)
  | ireduce (k : Nat)
  | bseq (k : Nat)
  | nrtSet (part : Nat) (cmd : BitVec 512)
  | nrtClear (part : Nat) (cmd : BitVec 512)
  | partCreate (p : Nat) (res : List Resource) (minQuads : Nat) (minGiB : Nat) (image : Nat) (imageLen : Nat) (entry : Nat)
  | partGrow (p : Nat) (res : List Resource)
  | partShrink (p : Nat) (res : List Resource)
  | partDestroy (p : Nat)
  | capSet (entry : Nat) (field : CapField) (value : Word)
  | ctxBudget (ctx : Nat) (what : Budget)
  | resourceRetire (r : Resource)
  | bucketRefill
  | governorWindow (quad : Nat)
  | ilimNAssert
  | ilimNDeassert
  | sheddingStep
  | nvmeDataTransfer (ns : Nat) (pa : Nat) (len : Nat) (data : List Byte) (toDrive : Bool)
  | packageReset
  | mailboxImage (img : BootImage)
  | flashWrite (img : BootImage)
  | hartStart (part : Nat) (hart : Nat) (entry : Nat)
  | attest (part : Option Nat) (nonce : List Byte)
  | contextCreate (ctx : Nat) (part : Nat) (root : Nat)
  | timeSliceSet (ctx : Nat) (ns : Nat)
  | storePerformed (k : Nat)
  | pageWalkComplete (k : Nat)
  | softError (u : ErrUnit) (hit : ErrHit)
  | errorCounterClear (u : ErrUnit) (correctable : Bool)
  | remoteRequestArrive (req : RemoteReq)
  | routeTableSet (presence : BitVec 432) (routes : List (Nat × List Nat))
  | ethernetFrameReceive (port : Nat) (pa : Nat) (frame : List Byte)
  | hostRead (bar : HostBar) (off : Nat) (len : Nat)
  | resEvictDone (ctx : Nat) (h : Nat)
  | saddI32 (x : RegF)
  | ssubI32 (x : RegF)
  | smulI32 (x : RegF)
  | smulhiI32 (x : RegF)
  | smulhiB32 (x : RegF)
  | sandB32 (x : RegF)
  | sorB32 (x : RegF)
  | sxorB32 (x : RegF)
  | sandnB32 (x : RegF)
  | sshlB32 (x : RegF)
  | sshrB32 (x : RegF)
  | sshrI32 (x : RegF)
  | sminI32 (x : RegF)
  | smaxI32 (x : RegF)
  | sminB32 (x : RegF)
  | smaxB32 (x : RegF)
  | smovB32 (x : RegF)
  | saddB64 (x : RegF)
  | ssubB64 (x : RegF)
  | spopcB32 (x : RegF)
  | sclzB32 (x : RegF)
  | smadI32 (x : RegF)
  | saddI32Imm (x : ImmF)
  | ssubI32Imm (x : ImmF)
  | smulI32Imm (x : ImmF)
  | smulhiI32Imm (x : ImmF)
  | smulhiB32Imm (x : ImmF)
  | sandB32Imm (x : ImmF)
  | sorB32Imm (x : ImmF)
  | sxorB32Imm (x : ImmF)
  | sandnB32Imm (x : ImmF)
  | sshlB32Imm (x : ImmF)
  | sshrB32Imm (x : ImmF)
  | sshrI32Imm (x : ImmF)
  | sminI32Imm (x : ImmF)
  | smaxI32Imm (x : ImmF)
  | sminB32Imm (x : ImmF)
  | smaxB32Imm (x : ImmF)
  | smovB32Imm (x : ImmF)
  | scmpEqB32 (x : RegF)
  | scmpNeB32 (x : RegF)
  | scmpLtI32 (x : RegF)
  | scmpLeI32 (x : RegF)
  | scmpGtI32 (x : RegF)
  | scmpGeI32 (x : RegF)
  | scmpLtB32 (x : RegF)
  | scmpLeB32 (x : RegF)
  | scmpGtB32 (x : RegF)
  | scmpGeB32 (x : RegF)
  | sselB32 (x : RegF)
  | bra (x : BrF)
  | braAny (x : BrF)
  | braAll (x : BrF)
  | braNz (x : BrF)
  | braZ (x : BrF)
  | brx (x : BrF)
  | call (x : BrF)
  | callx (x : BrF)
  | ret (x : BrF)
  | dbra (x : BrF)
  | join (x : BrF)
  | exit (x : BrF)
  | pset (x : RegF)
  | pget (x : RegF)
  | barArrive (x : EngF) (bid : BitVec 4)
  | barWait (x : EngF) (bid : BitVec 4)
  | barMeet (x : EngF) (bid : BitVec 4)
  | csrr (x : SysF)
  | csrw (x : SysF)
  | trap (x : SysF)
  | bkpt (x : SysF)
  | vxtrB32 (x : RegF)
  | vxtrI32 (x : RegF)
  | vinsB32 (x : RegF)
  | vpopcB32 (x : RegF)
  | vclzB32 (x : RegF)
  | vctzB32 (x : RegF)
  | vbrevB32 (x : RegF)
  | vbselB8 (x : RegF)
  | vfunB32 (x : RegF)
  | vdivI32 (x : RegF)
  | vremI32 (x : RegF)
  | vdivB32 (x : RegF)
  | vremB32 (x : RegF)
  | vdivremI32 (x : RegF)
  | vdivremB32 (x : RegF)
  | vxlnPick (x : RegF) (lx : LaneX)
  | vxlnLower (x : RegF) (lx : LaneX)
  | vxlnUpper (x : RegF) (lx : LaneX)
  | vxlnMirror (x : RegF) (lx : LaneX)
  | vswapp (x : RegF) (lx : LaneX)
  | vxlnFan (x : RegF) (lx : LaneX)
  | vxlnTake (x : RegF) (lx : LaneX)
  | vxlnPut (x : RegF) (lx : LaneX)
  | vpollSome (x : RegF)
  | vpollEvery (x : RegF)
  | vpollMap (x : RegF)
  | vpollSame (x : RegF)
  | vpollPeers (x : RegF)
  | vredAddI32 (x : RegF)
  | vredMinI32 (x : RegF)
  | vredMaxI32 (x : RegF)
  | vredMinB32 (x : RegF)
  | vredMaxB32 (x : RegF)
  | vredAndB32 (x : RegF)
  | vredOrB32 (x : RegF)
  | vredXorB32 (x : RegF)
  | vredAddF32 (x : RegF)
  | vredMinF32 (x : RegF)
  | vredMaxF32 (x : RegF)
  | vscanAddI32 (x : RegF)
  | vaddF16x2 (x : RegF) (bf : Bool)
  | vsubF16x2 (x : RegF) (bf : Bool)
  | vmulF16x2 (x : RegF) (bf : Bool)
  | vfmaF16x2 (x : RegF) (bf : Bool)
  | vminF16x2 (x : RegF) (bf : Bool)
  | vmaxF16x2 (x : RegF) (bf : Bool)
  | vdot2F32F16x2 (x : RegF) (bf : Bool)
  | vfdiv (x : RegF)
  | vfsqrt (x : RegF)
  | vsinr (x : RegF)
  | vcosr (x : RegF)
  | vsinpi (x : RegF)
  | vcospi (x : RegF)
  | vexp2 (x : RegF)
  | vlog2 (x : RegF)
  | vrcp (x : RegF)
  | vrsq (x : RegF)
  | vcvtF32I32 (x : RegF) (rms : BitVec 3)
  | vcvtF32B32 (x : RegF) (rms : BitVec 3)
  | vcvtI32F32 (x : RegF) (rms : BitVec 3)
  | vcvtB32F32 (x : RegF) (rms : BitVec 3)
  | vcvtF32F16 (x : RegF) (hi : Bool)
  | vcvtF32Bf16 (x : RegF) (hi : Bool)
  | vcvtF16x2F32 (x : RegF) (rms : BitVec 3)
  | vcvtBf16x2F32 (x : RegF) (rms : BitVec 3)
  | vcvtFmtF32 (x : RegF) (ex : ElemX)
  | vcvtF32Fmt (x : RegF) (ex : ElemX)
  | vcvtF32E8m0 (x : RegF)
  | vhad32 (x : RegF)
  | vhad32N (x : RegF)
  | vquant (x : RegF) (qx : QuantX)
  | ldS (x : MemF) (sx : Bool)
  | stS (x : MemF)
  | ldRs (x : MemF) (sx : Bool)
  | stRs (x : MemF)
  | ldC (x : MemF) (sx : Bool)
  | ldRo (x : MemF) (sx : Bool)
  | fenceAcq (x : MemF)
  | fenceRel (x : MemF)
  | fenceAr (x : MemF)
  | fenceRo (x : MemF)
  | pfG (x : MemF) (level : BitVec 2)
  | resSet (x : MemF) (h : BitVec 6) (prio : BitVec 2)
  | resDemote (x : MemF) (h : BitVec 6)
  | resEvict (x : MemF) (h : BitVec 6)
  | sink (x : SinkF)
  | fbp (x : ImmF) (mask : BitVec 8)
  | xset (x : RegF) (k : BitVec 2)
  | xidx (x : RegF) (k : BitVec 2)
  | xadd (x : RegF) (k : BitVec 2)
  | xget (x : RegF) (k : BitVec 2)
  | launch (x : EngF)
  | nqpost (x : EngF)
  | nqpoll (x : EngF)
  | tdef (x : EngF) (pitch : BitVec 12) (owner : BitVec 3)
  | trel (x : EngF)
  | trelPub (x : EngF)
  | tstate (x : EngF)
  | cpy (x : EngF)
  | cpySt (x : EngF)
  | cpyGath (x : EngF)
  | cpyScat (x : EngF)
  | cpyMx (x : EngF)
  | mldw (x : EngF)
  | mma (x : EngF)
  | accz (x : EngF)
  | accrd (x : EngF) (ax : AccrdX)
  | accrdReg (x : EngF) (ax : AccrdX)
  | accst (x : EngF)
  | accstW (x : EngF)
  | accprom (x : EngF)
  | lease (x : SysF)
  deriving DecidableEq, Repr

end Sys2Proof
end

