-- ==== Sys2Proof/Machine/Rows.lean ====
section
/-! DEFINITION. Operand codes and classes (R38, R39), the codes of the enumerated fields (R11, R32), the control
registers (R51), and for each instruction the row of its operand classes, widths, permitted modifiers and issue class,
as the instruction's own description gives them. The decoder, well-formedness and the issue checks read the same rows. -/

namespace Sys2Proof

/-! ## Operand codes (R38) -/

/-- The 8-bit code of an operand (R38). -/
def opdCode : Opd → BitVec 8
  | .v n => BitVec.ofNat 8 n.val
  | .s n => BitVec.ofNat 8 (0xC0 + n.val)
  | .vx k => BitVec.ofNat 8 (0xF0 + k.val)
  | .lane => 0xF4#8
  | .zero => 0xF5#8
  | .group => 0xF6#8
  | .plane => 0xF7#8

/-- The operand a code names; the codes 0xF8 to 0xFF name none (R38). -/
def opdOf (c : BitVec 8) : Option Opd :=
  if h : c.toNat < 192 then some (.v ⟨c.toNat, h⟩)
  else if h : c.toNat - 192 < 48 then some (.s ⟨c.toNat - 192, h⟩)
  else if h : c.toNat - 240 < 4 then some (.vx ⟨c.toNat - 240, h⟩)
  else if c = 0xF4#8 then some .lane
  else if c = 0xF5#8 then some .zero
  else if c = 0xF6#8 then some .group
  else if c = 0xF7#8 then some .plane
  else none

/-- The operand code 0x00, which a field that is not used must hold (R30). -/
def opdZero : Opd := .v 0

/-- What an operand position accepts. -/
inductive OpClass where
  /-- not used: the field holds 0x00, otherwise RESERVED_FIELD (R37) -/
  | none
  /-- class-S source: s, %zero, %group (R38) -/
  | srcS
  /-- class-S destination: s, %zero (R38) -/
  | dstS
  /-- an s code and no other -/
  | sOnly
  /-- an s code or %zero -/
  | sOrZero
  /-- class-V source: v, vx, s and the special codes (R38) -/
  | srcV
  /-- class-V destination: v, vx, %zero (R38) -/
  | dstV
  /-- v or vx -/
  | vecOnly
  /-- v, vx or s -/
  | vecOrS
  /-- a v code and no other -/
  | vOnly
  /-- v, s or a special code (R46) -/
  | xSrc
  /-- s or v (R89) -/
  | redD
  /-- a mask number 0 to 7 as its code (R61) -/
  | maskSrc
  /-- a mask number 1 to 7 as its code (R41, R61) -/
  | maskDst
  /-- an s code whose number is a multiple of 4 (R209, R219) -/
  | card
  /-- s0, s4, s8, s12 or s16 (R192) -/
  | launchB
  /-- s0, s16 or s32 (R240) -/
  | nqB
  /-- 0x00 or an s code (R205) -/
  | tileIx
  deriving DecidableEq, Repr

/-- Whether an operand position of a class accepts an operand. DEDUCED (log 15), unsafe. -/
def accepts (c : OpClass) (o : Opd) : Bool :=
  match c with
  | .none => o == opdZero
  | .srcS => match o with | .s _ => true | .zero => true | .group => true | _ => false
  | .dstS => match o with | .s _ => true | .zero => true | _ => false
  | .sOnly => match o with | .s _ => true | _ => false
  | .sOrZero => match o with | .s _ => true | .zero => true | _ => false
  | .srcV => true
  | .dstV => match o with | .v _ => true | .vx _ => true | .zero => true | _ => false
  | .vecOnly => match o with | .v _ => true | .vx _ => true | _ => false
  | .vecOrS => match o with | .v _ => true | .vx _ => true | .s _ => true | _ => false
  | .vOnly => match o with | .v _ => true | _ => false
  | .xSrc => match o with | .vx _ => false | _ => true
  | .redD => match o with | .v _ => true | .s _ => true | _ => false
  | .maskSrc => match o with | .v n => n.val < 8 | _ => false
  | .maskDst => match o with | .v n => 0 < n.val && n.val < 8 | _ => false
  | .card => match o with | .s n => n.val % 4 == 0 | _ => false
  | .launchB => match o with | .s n => n.val % 4 == 0 && n.val ≤ 16 | _ => false
  | .nqB => match o with | .s n => n.val % 16 == 0 | _ => false
  | .tileIx => match o with | .s _ => true | o => o == opdZero

/-- Issue class of an instruction (R36). -/
inductive IClass where
  | S | V
  deriving DecidableEq, Repr

/-- One operand position: its class and how many registers it names (R39). -/
structure OpSpec where
  cls : OpClass
  w : Nat
  deriving DecidableEq, Repr

/-- What a register-form instruction's description fixes: issue class, whether the guard has a meaning (R29), the
operands, which source modifiers, CLAMP and SCALE are permitted (R40). -/
structure RegRow where
  cls : IClass
  guardOk : Bool
  d : OpSpec
  a : OpSpec
  b : OpSpec
  c : OpSpec
  nA : Bool
  nB : Bool
  nC : Bool
  clampOk : Bool
  scaleOk : Bool
  deriving DecidableEq, Repr

def rSSS : RegRow :=
  ⟨.S, false, ⟨.dstS, 1⟩, ⟨.srcS, 1⟩, ⟨.srcS, 1⟩, ⟨.none, 1⟩, false, false, false, false, false⟩
def rSS : RegRow :=
  ⟨.S, false, ⟨.dstS, 1⟩, ⟨.srcS, 1⟩, ⟨.none, 1⟩, ⟨.none, 1⟩, false, false, false, false, false⟩
def rSSSS : RegRow :=
  ⟨.S, false, ⟨.dstS, 1⟩, ⟨.srcS, 1⟩, ⟨.srcS, 1⟩, ⟨.srcS, 1⟩, false, false, false, false, false⟩
def rSS64 : RegRow :=
  ⟨.S, false, ⟨.dstS, 2⟩, ⟨.srcS, 2⟩, ⟨.srcS, 2⟩, ⟨.none, 1⟩, false, false, false, false, false⟩
def rMMM : RegRow :=
  ⟨.S, false, ⟨.maskDst, 1⟩, ⟨.maskSrc, 1⟩, ⟨.maskSrc, 1⟩, ⟨.none, 1⟩, false, false, false, false, false⟩
def rMM : RegRow :=
  ⟨.S, false, ⟨.maskDst, 1⟩, ⟨.maskSrc, 1⟩, ⟨.none, 1⟩, ⟨.none, 1⟩, false, false, false, false, false⟩
def rSM : RegRow :=
  ⟨.S, false, ⟨.dstS, 1⟩, ⟨.maskSrc, 1⟩, ⟨.none, 1⟩, ⟨.none, 1⟩, false, false, false, false, false⟩
def rMS : RegRow :=
  ⟨.S, false, ⟨.maskDst, 1⟩, ⟨.srcS, 1⟩, ⟨.none, 1⟩, ⟨.none, 1⟩, false, false, false, false, false⟩
def rSMM : RegRow :=
  ⟨.S, false, ⟨.dstS, 1⟩, ⟨.maskSrc, 1⟩, ⟨.maskSrc, 1⟩, ⟨.none, 1⟩, false, false, false, false, false⟩
def rVVV : RegRow :=
  ⟨.V, false, ⟨.dstV, 1⟩, ⟨.srcV, 1⟩, ⟨.srcV, 1⟩, ⟨.none, 1⟩, false, false, false, false, false⟩
def rVV : RegRow :=
  ⟨.V, false, ⟨.dstV, 1⟩, ⟨.srcV, 1⟩, ⟨.none, 1⟩, ⟨.none, 1⟩, false, false, false, false, false⟩
def rVVVV : RegRow :=
  ⟨.V, false, ⟨.dstV, 1⟩, ⟨.srcV, 1⟩, ⟨.srcV, 1⟩, ⟨.srcV, 1⟩, false, false, false, false, false⟩
def rMadw : RegRow :=
  ⟨.V, false, ⟨.dstV, 2⟩, ⟨.srcV, 1⟩, ⟨.srcV, 1⟩, ⟨.srcV, 2⟩, false, false, false, false, false⟩
def rV64 : RegRow :=
  ⟨.V, false, ⟨.dstV, 2⟩, ⟨.srcV, 2⟩, ⟨.srcV, 2⟩, ⟨.none, 1⟩, false, false, false, false, false⟩
def rDivrem : RegRow :=
  ⟨.V, false, ⟨.dstV, 2⟩, ⟨.srcV, 1⟩, ⟨.srcV, 1⟩, ⟨.none, 1⟩, false, false, false, false, false⟩
def rCmp : RegRow :=
  ⟨.V, false, ⟨.maskDst, 1⟩, ⟨.srcV, 1⟩, ⟨.srcV, 1⟩, ⟨.none, 1⟩, false, false, false, false, false⟩
def rFcmp : RegRow :=
  ⟨.V, false, ⟨.maskDst, 1⟩, ⟨.srcV, 1⟩, ⟨.srcV, 1⟩, ⟨.none, 1⟩, true, true, false, false, false⟩
def rPoll : RegRow :=
  ⟨.S, true, ⟨.sOnly, 1⟩, ⟨.srcV, 1⟩, ⟨.none, 1⟩, ⟨.none, 1⟩, false, false, false, false, false⟩
def rPeers : RegRow :=
  ⟨.S, true, ⟨.vOnly, 1⟩, ⟨.srcV, 1⟩, ⟨.none, 1⟩, ⟨.none, 1⟩, false, false, false, false, false⟩
def rRed : RegRow :=
  ⟨.S, true, ⟨.redD, 1⟩, ⟨.srcV, 1⟩, ⟨.none, 1⟩, ⟨.none, 1⟩, false, false, false, false, false⟩
def rF2 : RegRow :=
  ⟨.V, false, ⟨.dstV, 1⟩, ⟨.srcV, 1⟩, ⟨.srcV, 1⟩, ⟨.none, 1⟩, true, true, false, true, true⟩
def rF3 : RegRow :=
  ⟨.V, false, ⟨.dstV, 1⟩, ⟨.srcV, 1⟩, ⟨.srcV, 1⟩, ⟨.srcV, 1⟩, true, true, true, true, true⟩
def rFrnd : RegRow :=
  ⟨.V, false, ⟨.dstV, 1⟩, ⟨.srcV, 1⟩, ⟨.none, 1⟩, ⟨.none, 1⟩, true, false, false, true, false⟩
def rFldexp : RegRow :=
  ⟨.V, false, ⟨.dstV, 1⟩, ⟨.srcV, 1⟩, ⟨.srcV, 1⟩, ⟨.none, 1⟩, true, false, false, true, true⟩
def rFminmax : RegRow :=
  ⟨.V, false, ⟨.dstV, 1⟩, ⟨.srcV, 1⟩, ⟨.srcV, 1⟩, ⟨.none, 1⟩, true, true, false, false, false⟩
def rF1 : RegRow :=
  ⟨.V, false, ⟨.dstV, 1⟩, ⟨.srcV, 1⟩, ⟨.none, 1⟩, ⟨.none, 1⟩, true, false, false, true, true⟩
def rCvtP : RegRow :=
  ⟨.V, false, ⟨.dstV, 1⟩, ⟨.srcV, 1⟩, ⟨.none, 1⟩, ⟨.none, 1⟩, false, false, false, false, true⟩
def rCvtNP : RegRow :=
  ⟨.V, false, ⟨.dstV, 1⟩, ⟨.srcV, 1⟩, ⟨.none, 1⟩, ⟨.none, 1⟩, true, false, false, false, true⟩
def rCvtN : RegRow :=
  ⟨.V, false, ⟨.dstV, 1⟩, ⟨.srcV, 1⟩, ⟨.none, 1⟩, ⟨.none, 1⟩, true, false, false, false, false⟩
def rCvtE : RegRow :=
  ⟨.V, false, ⟨.dstV, 1⟩, ⟨.srcV, 1⟩, ⟨.none, 1⟩, ⟨.srcV, 1⟩, true, false, false, true, true⟩
def rHad : RegRow :=
  ⟨.S, true, ⟨.vecOnly, 1⟩, ⟨.vecOrS, 1⟩, ⟨.none, 1⟩, ⟨.none, 1⟩, false, false, false, false, false⟩
def rPset : RegRow :=
  ⟨.S, false, ⟨.none, 1⟩, ⟨.srcV, 1⟩, ⟨.none, 1⟩, ⟨.none, 1⟩, false, false, false, false, false⟩
def rPget : RegRow :=
  ⟨.S, false, ⟨.vecOnly, 1⟩, ⟨.none, 1⟩, ⟨.none, 1⟩, ⟨.none, 1⟩, false, false, false, false, false⟩
def rXset : RegRow :=
  ⟨.S, true, ⟨.none, 1⟩, ⟨.xSrc, 1⟩, ⟨.sOnly, 1⟩, ⟨.sOnly, 1⟩, false, false, false, false, false⟩
def rXidx : RegRow :=
  ⟨.S, true, ⟨.none, 1⟩, ⟨.xSrc, 1⟩, ⟨.none, 1⟩, ⟨.none, 1⟩, false, false, false, false, false⟩
def rXget : RegRow :=
  ⟨.S, true, ⟨.vecOnly, 1⟩, ⟨.none, 1⟩, ⟨.none, 1⟩, ⟨.none, 1⟩, false, false, false, false, false⟩

/-- The row of VCVT.F32.fmt: B is used only with SCB (R159). -/
def rFromElem (ex : ElemX) : RegRow :=
  ⟨.V, false, ⟨.dstV, 1⟩, ⟨.srcV, 1⟩, ⟨if ex.scb then .srcV else .none, 1⟩, ⟨.none, 1⟩, false, false, false, false, false⟩

/-- The rows of the cross-lane functions 0x00 to 0x07 (R87). With USEI the B field is not used; W64 makes A and D pairs. -/
def rLane (fn : Nat) (lx : LaneX) : RegRow :=
  let w := if lx.w64 then 2 else 1
  let b : OpClass := if lx.usei then .none else if fn = 0 then .srcV else if fn = 4 then .none else .sOnly
  let d : OpSpec := if fn = 6 then ⟨.dstS, 1⟩ else ⟨.vecOnly, w⟩
  let a : OpSpec := if fn = 7 then ⟨.srcS, 1⟩ else if fn = 6 then ⟨.vecOnly, 1⟩ else ⟨.srcV, w⟩
  ⟨.S, true, d, a, ⟨b, 1⟩, ⟨.none, 1⟩, false, false, false, false, false⟩

/-- What an immediate-form instruction's description fixes. -/
structure ImmRow where
  cls : IClass
  d : OpClass
  a : OpClass
  deriving DecidableEq, Repr

def iSS : ImmRow := ⟨.S, .dstS, .srcS⟩
def iS : ImmRow := ⟨.S, .dstS, .none⟩
def iVV : ImmRow := ⟨.V, .dstV, .srcV⟩
def iV : ImmRow := ⟨.V, .dstV, .none⟩
def iFbp : ImmRow := ⟨.S, .none, .vOnly⟩

/-- What a memory-form instruction's description fixes: the operand classes, whether A is a pair, the permitted orders,
whether SCOPE must be zero when ORDER is plain, whether ORDER carries a SCOPE at all, whether HINT and OFFSET may be
nonzero, and the SIZE where it is fixed. -/
structure MemRow where
  cls : IClass
  d : OpClass
  a : OpClass
  s : OpClass
  t : OpClass
  aPair : Bool
  orders : List Order
  scopeFree : Bool
  hintOk : Bool
  offOk : Bool
  size : Option Size
  deriving DecidableEq, Repr

/-- LD.G (R113, R114) -/
def mLoad : MemRow := ⟨.V, .vecOnly, .vecOrS, .none, .none, true, [.plain, .acq], false, true, true, none⟩
/-- ST.G (R113, R115) -/
def mStore : MemRow := ⟨.V, .none, .vecOrS, .vecOnly, .none, true, [.plain, .rel], false, true, true, none⟩
/-- Atomics (R118): A is a pair in the global space; T is used by CAS only. -/
def mAtom (cas : Bool) (sz : Size) (sp : SpaceX) : MemRow :=
  ⟨.V, .dstV, .vecOrS, .vecOnly, if cas then .vecOnly else .none, sp.space == 0#2,
    [.plain, .acq, .rel, .ar], true, false, true, some sz⟩
/-- LD.S (R116) -/
def mLoadS : MemRow := ⟨.V, .vecOnly, .vecOrS, .none, .none, false, [.plain, .acq], false, false, true, none⟩
/-- ST.S (R116) -/
def mStoreS : MemRow := ⟨.V, .none, .vecOrS, .vecOnly, .none, false, [.plain, .rel], false, false, true, none⟩
/-- LD.RS (R116) -/
def mLoadRS : MemRow := ⟨.V, .vecOnly, .vecOrS, .none, .vecOrS, false, [.plain, .acq], false, false, true, none⟩
/-- ST.RS (R116) -/
def mStoreRS : MemRow := ⟨.V, .none, .vecOrS, .vecOnly, .vecOrS, false, [.plain, .rel], false, false, true, none⟩
/-- LD.C (R117) -/
def mLoadC : MemRow := ⟨.V, .vecOnly, .vecOrS, .none, .none, false, [.plain], false, false, true, none⟩
/-- LD.RO (R117) -/
def mLoadRO : MemRow := ⟨.V, .vecOnly, .vecOrS, .none, .none, true, [.plain], false, true, true, none⟩
/-- FENCE with ORDER 1, 2 or 3 (R121) -/
def mFence (o : Order) : MemRow := ⟨.S, .none, .none, .none, .none, false, [o], true, false, false, some .b8⟩
/-- FENCE.RO (R121) -/
def mFenceRo : MemRow := ⟨.S, .none, .none, .none, .none, false, [.plain], false, false, false, some .b8⟩
/-- PF.G (R122) -/
def mPf : MemRow := ⟨.V, .none, .vecOrS, .none, .none, true, [.plain], false, true, true, some .b8⟩
/-- RES.SET (R112) -/
def mResSet : MemRow := ⟨.S, .none, .sOnly, .sOnly, .none, true, [.plain], false, false, true, some .b8⟩
/-- RES.DEMOTE and RES.EVICT (R112) -/
def mResH : MemRow := ⟨.S, .none, .none, .none, .none, false, [.plain], false, false, false, some .b8⟩

/-- What a branch-form instruction's description fixes (R63, R66, R67). -/
structure BrRow where
  d : OpClass
  a : OpClass
  join : Bool
  tgt : Bool
  cm : Bool
  deriving DecidableEq, Repr

def bBra : BrRow := ⟨.none, .none, false, true, false⟩
def bCond : BrRow := ⟨.none, .none, false, true, true⟩
def bNz : BrRow := ⟨.none, .sOnly, false, true, false⟩
def bReg : BrRow := ⟨.none, .sOnly, false, false, false⟩
def bCall : BrRow := ⟨.sOnly, .none, false, true, false⟩
def bCallx : BrRow := ⟨.sOnly, .sOnly, false, false, false⟩
def bDbra : BrRow := ⟨.none, .none, true, true, true⟩
def bJoin : BrRow := ⟨.none, .none, false, false, false⟩
def bExit : BrRow := ⟨.none, .none, false, false, true⟩

/-- What an engine-form instruction's description fixes: operand classes, whether TILE, ACC and SCOPE are used, and
the FLAGS bits that may be set. -/
structure EngRow where
  d : OpClass
  a : OpClass
  b : OpClass
  c : OpClass
  tile : Bool
  acc : Bool
  scope : Bool
  flags : BitVec 4
  deriving DecidableEq, Repr

def eArrive : EngRow := ⟨.dstS, .none, .none, .none, false, false, true, 0#4⟩
def eWait : EngRow := ⟨.none, .sOnly, .none, .none, false, false, true, 0#4⟩
def eMeet : EngRow := ⟨.none, .none, .none, .none, false, false, true, 0#4⟩
def eLaunch : EngRow := ⟨.dstS, .none, .launchB, .none, false, false, false, 0#4⟩
def eNqpost : EngRow := ⟨.dstS, .none, .nqB, .none, false, false, false, 0#4⟩
def eNqpoll : EngRow := ⟨.sOnly, .sOnly, .none, .none, false, false, false, 0#4⟩
def eTdef : EngRow := ⟨.none, .tileIx, .sOnly, .sOnly, true, false, false, 0#4⟩
def eTrel : EngRow := ⟨.none, .tileIx, .none, .none, true, false, false, 1#4⟩
def eTstate : EngRow := ⟨.sOnly, .tileIx, .none, .none, true, false, false, 0#4⟩
def eCpy : EngRow := ⟨.none, .none, .card, .none, false, false, false, 0#4⟩
def eGath : EngRow := ⟨.none, .none, .card, .sOnly, false, false, false, 0#4⟩
def eMx : EngRow := ⟨.none, .none, .card, .card, false, true, false, 15#4⟩
def eMldw : EngRow := ⟨.none, .tileIx, .none, .card, true, false, false, 4#4⟩
def eMma : EngRow := ⟨.none, .tileIx, .none, .card, true, true, false, 7#4⟩
def eAccz : EngRow := ⟨.none, .none, .none, .none, false, true, false, 3#4⟩
def eAccrd : EngRow := ⟨.none, .tileIx, .none, .none, true, true, false, 0#4⟩
def eAccrdReg : EngRow := ⟨.vOnly, .none, .none, .none, false, true, false, 1#4⟩
def eAccst : EngRow := ⟨.sOnly, .none, .none, .none, false, true, false, 0#4⟩
def eAccstW : EngRow := ⟨.none, .none, .sOnly, .none, false, true, false, 1#4⟩
def eAccprom : EngRow := ⟨.none, .none, .none, .none, false, true, false, 0#4⟩

/-! ## Codes of the enumerated fields (R11, R32) -/

def sizeCode : Size → BitVec 3
  | .b8 => 0#3 | .b16 => 1#3 | .b32 => 2#3 | .b64 => 3#3 | .b128 => 4#3
def sizeOf? (c : BitVec 3) : Option Size :=
  if c = 0#3 then some .b8 else if c = 1#3 then some .b16 else if c = 2#3 then some .b32
  else if c = 3#3 then some .b64 else if c = 4#3 then some .b128 else none
/-- Bytes of an access (R32). -/
def sizeBytes : Size → Nat
  | .b8 => 1 | .b16 => 2 | .b32 => 4 | .b64 => 8 | .b128 => 16
/-- Registers of a data operand (R113). -/
def sizeRegs : Size → Nat
  | .b8 => 1 | .b16 => 1 | .b32 => 1 | .b64 => 2 | .b128 => 4
def orderCode : Order → BitVec 3
  | .plain => 0#3 | .acq => 1#3 | .rel => 2#3 | .ar => 3#3
def orderOf? (c : BitVec 3) : Option Order :=
  if c = 0#3 then some .plain else if c = 1#3 then some .acq else if c = 2#3 then some .rel
  else if c = 3#3 then some .ar else none
def scopeCode : Scope → BitVec 3
  | .core => 0#3 | .quad => 1#3 | .die => 2#3 | .pkg => 3#3 | .pod => 4#3 | .sys => 5#3
def scopeOf? (c : BitVec 3) : Option Scope :=
  if c = 0#3 then some .core else if c = 1#3 then some .quad else if c = 2#3 then some .die
  else if c = 3#3 then some .pkg else if c = 4#3 then some .pod else if c = 5#3 then some .sys else none
def hintCode : Hint → BitVec 3
  | .default => 0#3 | .stream => 1#3 | .keepL1 => 2#3 | .bypassL1 => 3#3
def hintOf? (c : BitVec 3) : Option Hint :=
  if c = 0#3 then some .default else if c = 1#3 then some .stream else if c = 2#3 then some .keepL1
  else if c = 3#3 then some .bypassL1 else none

/-! ## Reserved values of function-specific fields: RESERVED_FIELD when the check fails (R37) -/

/-- COMB 3 is reserved (R81, R153). -/
def combOk (c : BitVec 2) : Bool := c != 3#2
/-- RMS 5 to 7 are reserved (R151, R158). -/
def rmsOk (r : BitVec 3) : Bool := r.toNat ≤ 4
/-- The fields of R87 that a function does not use hold zero; SGN 3 is reserved. -/
def laneOk (fn : Nat) (lx : LaneX) : Bool :=
  (lx.usei || lx.lane5 == 0#5) && (fn == 4 || lx.sgn == 0#2) && lx.sgn != 3#2 && (fn ≤ 5 || !lx.w64)
    && (fn != 4 || !lx.usei)
/-- POS within the element format's range (R158). -/
def posOk (ef : BitVec 4) (pos : BitVec 3) : Bool := ef == 4#4 || pos.toNat ≤ 3
/-- Function 0x08 (R159). -/
def elemToOk (ex : ElemX) : Bool := rmsOk ex.rms && ex.ef.toNat ≤ 5 && posOk ex.ef ex.pos && !ex.scb
/-- Function 0x09: RMS only with SCB, and no SCB with INT8 (R159). -/
def elemFromOk (ex : ElemX) : Bool :=
  rmsOk ex.rms && ex.ef.toNat ≤ 5 && posOk ex.ef ex.pos && (ex.scb || ex.rms == 0#3) && !(ex.scb && ex.ef == 5#4)
/-- QF 6 to 15 are reserved; for QF 0 and 1 SCD holds 0x00 (R161). -/
def quantOk (q : QuantX) : Bool := q.qf.toNat ≤ 5 && (2 ≤ q.qf.toNat || q.scd == 0#8)
/-- For QF 2 to 5 SCD names an s register or %zero, otherwise ILLEGAL_OPERAND (R161). -/
def quantScdOk (q : QuantX) : Bool :=
  q.qf.toNat < 2 || (match opdOf q.scd with | some o => accepts .dstS o | none => false)
/-- SPACE 3 is reserved; RANK is zero outside SPACE 2 (R118). -/
def spaceOk (s : SpaceX) : Bool := s.space != 3#2 && (s.space == 2#2 || s.rank == 0#4)
/-- SX only with B8 and B16 (R113). -/
def sxOk (sx : Bool) (sz : Size) : Bool := !sx || sz == .b8 || sz == .b16
/-- LEVEL 3 is reserved (R122). -/
def levelOk (l : BitVec 2) : Bool := l != 3#2
/-- BID within the range of the scope (R70). SYS has no barrier; R11's trap answers for it. -/
def bidOk (s : Scope) (bid : BitVec 4) : Bool :=
  match s with
  | .core => true
  | .quad => bid.toNat < 4
  | .die => bid == 0#4
  | .pkg => bid == 0#4
  | .pod => bid == 0#4
  | .sys => true
/-- FBP: IMM bit 30 is reserved; without NR the recipe names slot 0 to 4 (R195). -/
def fbpOk (imm : Word) : Bool :=
  !imm.getLsbD 30 && (imm.getLsbD 31 || (imm.extractLsb' 0 3).toNat ≤ 4)
/-- CPY.MX with a follow-on MLDW: ACC, ZERO and SWAP are zero (R212). -/
def mxFlagsOk (x : EngF) : Bool := !x.flags.getLsbD 3 || (x.acc == 0#2 && x.flags.extractLsb' 0 2 == 0#2)
/-- ACCRD to registers: NROWS is zero (R228). -/
def accrdRegOk (ax : AccrdX) : Bool := ax.nrows == 0#7
/-- SINK: unused IN and OUT fields hold 0x00, NIN at most 4, NOUT at most 2 (R165). -/
def sinkOk (x : SinkF) : Bool :=
  let i := x.nin.toNat; let o := x.nout.toNat
  i ≤ 4 && o ≤ 2 && (0 < i || x.in0 == 0#8) && (1 < i || x.in1 == 0#8) && (2 < i || x.in2 == 0#8)
    && (3 < i || x.in3 == 0#8) && (0 < o || x.out0 == 0#8) && (1 < o || x.out1 == 0#8)
/-- The codes of a SINK header are none of 0xF8 to 0xFF (R37). -/
def sinkCodesOk (x : SinkF) : Bool :=
  [x.log, x.out0, x.in0, x.in1, x.in2, x.in3, x.out1].all fun c => c.toNat < 0xF8

/-! ## Control registers (R51) -/

/-- The control registers open to programs. -/
inductive Csr where
  | laneFlags | trapEn | fpMode | timebase | staleReturn | coreId | quadId | dieId | pkgId
  | blockIdX | blockIdY | blockIdZ | gangRank | heatClass | annexBytes | mxCadence | mxToggle | mxZeros | landingLast
  deriving DecidableEq, Repr

/-- The register a number names (R51). DEDUCED (log 59), safe. -/
def csrOf (n : BitVec 12) : Option Csr :=
  match n.toNat with
  | 0x000 => some .laneFlags
  | 0x001 => some .trapEn
  | 0x002 => some .fpMode
  | 0x010 => some .timebase
  | 0x011 => some .staleReturn
  | 0x020 => some .coreId
  | 0x021 => some .quadId
  | 0x022 => some .dieId
  | 0x023 => some .pkgId
  | 0x024 => some .blockIdX
  | 0x025 => some .blockIdY
  | 0x026 => some .blockIdZ
  | 0x027 => some .gangRank
  | 0x030 => some .heatClass
  | 0x031 => some .annexBytes
  | 0x040 => some .mxCadence
  | 0x041 => some .mxToggle
  | 0x042 => some .mxZeros
  | 0x050 => some .landingLast
  | _ => none

/-- Whether a control register is held per lane (R51). -/
def csrPerLane : Csr → Bool
  | .laneFlags => true
  | .landingLast => true
  | _ => false

/-- Whether a control register is read-only to programs (R51, R55). -/
def csrReadOnly : Csr → Bool
  | .laneFlags => false
  | .trapEn => false
  | .fpMode => false
  | _ => true

/-- Registers of the operand of a control register: TIMEBASE is 64 bits (R51). -/
def csrRegs : Csr → Nat
  | .timebase => 2
  | _ => 1

/-- The operand class of CSRR's D (R76). -/
def csrDst (c : Csr) : OpClass := if csrPerLane c then .vecOnly else .sOnly

/-- The operand class of CSRW's B: as D of CSRR (R76), %zero being read as R38's class-S source. -/
def csrSrc (c : Csr) : OpClass := if csrPerLane c then .vecOnly else .sOrZero

end Sys2Proof
end

