-- ==== Sys2Proof/WellFormed.lean ====
section
/-! DEFINITION. Well-formedness: an instruction's fields are ones its encoding admits, that is, the encoding traps
RESERVED_FIELD, CSR_NUMBER and ILLEGAL_OPERAND of R37 do not apply to it. Whatever R37 to R40 check at issue (alignment,
allocation, modifiers, planes) is left to the meaning. An event carries no encoding and is always well-formed. -/

namespace Sys2Proof

/-- A register-form instruction (R30). -/
def regWf (r : RegRow) (x : RegF) : Bool :=
  accepts r.d.cls x.d && accepts r.a.cls x.a && accepts r.b.cls x.b && accepts r.c.cls x.c

/-- An immediate-form instruction (R31). -/
def immWf (r : ImmRow) (x : ImmF) : Bool :=
  accepts r.d x.d && accepts r.a x.a

/-- Field rules of the memory form (R32, R113): permitted orders, SCOPE, HINT, OFFSET and SIZE. -/
def memFieldsOk (r : MemRow) (x : MemF) : Bool :=
  r.orders.contains x.order && (r.scopeFree || x.order != .plain || x.scope == .core)
    && (r.hintOk || x.hint == .default) && (r.offOk || x.offset == 0#20)
    && (match r.size with | some z => x.size == z | none => true)

/-- A memory-form instruction (R32). -/
def memWf (r : MemRow) (x : MemF) : Bool :=
  memFieldsOk r x && accepts r.d x.d && accepts r.a x.a && accepts r.s x.s && accepts r.t x.t

/-- Field rules of the branch form (R33). -/
def brFieldsOk (r : BrRow) (x : BrF) : Bool :=
  x.slot.toNat ≤ 4 && x.jslot.toNat ≤ 4
    && (r.join || (x.jslot == 0#3 && x.jdisp == 0#20)) && (r.tgt || (x.slot == 0#3 && x.disp == 0#20))
    && (r.cm || (x.cmask == 0#3 && !x.cinv))

/-- A branch-form instruction (R33). -/
def brWf (r : BrRow) (x : BrF) : Bool :=
  brFieldsOk r x && accepts r.d x.d && accepts r.a x.a

/-- Field rules of the engine form (R34). -/
def engFieldsOk (r : EngRow) (x : EngF) : Bool :=
  (r.tile || x.tile == 0#6) && (r.acc || x.acc == 0#2) && (r.scope || x.scope == .core)
    && (x.flags &&& ~~~r.flags) == 0#4

/-- An engine-form instruction (R34). -/
def engWf (r : EngRow) (x : EngF) : Bool :=
  engFieldsOk r x && accepts r.d x.d && accepts r.a x.a && accepts r.b x.b && accepts r.c x.c

/-- A system-form instruction other than CSRR and CSRW: A and CSR are zero, the classes of D and B (R78, R290). -/
def sysWf (d b : OpClass) (x : SysF) : Bool :=
  x.csr == 0#12 && accepts .none x.a && accepts d x.d && accepts b x.b

/-- CSRR and CSRW (R76). -/
def csrWf (write : Bool) (x : SysF) : Bool :=
  x.imm16 == 0#16 && accepts .none x.a && accepts .none (if write then x.d else x.b)
    && (match csrOf x.csr with
        | some c => if write then accepts (csrSrc c) x.b else accepts (csrDst c) x.d
        | none => false)

/-- The instruction's fields are ones its encoding admits. -/
def Instr.wf : Instr → Bool
  | .nop => true
  | .mand x => regWf rMMM x
  | .mor x => regWf rMMM x
  | .mxor x => regWf rMMM x
  | .mandn x => regWf rMMM x
  | .mnot x => regWf rMM x
  | .mmov x => regWf rMM x
  | .mtos x => regWf rSM x
  | .stom x => regWf rMS x
  | .mpopc x => regWf rSM x
  | .mffs x => regWf rSM x
  | .many x => regWf rSM x
  | .mall x => regWf rSM x
  | .meq x => regWf rSMM x
  | .vaddI32 x => regWf rVVV x
  | .vsubI32 x => regWf rVVV x
  | .vaddSatI32 x => regWf rVVV x
  | .vsubSatI32 x => regWf rVVV x
  | .vaddSatB32 x => regWf rVVV x
  | .vsubSatB32 x => regWf rVVV x
  | .vmulI32 x => regWf rVVV x
  | .vmulhiI32 x => regWf rVVV x
  | .vmulhiB32 x => regWf rVVV x
  | .vmadI32 x => regWf rVVVV x
  | .vmadwI32 x => regWf rMadw x
  | .vmadwB32 x => regWf rMadw x
  | .vaddB64 x => regWf rV64 x
  | .vsubB64 x => regWf rV64 x
  | .vminI32 x => regWf rVVV x
  | .vmaxI32 x => regWf rVVV x
  | .vminB32 x => regWf rVVV x
  | .vmaxB32 x => regWf rVVV x
  | .vabsI32 x => regWf rVV x
  | .vnegI32 x => regWf rVV x
  | .vandB32 x => regWf rVVV x
  | .vorB32 x => regWf rVVV x
  | .vxorB32 x => regWf rVVV x
  | .vandnB32 x => regWf rVVV x
  | .vnotB32 x => regWf rVV x
  | .vshlB32 x => regWf rVVV x
  | .vshrB32 x => regWf rVVV x
  | .vshrI32 x => regWf rVVV x
  | .vmovB32 x => regWf rVV x
  | .vselB32 x _ => regWf rVVV x
  | .vdp4I8 x => regWf rVVVV x
  | .vdp4B8 x => regWf rVVVV x
  | .vaddI32Imm x => immWf iVV x
  | .vsubI32Imm x => immWf iVV x
  | .vaddSatI32Imm x => immWf iVV x
  | .vsubSatI32Imm x => immWf iVV x
  | .vaddSatB32Imm x => immWf iVV x
  | .vsubSatB32Imm x => immWf iVV x
  | .vmulI32Imm x => immWf iVV x
  | .vmulhiI32Imm x => immWf iVV x
  | .vmulhiB32Imm x => immWf iVV x
  | .vminI32Imm x => immWf iVV x
  | .vmaxI32Imm x => immWf iVV x
  | .vminB32Imm x => immWf iVV x
  | .vmaxB32Imm x => immWf iVV x
  | .vandB32Imm x => immWf iVV x
  | .vorB32Imm x => immWf iVV x
  | .vxorB32Imm x => immWf iVV x
  | .vandnB32Imm x => immWf iVV x
  | .vshlB32Imm x => immWf iVV x
  | .vshrB32Imm x => immWf iVV x
  | .vshrI32Imm x => immWf iVV x
  | .vmovB32Imm x => immWf iV x
  | .vcmpEqB32 x comb => regWf rCmp x && combOk comb
  | .vcmpNeB32 x comb => regWf rCmp x && combOk comb
  | .vcmpLtI32 x comb => regWf rCmp x && combOk comb
  | .vcmpLeI32 x comb => regWf rCmp x && combOk comb
  | .vcmpGtI32 x comb => regWf rCmp x && combOk comb
  | .vcmpGeI32 x comb => regWf rCmp x && combOk comb
  | .vcmpLtB32 x comb => regWf rCmp x && combOk comb
  | .vcmpLeB32 x comb => regWf rCmp x && combOk comb
  | .vcmpGtB32 x comb => regWf rCmp x && combOk comb
  | .vcmpGeB32 x comb => regWf rCmp x && combOk comb
  | .vaddF32 x => regWf rF2 x
  | .vsubF32 x => regWf rF2 x
  | .vmulF32 x => regWf rF2 x
  | .vfmaF32 x => regWf rF3 x
  | .vrndF32 x rms => regWf rFrnd x && rmsOk rms
  | .vldexpF32 x => regWf rFldexp x
  | .vclassF32 x => regWf rVV x
  | .vaddF32Imm x => immWf iVV x
  | .vsubF32Imm x => immWf iVV x
  | .vmulF32Imm x => immWf iVV x
  | .vsubrF32 x => immWf iVV x
  | .vfcmpEqF32 x comb => regWf rFcmp x && combOk comb
  | .vfcmpNeF32 x comb => regWf rFcmp x && combOk comb
  | .vfcmpLtF32 x comb => regWf rFcmp x && combOk comb
  | .vfcmpLeF32 x comb => regWf rFcmp x && combOk comb
  | .vfcmpGtF32 x comb => regWf rFcmp x && combOk comb
  | .vfcmpGeF32 x comb => regWf rFcmp x && combOk comb
  | .vfcmpUnF32 x comb => regWf rFcmp x && combOk comb
  | .vfcmpOrdF32 x comb => regWf rFcmp x && combOk comb
  | .vminF32 x => regWf rFminmax x
  | .vmaxF32 x => regWf rFminmax x
  | .ldG x sx => memWf mLoad x && sxOk sx x.size
  | .stG x => memWf mStore x
  | .atomAddI32 x sp => memWf (mAtom false .b32 sp) x && spaceOk sp
  | .atomAddB64 x sp => memWf (mAtom false .b64 sp) x && spaceOk sp
  | .atomMinI32 x sp => memWf (mAtom false .b32 sp) x && spaceOk sp
  | .atomMaxI32 x sp => memWf (mAtom false .b32 sp) x && spaceOk sp
  | .atomMinB32 x sp => memWf (mAtom false .b32 sp) x && spaceOk sp
  | .atomMaxB32 x sp => memWf (mAtom false .b32 sp) x && spaceOk sp
  | .atomAndB32 x sp => memWf (mAtom false .b32 sp) x && spaceOk sp
  | .atomOrB32 x sp => memWf (mAtom false .b32 sp) x && spaceOk sp
  | .atomXorB32 x sp => memWf (mAtom false .b32 sp) x && spaceOk sp
  | .atomExchB32 x sp => memWf (mAtom false .b32 sp) x && spaceOk sp
  | .atomExchB64 x sp => memWf (mAtom false .b64 sp) x && spaceOk sp
  | .atomCasB32 x sp => memWf (mAtom true .b32 sp) x && spaceOk sp
  | .atomCasB64 x sp => memWf (mAtom true .b64 sp) x && spaceOk sp
  | .atomAddF32 x sp => memWf (mAtom false .b32 sp) x && spaceOk sp
  | .atomIncB32 x sp => memWf (mAtom false .b32 sp) x && spaceOk sp
  | .atomDecB32 x sp => memWf (mAtom false .b32 sp) x && spaceOk sp
  | .joinEntryReadReturn _ _ => true
  | .barWaitProceed _ _ => true
  | .loadReturn _ _ => true
  | .sinkPacketAccept _ => true
  | .sinkPacketExecute _ => true
  | .sinkPacketLand _ => true
  | .copyJobAccept _ _ => true
  | .copyJobComplete _ _ => true
  | .followOnEnqueue _ => true
  | .matrixCommandExecute _ => true
  | .mxWindowEnd _ => true
  | .leaseExpiry _ => true
  | .registerUnitDrowsy _ _ _ => true
  | .trapEntry _ _ => true
  | .deferredTrapTake _ _ => true
  | .faultRecordPost _ => true
  | .fqPop _ _ => true
  | .ctxResume _ _ => true
  | .ctxKill _ _ => true
  | .dbgHalt _ _ _ => true
  | .dbgStep _ _ _ _ => true
  | .dbgGo _ _ _ => true
  | .dbgBkpt _ _ => true
  | .dbgRead _ _ _ _ => true
  | .dbgWrite _ _ _ _ _ => true
  | .queueCreate _ _ _ _ => true
  | .doorbellWrite _ _ => true
  | .packetAccept _ => true
  | .dependenceRead _ => true
  | .blockResident _ _ => true
  | .launchComplete _ => true
  | .queueDestroy _ _ => true
  | .timeSliceExpiry _ => true
  | .contextResume _ _ => true
  | .tlbInvalidate _ _ _ => true
  | .hostWrite _ _ _ => true
  | .hostAccessCompletion _ _ _ => true
  | .hostAccessTimeout _ => true
  | .fabricTimeout _ => true
  | .linkFlitRetry _ => true
  | .linkDown _ => true
  | .functionReady _ _ => true
  | .nearCommandStart _ => true
  | .nnop _ => true
  | .cgraCfg _ => true
  | .cgraRun _ => true
  | .nearStall _ => true
  | .ireduce _ => true
  | .bseq _ => true
  | .nrtSet _ _ => true
  | .nrtClear _ _ => true
  | .partCreate _ _ _ _ _ _ _ => true
  | .partGrow _ _ => true
  | .partShrink _ _ => true
  | .partDestroy _ => true
  | .capSet _ _ _ => true
  | .ctxBudget _ _ => true
  | .resourceRetire _ => true
  | .bucketRefill => true
  | .governorWindow _ => true
  | .ilimNAssert => true
  | .ilimNDeassert => true
  | .sheddingStep => true
  | .nvmeDataTransfer _ _ _ _ _ => true
  | .packageReset => true
  | .mailboxImage _ => true
  | .flashWrite _ => true
  | .hartStart _ _ _ => true
  | .attest _ _ => true
  | .contextCreate _ _ _ => true
  | .timeSliceSet _ _ => true
  | .storePerformed _ => true
  | .pageWalkComplete _ => true
  | .softError _ _ => true
  | .errorCounterClear _ _ => true
  | .remoteRequestArrive _ => true
  | .routeTableSet _ _ => true
  | .ethernetFrameReceive _ _ _ => true
  | .hostRead _ _ _ => true
  | .resEvictDone _ _ => true
  | .saddI32 x => regWf rSSS x
  | .ssubI32 x => regWf rSSS x
  | .smulI32 x => regWf rSSS x
  | .smulhiI32 x => regWf rSSS x
  | .smulhiB32 x => regWf rSSS x
  | .sandB32 x => regWf rSSS x
  | .sorB32 x => regWf rSSS x
  | .sxorB32 x => regWf rSSS x
  | .sandnB32 x => regWf rSSS x
  | .sshlB32 x => regWf rSSS x
  | .sshrB32 x => regWf rSSS x
  | .sshrI32 x => regWf rSSS x
  | .sminI32 x => regWf rSSS x
  | .smaxI32 x => regWf rSSS x
  | .sminB32 x => regWf rSSS x
  | .smaxB32 x => regWf rSSS x
  | .smovB32 x => regWf rSS x
  | .saddB64 x => regWf rSS64 x
  | .ssubB64 x => regWf rSS64 x
  | .spopcB32 x => regWf rSS x
  | .sclzB32 x => regWf rSS x
  | .smadI32 x => regWf rSSSS x
  | .saddI32Imm x => immWf iSS x
  | .ssubI32Imm x => immWf iSS x
  | .smulI32Imm x => immWf iSS x
  | .smulhiI32Imm x => immWf iSS x
  | .smulhiB32Imm x => immWf iSS x
  | .sandB32Imm x => immWf iSS x
  | .sorB32Imm x => immWf iSS x
  | .sxorB32Imm x => immWf iSS x
  | .sandnB32Imm x => immWf iSS x
  | .sshlB32Imm x => immWf iSS x
  | .sshrB32Imm x => immWf iSS x
  | .sshrI32Imm x => immWf iSS x
  | .sminI32Imm x => immWf iSS x
  | .smaxI32Imm x => immWf iSS x
  | .sminB32Imm x => immWf iSS x
  | .smaxB32Imm x => immWf iSS x
  | .smovB32Imm x => immWf iS x
  | .scmpEqB32 x => regWf rSSS x
  | .scmpNeB32 x => regWf rSSS x
  | .scmpLtI32 x => regWf rSSS x
  | .scmpLeI32 x => regWf rSSS x
  | .scmpGtI32 x => regWf rSSS x
  | .scmpGeI32 x => regWf rSSS x
  | .scmpLtB32 x => regWf rSSS x
  | .scmpLeB32 x => regWf rSSS x
  | .scmpGtB32 x => regWf rSSS x
  | .scmpGeB32 x => regWf rSSS x
  | .sselB32 x => regWf rSSSS x
  | .bra x => brWf bBra x
  | .braAny x => brWf bCond x
  | .braAll x => brWf bCond x
  | .braNz x => brWf bNz x
  | .braZ x => brWf bNz x
  | .brx x => brWf bReg x
  | .call x => brWf bCall x
  | .callx x => brWf bCallx x
  | .ret x => brWf bReg x
  | .dbra x => brWf bDbra x
  | .join x => brWf bJoin x
  | .exit x => brWf bExit x
  | .pset x => regWf rPset x
  | .pget x => regWf rPget x
  | .barArrive x bid => engWf eArrive x && bidOk x.scope bid
  | .barWait x bid => engWf eWait x && bidOk x.scope bid
  | .barMeet x bid => engWf eMeet x && bidOk x.scope bid
  | .csrr x => csrWf false x
  | .csrw x => csrWf true x
  | .trap x => sysWf .none .none x
  | .bkpt x => sysWf .none .none x
  | .vxtrB32 x => regWf rVVV x
  | .vxtrI32 x => regWf rVVV x
  | .vinsB32 x => regWf rVVVV x
  | .vpopcB32 x => regWf rVV x
  | .vclzB32 x => regWf rVV x
  | .vctzB32 x => regWf rVV x
  | .vbrevB32 x => regWf rVV x
  | .vbselB8 x => regWf rVVVV x
  | .vfunB32 x => regWf rVVVV x
  | .vdivI32 x => regWf rVVV x
  | .vremI32 x => regWf rVVV x
  | .vdivB32 x => regWf rVVV x
  | .vremB32 x => regWf rVVV x
  | .vdivremI32 x => regWf rDivrem x
  | .vdivremB32 x => regWf rDivrem x
  | .vxlnPick x lx => regWf (rLane 0 lx) x && laneOk 0 lx
  | .vxlnLower x lx => regWf (rLane 1 lx) x && laneOk 1 lx
  | .vxlnUpper x lx => regWf (rLane 2 lx) x && laneOk 2 lx
  | .vxlnMirror x lx => regWf (rLane 3 lx) x && laneOk 3 lx
  | .vswapp x lx => regWf (rLane 4 lx) x && laneOk 4 lx
  | .vxlnFan x lx => regWf (rLane 5 lx) x && laneOk 5 lx
  | .vxlnTake x lx => regWf (rLane 6 lx) x && laneOk 6 lx
  | .vxlnPut x lx => regWf (rLane 7 lx) x && laneOk 7 lx
  | .vpollSome x => regWf rPoll x
  | .vpollEvery x => regWf rPoll x
  | .vpollMap x => regWf rPoll x
  | .vpollSame x => regWf rPoll x
  | .vpollPeers x => regWf rPeers x
  | .vredAddI32 x => regWf rRed x
  | .vredMinI32 x => regWf rRed x
  | .vredMaxI32 x => regWf rRed x
  | .vredMinB32 x => regWf rRed x
  | .vredMaxB32 x => regWf rRed x
  | .vredAndB32 x => regWf rRed x
  | .vredOrB32 x => regWf rRed x
  | .vredXorB32 x => regWf rRed x
  | .vredAddF32 x => regWf rRed x
  | .vredMinF32 x => regWf rRed x
  | .vredMaxF32 x => regWf rRed x
  | .vscanAddI32 x => regWf rPeers x
  | .vaddF16x2 x _ => regWf rF2 x
  | .vsubF16x2 x _ => regWf rF2 x
  | .vmulF16x2 x _ => regWf rF2 x
  | .vfmaF16x2 x _ => regWf rF3 x
  | .vminF16x2 x _ => regWf rFminmax x
  | .vmaxF16x2 x _ => regWf rFminmax x
  | .vdot2F32F16x2 x _ => regWf rF3 x
  | .vfdiv x => regWf rF2 x
  | .vfsqrt x => regWf rF1 x
  | .vsinr x => regWf rF1 x
  | .vcosr x => regWf rF1 x
  | .vsinpi x => regWf rF1 x
  | .vcospi x => regWf rF1 x
  | .vexp2 x => regWf rF1 x
  | .vlog2 x => regWf rF1 x
  | .vrcp x => regWf rF1 x
  | .vrsq x => regWf rF1 x
  | .vcvtF32I32 x rms => regWf rCvtP x && rmsOk rms
  | .vcvtF32B32 x rms => regWf rCvtP x && rmsOk rms
  | .vcvtI32F32 x rms => regWf rCvtNP x && rmsOk rms
  | .vcvtB32F32 x rms => regWf rCvtNP x && rmsOk rms
  | .vcvtF32F16 x _ => regWf rCvtN x
  | .vcvtF32Bf16 x _ => regWf rCvtN x
  | .vcvtF16x2F32 x rms => regWf rF2 x && rmsOk rms
  | .vcvtBf16x2F32 x rms => regWf rF2 x && rmsOk rms
  | .vcvtFmtF32 x ex => regWf rCvtE x && elemToOk ex
  | .vcvtF32Fmt x ex => regWf (rFromElem ex) x && elemFromOk ex
  | .vcvtF32E8m0 x => regWf rVV x
  | .vhad32 x => regWf rHad x
  | .vhad32N x => regWf rHad x
  | .vquant x qx => regWf rHad x && quantOk qx && quantScdOk qx
  | .ldS x sx => memWf mLoadS x && sxOk sx x.size
  | .stS x => memWf mStoreS x
  | .ldRs x sx => memWf mLoadRS x && sxOk sx x.size
  | .stRs x => memWf mStoreRS x
  | .ldC x sx => memWf mLoadC x && sxOk sx x.size
  | .ldRo x sx => memWf mLoadRO x && sxOk sx x.size
  | .fenceAcq x => memWf (mFence .acq) x
  | .fenceRel x => memWf (mFence .rel) x
  | .fenceAr x => memWf (mFence .ar) x
  | .fenceRo x => memWf mFenceRo x
  | .pfG x level => memWf mPf x && levelOk level
  | .resSet x _ _ => memWf mResSet x
  | .resDemote x _ => memWf mResH x
  | .resEvict x _ => memWf mResH x
  | .sink x => sinkOk x && sinkCodesOk x
  | .fbp x _ => immWf iFbp x && fbpOk x.imm
  | .xset x _ => regWf rXset x
  | .xidx x _ => regWf rXidx x
  | .xadd x _ => regWf rXidx x
  | .xget x _ => regWf rXget x
  | .launch x => engWf eLaunch x
  | .nqpost x => engWf eNqpost x
  | .nqpoll x => engWf eNqpoll x
  | .tdef x _ _ => engWf eTdef x
  | .trel x => engWf eTrel x && x.flags.getLsbD 0 == false
  | .trelPub x => engWf eTrel x && x.flags.getLsbD 0 == true
  | .tstate x => engWf eTstate x
  | .cpy x => engWf eCpy x
  | .cpySt x => engWf eCpy x
  | .cpyGath x => engWf eGath x
  | .cpyScat x => engWf eGath x
  | .cpyMx x => engWf eMx x && mxFlagsOk x
  | .mldw x => engWf eMldw x
  | .mma x => engWf eMma x
  | .accz x => engWf eAccz x
  | .accrd x _ => engWf eAccrd x && x.flags.getLsbD 0 == false
  | .accrdReg x ax => engWf eAccrdReg x && x.flags.getLsbD 0 == true && accrdRegOk ax
  | .accst x => engWf eAccst x && x.flags.getLsbD 0 == false
  | .accstW x => engWf eAccstW x && x.flags.getLsbD 0 == true
  | .accprom x => engWf eAccprom x
  | .lease x => sysWf .dstS .sOnly x

end Sys2Proof
end

