-- ==== Sys2Proof/Decode.lean ====
section
/-! DEFINITION. Decoding a 96-bit word to an instruction or to the encoding trap that refuses it (R36, R37), and encoding
an instruction's word from the same tables. Refused here: ILLEGAL_OPCODE, ILLEGAL_FUNCTION, RESERVED_FIELD, ILLEGAL_OPERAND,
in that order, and CSR_NUMBER where R76 puts it. PAIR_ALIGN, REG_RANGE, MODIFIER and PLANE_ALIGN are judged at issue.
`noncomputable` marks what Lean's code generator cannot compile (it limits an object's constructor number to 244); the
kernel evaluates it. -/

namespace Sys2Proof

/-- The field of `n` bits from bit `lo` upward. -/
abbrev fld (w : IWord) (lo n : Nat) : BitVec n := w.extractLsb' lo n

/-- A flag as one bit. -/
abbrev bit (b : Bool) : BitVec 1 := BitVec.ofBool b

/-- A field that is not used holds 0x00 (R30). -/
def unusedOk (c : OpClass) (code : BitVec 8) : Bool := c != .none || code == 0#8

/-- The operand a code names, where the position accepts it (R37, R38). -/
def readOpd (c : OpClass) (code : BitVec 8) : Option Opd :=
  match opdOf code with
  | some o => if accepts c o then some o else none
  | none => none

/-! ## Function-specific fields -/

/-- R87 -/
def laneRead (w : IWord) : LaneX := ⟨fld w 23 5, w.getLsbD 22, w.getLsbD 21, fld w 19 2⟩
def laneBits (x : LaneX) : BitVec 28 := x.lane5 ++ bit x.usei ++ bit x.w64 ++ x.sgn ++ 0#19
/-- R158 -/
def elemRead (w : IWord) : ElemX := ⟨fld w 25 3, fld w 22 3, w.getLsbD 20, fld w 16 4⟩
def elemBits (x : ElemX) : BitVec 28 := x.rms ++ x.pos ++ 0#1 ++ bit x.scb ++ x.ef ++ 0#16
/-- R161 -/
def quantRead (w : IWord) : QuantX := ⟨fld w 20 8, fld w 16 4, w.getLsbD 15⟩
def quantBits (x : QuantX) : BitVec 28 := x.scd ++ x.qf ++ bit x.pack ++ 0#15
/-- R118 -/
def spaceRead (w : IWord) : SpaceX := ⟨fld w 10 2, fld w 6 4⟩
def spaceBits (x : SpaceX) : BitVec 12 := x.space ++ x.rank ++ 0#6
/-- R228 -/
def accrdRead (w : IWord) : AccrdX := ⟨fld w 0 4, w.getLsbD 7, fld w 8 8, fld w 16 7⟩
def accrdBits (x : AccrdX) : BitVec 29 := 0#6 ++ x.nrows ++ x.row0 ++ bit x.sat ++ 0#3 ++ x.ofmt

/-! ## The formats, read -/

/-- A word of the register form (R30). `spOk` says the function-specific field holds no reserved value; `opOk` that an
operand code it carries is in its class. -/
def decReg (r : RegRow) (spOk opOk : Bool) {α : Type} (mk : RegF → α) (w : IWord) : Except Cause α :=
  if spOk && (fld w 37 1 == 0#1) && unusedOk r.d.cls (fld w 68 8) && unusedOk r.a.cls (fld w 60 8)
      && unusedOk r.b.cls (fld w 52 8) && unusedOk r.c.cls (fld w 44 8) then
    match readOpd r.d.cls (fld w 68 8), readOpd r.a.cls (fld w 60 8), readOpd r.b.cls (fld w 52 8),
        readOpd r.c.cls (fld w 44 8) with
    | some d, some a, some b, some c =>
      if opOk then
        .ok (mk ⟨fld w 77 3, w.getLsbD 76, d, a, b, c, w.getLsbD 43, w.getLsbD 42, w.getLsbD 41, w.getLsbD 40,
          w.getLsbD 39, w.getLsbD 38, fld w 35 2, fld w 30 5, fld w 28 2⟩)
      else .error .illegalOperand
    | _, _, _, _ => .error .illegalOperand
  else .error .reservedField

/-- A word of the immediate form (R31). -/
def decImm (r : ImmRow) (spOk : ImmF → Bool) {α : Type} (mk : ImmF → α) (w : IWord) : Except Cause α :=
  if spOk ⟨fld w 77 3, w.getLsbD 76, opdZero, opdZero, fld w 28 32⟩ && unusedOk r.d (fld w 68 8)
      && unusedOk r.a (fld w 60 8) then
    match readOpd r.d (fld w 68 8), readOpd r.a (fld w 60 8) with
    | some d, some a => .ok (mk ⟨fld w 77 3, w.getLsbD 76, d, a, fld w 28 32⟩)
    | _, _ => .error .illegalOperand
  else .error .reservedField

/-- A word of the memory form (R32). -/
def decMem (r : MemRow) (spOk : MemF → Bool) {α : Type} (mk : MemF → α) (w : IWord) : Except Cause α :=
  match sizeOf? (fld w 41 3), orderOf? (fld w 38 3), scopeOf? (fld w 35 3), hintOf? (fld w 32 3) with
  | some sz, some o, some sc, some h =>
    let mkF (d a s t : Opd) : MemF := ⟨fld w 77 3, w.getLsbD 76, d, a, s, t, sz, o, sc, h, fld w 12 20⟩
    let x := mkF opdZero opdZero opdZero opdZero
    if memFieldsOk r x && spOk x && unusedOk r.d (fld w 68 8) && unusedOk r.a (fld w 60 8)
        && unusedOk r.s (fld w 52 8) && unusedOk r.t (fld w 44 8) then
      match readOpd r.d (fld w 68 8), readOpd r.a (fld w 60 8), readOpd r.s (fld w 52 8), readOpd r.t (fld w 44 8) with
      | some d, some a, some s, some t => .ok (mk (mkF d a s t))
      | _, _, _, _ => .error .illegalOperand
    else .error .reservedField
  | _, _, _, _ => .error .reservedField

/-- A word of the branch form (R33). -/
def decBr (r : BrRow) {α : Type} (mk : BrF → α) (w : IWord) : Except Cause α :=
  let mkF (d a : Opd) : BrF :=
    ⟨fld w 77 3, w.getLsbD 76, d, a, fld w 57 3, fld w 37 20, fld w 34 3, w.getLsbD 33, fld w 25 3, fld w 5 20⟩
  if brFieldsOk r (mkF opdZero opdZero) && fld w 28 5 == 0#5 && fld w 0 5 == 0#5 && unusedOk r.d (fld w 68 8)
      && unusedOk r.a (fld w 60 8) then
    match readOpd r.d (fld w 68 8), readOpd r.a (fld w 60 8) with
    | some d, some a => .ok (mk (mkF d a))
    | _, _ => .error .illegalOperand
  else .error .reservedField

/-- A word of the engine form (R34). -/
def decEng (r : EngRow) (spOk : EngF → Bool) {α : Type} (mk : EngF → α) (w : IWord) : Except Cause α :=
  match scopeOf? (fld w 29 3) with
  | some sc =>
    let mkF (d a b c : Opd) : EngF := ⟨fld w 77 3, w.getLsbD 76, d, a, b, c, fld w 38 6, fld w 36 2, fld w 32 4, sc⟩
    let x := mkF opdZero opdZero opdZero opdZero
    if engFieldsOk r x && spOk x && unusedOk r.d (fld w 68 8) && unusedOk r.a (fld w 60 8)
        && unusedOk r.b (fld w 52 8) && unusedOk r.c (fld w 44 8) then
      match readOpd r.d (fld w 68 8), readOpd r.a (fld w 60 8), readOpd r.b (fld w 52 8), readOpd r.c (fld w 44 8) with
      | some d, some a, some b, some c => .ok (mk (mkF d a b c))
      | _, _, _, _ => .error .illegalOperand
    else .error .reservedField
  | none => .error .reservedField

/-- The fields of a system-form word (R35). -/
def sysFields (w : IWord) (d a b : Opd) : SysF :=
  ⟨fld w 77 3, w.getLsbD 76, d, a, fld w 48 12, b, fld w 24 16⟩

/-- TRAP, BKPT and LEASE (R78, R290). -/
def decSys (dc bc : OpClass) {α : Type} (mk : SysF → α) (w : IWord) : Except Cause α :=
  if fld w 0 24 == 0#24 && fld w 48 12 == 0#12 && unusedOk .none (fld w 60 8) && unusedOk dc (fld w 68 8)
      && unusedOk bc (fld w 40 8) then
    match readOpd dc (fld w 68 8), readOpd bc (fld w 40 8) with
    | some d, some b => .ok (mk (sysFields w d opdZero b))
    | _, _ => .error .illegalOperand
  else .error .reservedField

/-- CSRR and CSRW: the CSR number is checked before the operand code (R76). -/
def decCsr (write : Bool) {α : Type} (mk : SysF → α) (w : IWord) : Except Cause α :=
  if fld w 0 24 == 0#24 && fld w 24 16 == 0#16 && unusedOk .none (fld w 60 8)
      && unusedOk .none (if write then fld w 68 8 else fld w 40 8) then
    match csrOf (fld w 48 12) with
    | none => .error .csrNumber
    | some c =>
      match readOpd (if write then csrSrc c else csrDst c) (if write then fld w 40 8 else fld w 68 8) with
      | some o => .ok (mk (if write then sysFields w opdZero opdZero o else sysFields w o opdZero opdZero))
      | none => .error .illegalOperand
  else .error .reservedField

/-- The SINK header (R165). -/
def decSink {α : Type} (mk : SinkF → α) (w : IWord) : Except Cause α :=
  let x : SinkF := ⟨fld w 77 3, w.getLsbD 76, fld w 68 8, fld w 60 8, fld w 52 8, fld w 44 8, fld w 36 8, fld w 28 8,
    fld w 20 8, fld w 16 4, fld w 13 3, fld w 11 2, w.getLsbD 9, w.getLsbD 8⟩
  if sinkOk x && fld w 10 1 == 0#1 && fld w 0 8 == 0#8 then
    if sinkCodesOk x then .ok (mk x) else .error .illegalOperand
  else .error .reservedField

/-! ## The opcode map (R36), one function per major -/

/-- Major 0x01: R58, R59. -/
def dispatch01 (fn : Nat) (w : IWord) : Except Cause Instr :=
  match fn with
  | 0x00 => decReg rSSS (fld w 0 28 == 0#28) (true) .saddI32 w
  | 0x01 => decReg rSSS (fld w 0 28 == 0#28) (true) .ssubI32 w
  | 0x02 => decReg rSSS (fld w 0 28 == 0#28) (true) .smulI32 w
  | 0x03 => decReg rSSS (fld w 0 28 == 0#28) (true) .smulhiI32 w
  | 0x04 => decReg rSSS (fld w 0 28 == 0#28) (true) .smulhiB32 w
  | 0x05 => decReg rSSS (fld w 0 28 == 0#28) (true) .sandB32 w
  | 0x06 => decReg rSSS (fld w 0 28 == 0#28) (true) .sorB32 w
  | 0x07 => decReg rSSS (fld w 0 28 == 0#28) (true) .sxorB32 w
  | 0x08 => decReg rSSS (fld w 0 28 == 0#28) (true) .sandnB32 w
  | 0x09 => decReg rSSS (fld w 0 28 == 0#28) (true) .sshlB32 w
  | 0x0A => decReg rSSS (fld w 0 28 == 0#28) (true) .sshrB32 w
  | 0x0B => decReg rSSS (fld w 0 28 == 0#28) (true) .sshrI32 w
  | 0x0C => decReg rSSS (fld w 0 28 == 0#28) (true) .sminI32 w
  | 0x0D => decReg rSSS (fld w 0 28 == 0#28) (true) .smaxI32 w
  | 0x0E => decReg rSSS (fld w 0 28 == 0#28) (true) .sminB32 w
  | 0x0F => decReg rSSS (fld w 0 28 == 0#28) (true) .smaxB32 w
  | 0x10 => decReg rSS (fld w 0 28 == 0#28) (true) .smovB32 w
  | 0x11 => decReg rSS64 (fld w 0 28 == 0#28) (true) .saddB64 w
  | 0x12 => decReg rSS64 (fld w 0 28 == 0#28) (true) .ssubB64 w
  | 0x13 => decReg rSS (fld w 0 28 == 0#28) (true) .spopcB32 w
  | 0x14 => decReg rSS (fld w 0 28 == 0#28) (true) .sclzB32 w
  | 0x15 => decReg rSSSS (fld w 0 28 == 0#28) (true) .smadI32 w
  | _ => .error .illegalFunction

/-- Major 0x02: R58, R59. -/
def dispatch02 (fn : Nat) (w : IWord) : Except Cause Instr :=
  match fn with
  | 0x00 => decImm iSS (fun _ => fld w 0 28 == 0#28) .saddI32Imm w
  | 0x01 => decImm iSS (fun _ => fld w 0 28 == 0#28) .ssubI32Imm w
  | 0x02 => decImm iSS (fun _ => fld w 0 28 == 0#28) .smulI32Imm w
  | 0x03 => decImm iSS (fun _ => fld w 0 28 == 0#28) .smulhiI32Imm w
  | 0x04 => decImm iSS (fun _ => fld w 0 28 == 0#28) .smulhiB32Imm w
  | 0x05 => decImm iSS (fun _ => fld w 0 28 == 0#28) .sandB32Imm w
  | 0x06 => decImm iSS (fun _ => fld w 0 28 == 0#28) .sorB32Imm w
  | 0x07 => decImm iSS (fun _ => fld w 0 28 == 0#28) .sxorB32Imm w
  | 0x08 => decImm iSS (fun _ => fld w 0 28 == 0#28) .sandnB32Imm w
  | 0x09 => decImm iSS (fun _ => fld w 0 28 == 0#28) .sshlB32Imm w
  | 0x0A => decImm iSS (fun _ => fld w 0 28 == 0#28) .sshrB32Imm w
  | 0x0B => decImm iSS (fun _ => fld w 0 28 == 0#28) .sshrI32Imm w
  | 0x0C => decImm iSS (fun _ => fld w 0 28 == 0#28) .sminI32Imm w
  | 0x0D => decImm iSS (fun _ => fld w 0 28 == 0#28) .smaxI32Imm w
  | 0x0E => decImm iSS (fun _ => fld w 0 28 == 0#28) .sminB32Imm w
  | 0x0F => decImm iSS (fun _ => fld w 0 28 == 0#28) .smaxB32Imm w
  | 0x10 => decImm iS (fun _ => fld w 0 28 == 0#28) .smovB32Imm w
  | _ => .error .illegalFunction

/-- Major 0x03: R60. -/
noncomputable def dispatch03 (fn : Nat) (w : IWord) : Except Cause Instr :=
  match fn with
  | 0x00 => decReg rSSS (fld w 0 28 == 0#28) (true) .scmpEqB32 w
  | 0x01 => decReg rSSS (fld w 0 28 == 0#28) (true) .scmpNeB32 w
  | 0x02 => decReg rSSS (fld w 0 28 == 0#28) (true) .scmpLtI32 w
  | 0x03 => decReg rSSS (fld w 0 28 == 0#28) (true) .scmpLeI32 w
  | 0x04 => decReg rSSS (fld w 0 28 == 0#28) (true) .scmpGtI32 w
  | 0x05 => decReg rSSS (fld w 0 28 == 0#28) (true) .scmpGeI32 w
  | 0x06 => decReg rSSS (fld w 0 28 == 0#28) (true) .scmpLtB32 w
  | 0x07 => decReg rSSS (fld w 0 28 == 0#28) (true) .scmpLeB32 w
  | 0x08 => decReg rSSS (fld w 0 28 == 0#28) (true) .scmpGtB32 w
  | 0x09 => decReg rSSS (fld w 0 28 == 0#28) (true) .scmpGeB32 w
  | 0x10 => decReg rSSSS (fld w 0 28 == 0#28) (true) .sselB32 w
  | _ => .error .illegalFunction

/-- Major 0x04: R61. -/
def dispatch04 (fn : Nat) (w : IWord) : Except Cause Instr :=
  match fn with
  | 0x00 => decReg rMMM (fld w 0 28 == 0#28) (true) .mand w
  | 0x01 => decReg rMMM (fld w 0 28 == 0#28) (true) .mor w
  | 0x02 => decReg rMMM (fld w 0 28 == 0#28) (true) .mxor w
  | 0x03 => decReg rMMM (fld w 0 28 == 0#28) (true) .mandn w
  | 0x04 => decReg rMM (fld w 0 28 == 0#28) (true) .mnot w
  | 0x05 => decReg rMM (fld w 0 28 == 0#28) (true) .mmov w
  | 0x06 => decReg rSM (fld w 0 28 == 0#28) (true) .mtos w
  | 0x07 => decReg rMS (fld w 0 28 == 0#28) (true) .stom w
  | 0x08 => decReg rSM (fld w 0 28 == 0#28) (true) .mpopc w
  | 0x09 => decReg rSM (fld w 0 28 == 0#28) (true) .mffs w
  | 0x0A => decReg rSM (fld w 0 28 == 0#28) (true) .many w
  | 0x0B => decReg rSM (fld w 0 28 == 0#28) (true) .mall w
  | 0x0C => decReg rSMM (fld w 0 28 == 0#28) (true) .meq w
  | _ => .error .illegalFunction

/-- Major 0x05: R64. -/
noncomputable def dispatch05 (fn : Nat) (w : IWord) : Except Cause Instr :=
  match fn with
  | 0x00 => decBr bBra .bra w
  | 0x01 => decBr bCond .braAny w
  | 0x02 => decBr bCond .braAll w
  | 0x03 => decBr bNz .braNz w
  | 0x04 => decBr bNz .braZ w
  | 0x05 => decBr bReg .brx w
  | 0x06 => decBr bCall .call w
  | 0x07 => decBr bCallx .callx w
  | 0x08 => decBr bReg .ret w
  | _ => .error .illegalFunction

/-- Major 0x06: R66. -/
noncomputable def dispatch06 (fn : Nat) (w : IWord) : Except Cause Instr :=
  match fn with
  | 0x00 => decBr bDbra .dbra w
  | _ => .error .illegalFunction

/-- Major 0x07: R15, R16. -/
noncomputable def dispatch07 (fn : Nat) (w : IWord) : Except Cause Instr :=
  match fn with
  | 0x00 => decBr bJoin .join w
  | 0x01 => decBr bExit .exit w
  | _ => .error .illegalFunction

/-- Major 0x20: R79. -/
def dispatch20 (fn : Nat) (w : IWord) : Except Cause Instr :=
  match fn with
  | 0x00 => decReg rVVV (fld w 0 28 == 0#28) (true) .vaddI32 w
  | 0x01 => decReg rVVV (fld w 0 28 == 0#28) (true) .vsubI32 w
  | 0x02 => decReg rVVV (fld w 0 28 == 0#28) (true) .vaddSatI32 w
  | 0x03 => decReg rVVV (fld w 0 28 == 0#28) (true) .vsubSatI32 w
  | 0x04 => decReg rVVV (fld w 0 28 == 0#28) (true) .vaddSatB32 w
  | 0x05 => decReg rVVV (fld w 0 28 == 0#28) (true) .vsubSatB32 w
  | 0x06 => decReg rVVV (fld w 0 28 == 0#28) (true) .vmulI32 w
  | 0x07 => decReg rVVV (fld w 0 28 == 0#28) (true) .vmulhiI32 w
  | 0x08 => decReg rVVV (fld w 0 28 == 0#28) (true) .vmulhiB32 w
  | 0x09 => decReg rVVVV (fld w 0 28 == 0#28) (true) .vmadI32 w
  | 0x0A => decReg rMadw (fld w 0 28 == 0#28) (true) .vmadwI32 w
  | 0x0B => decReg rMadw (fld w 0 28 == 0#28) (true) .vmadwB32 w
  | 0x0C => decReg rV64 (fld w 0 28 == 0#28) (true) .vaddB64 w
  | 0x0D => decReg rV64 (fld w 0 28 == 0#28) (true) .vsubB64 w
  | 0x0E => decReg rVVV (fld w 0 28 == 0#28) (true) .vminI32 w
  | 0x0F => decReg rVVV (fld w 0 28 == 0#28) (true) .vmaxI32 w
  | 0x10 => decReg rVVV (fld w 0 28 == 0#28) (true) .vminB32 w
  | 0x11 => decReg rVVV (fld w 0 28 == 0#28) (true) .vmaxB32 w
  | 0x12 => decReg rVV (fld w 0 28 == 0#28) (true) .vabsI32 w
  | 0x13 => decReg rVV (fld w 0 28 == 0#28) (true) .vnegI32 w
  | 0x14 => decReg rVVV (fld w 0 28 == 0#28) (true) .vandB32 w
  | 0x15 => decReg rVVV (fld w 0 28 == 0#28) (true) .vorB32 w
  | 0x16 => decReg rVVV (fld w 0 28 == 0#28) (true) .vxorB32 w
  | 0x17 => decReg rVVV (fld w 0 28 == 0#28) (true) .vandnB32 w
  | 0x18 => decReg rVV (fld w 0 28 == 0#28) (true) .vnotB32 w
  | 0x19 => decReg rVVV (fld w 0 28 == 0#28) (true) .vshlB32 w
  | 0x1A => decReg rVVV (fld w 0 28 == 0#28) (true) .vshrB32 w
  | 0x1B => decReg rVVV (fld w 0 28 == 0#28) (true) .vshrI32 w
  | 0x1C => decReg rVV (fld w 0 28 == 0#28) (true) .vmovB32 w
  | 0x1D => decReg rVVV (fld w 0 25 == 0#25) (true) (fun x => .vselB32 x (fld w 25 3)) w
  | 0x1E => decReg rVVVV (fld w 0 28 == 0#28) (true) .vdp4I8 w
  | 0x1F => decReg rVVVV (fld w 0 28 == 0#28) (true) .vdp4B8 w
  | _ => .error .illegalFunction

/-- Major 0x21: R79. -/
def dispatch21 (fn : Nat) (w : IWord) : Except Cause Instr :=
  match fn with
  | 0x00 => decImm iVV (fun _ => fld w 0 28 == 0#28) .vaddI32Imm w
  | 0x01 => decImm iVV (fun _ => fld w 0 28 == 0#28) .vsubI32Imm w
  | 0x02 => decImm iVV (fun _ => fld w 0 28 == 0#28) .vaddSatI32Imm w
  | 0x03 => decImm iVV (fun _ => fld w 0 28 == 0#28) .vsubSatI32Imm w
  | 0x04 => decImm iVV (fun _ => fld w 0 28 == 0#28) .vaddSatB32Imm w
  | 0x05 => decImm iVV (fun _ => fld w 0 28 == 0#28) .vsubSatB32Imm w
  | 0x06 => decImm iVV (fun _ => fld w 0 28 == 0#28) .vmulI32Imm w
  | 0x07 => decImm iVV (fun _ => fld w 0 28 == 0#28) .vmulhiI32Imm w
  | 0x08 => decImm iVV (fun _ => fld w 0 28 == 0#28) .vmulhiB32Imm w
  | 0x0E => decImm iVV (fun _ => fld w 0 28 == 0#28) .vminI32Imm w
  | 0x0F => decImm iVV (fun _ => fld w 0 28 == 0#28) .vmaxI32Imm w
  | 0x10 => decImm iVV (fun _ => fld w 0 28 == 0#28) .vminB32Imm w
  | 0x11 => decImm iVV (fun _ => fld w 0 28 == 0#28) .vmaxB32Imm w
  | 0x14 => decImm iVV (fun _ => fld w 0 28 == 0#28) .vandB32Imm w
  | 0x15 => decImm iVV (fun _ => fld w 0 28 == 0#28) .vorB32Imm w
  | 0x16 => decImm iVV (fun _ => fld w 0 28 == 0#28) .vxorB32Imm w
  | 0x17 => decImm iVV (fun _ => fld w 0 28 == 0#28) .vandnB32Imm w
  | 0x19 => decImm iVV (fun _ => fld w 0 28 == 0#28) .vshlB32Imm w
  | 0x1A => decImm iVV (fun _ => fld w 0 28 == 0#28) .vshrB32Imm w
  | 0x1B => decImm iVV (fun _ => fld w 0 28 == 0#28) .vshrI32Imm w
  | 0x1C => decImm iV (fun _ => fld w 0 28 == 0#28) .vmovB32Imm w
  | _ => .error .illegalFunction

/-- Major 0x22: R81. -/
def dispatch22 (fn : Nat) (w : IWord) : Except Cause Instr :=
  match fn with
  | 0x00 => decReg rCmp (fld w 0 26 == 0#26 && combOk (fld w 26 2)) (true) (fun x => .vcmpEqB32 x (fld w 26 2)) w
  | 0x01 => decReg rCmp (fld w 0 26 == 0#26 && combOk (fld w 26 2)) (true) (fun x => .vcmpNeB32 x (fld w 26 2)) w
  | 0x02 => decReg rCmp (fld w 0 26 == 0#26 && combOk (fld w 26 2)) (true) (fun x => .vcmpLtI32 x (fld w 26 2)) w
  | 0x03 => decReg rCmp (fld w 0 26 == 0#26 && combOk (fld w 26 2)) (true) (fun x => .vcmpLeI32 x (fld w 26 2)) w
  | 0x04 => decReg rCmp (fld w 0 26 == 0#26 && combOk (fld w 26 2)) (true) (fun x => .vcmpGtI32 x (fld w 26 2)) w
  | 0x05 => decReg rCmp (fld w 0 26 == 0#26 && combOk (fld w 26 2)) (true) (fun x => .vcmpGeI32 x (fld w 26 2)) w
  | 0x06 => decReg rCmp (fld w 0 26 == 0#26 && combOk (fld w 26 2)) (true) (fun x => .vcmpLtB32 x (fld w 26 2)) w
  | 0x07 => decReg rCmp (fld w 0 26 == 0#26 && combOk (fld w 26 2)) (true) (fun x => .vcmpLeB32 x (fld w 26 2)) w
  | 0x08 => decReg rCmp (fld w 0 26 == 0#26 && combOk (fld w 26 2)) (true) (fun x => .vcmpGtB32 x (fld w 26 2)) w
  | 0x09 => decReg rCmp (fld w 0 26 == 0#26 && combOk (fld w 26 2)) (true) (fun x => .vcmpGeB32 x (fld w 26 2)) w
  | _ => .error .illegalFunction

/-- Major 0x23: R82. -/
noncomputable def dispatch23 (fn : Nat) (w : IWord) : Except Cause Instr :=
  match fn with
  | 0x00 => decReg rVVV (fld w 0 28 == 0#28) (true) .vxtrB32 w
  | 0x01 => decReg rVVV (fld w 0 28 == 0#28) (true) .vxtrI32 w
  | 0x02 => decReg rVVVV (fld w 0 28 == 0#28) (true) .vinsB32 w
  | 0x03 => decReg rVV (fld w 0 28 == 0#28) (true) .vpopcB32 w
  | 0x04 => decReg rVV (fld w 0 28 == 0#28) (true) .vclzB32 w
  | 0x05 => decReg rVV (fld w 0 28 == 0#28) (true) .vctzB32 w
  | 0x06 => decReg rVV (fld w 0 28 == 0#28) (true) .vbrevB32 w
  | 0x07 => decReg rVVVV (fld w 0 28 == 0#28) (true) .vbselB8 w
  | 0x08 => decReg rVVVV (fld w 0 28 == 0#28) (true) .vfunB32 w
  | _ => .error .illegalFunction

/-- Major 0x24: R84. -/
noncomputable def dispatch24 (fn : Nat) (w : IWord) : Except Cause Instr :=
  match fn with
  | 0x00 => decReg rVVV (fld w 0 28 == 0#28) (true) .vdivI32 w
  | 0x01 => decReg rVVV (fld w 0 28 == 0#28) (true) .vremI32 w
  | 0x02 => decReg rVVV (fld w 0 28 == 0#28) (true) .vdivB32 w
  | 0x03 => decReg rVVV (fld w 0 28 == 0#28) (true) .vremB32 w
  | 0x04 => decReg rDivrem (fld w 0 28 == 0#28) (true) .vdivremI32 w
  | 0x05 => decReg rDivrem (fld w 0 28 == 0#28) (true) .vdivremB32 w
  | _ => .error .illegalFunction

/-- Major 0x25: R88. -/
noncomputable def dispatch25 (fn : Nat) (w : IWord) : Except Cause Instr :=
  match fn with
  | 0x00 => decReg (rLane 0 (laneRead w)) (fld w 0 19 == 0#19 && laneOk 0 (laneRead w)) (true) (fun x => .vxlnPick x (laneRead w)) w
  | 0x01 => decReg (rLane 1 (laneRead w)) (fld w 0 19 == 0#19 && laneOk 1 (laneRead w)) (true) (fun x => .vxlnLower x (laneRead w)) w
  | 0x02 => decReg (rLane 2 (laneRead w)) (fld w 0 19 == 0#19 && laneOk 2 (laneRead w)) (true) (fun x => .vxlnUpper x (laneRead w)) w
  | 0x03 => decReg (rLane 3 (laneRead w)) (fld w 0 19 == 0#19 && laneOk 3 (laneRead w)) (true) (fun x => .vxlnMirror x (laneRead w)) w
  | 0x04 => decReg (rLane 4 (laneRead w)) (fld w 0 19 == 0#19 && laneOk 4 (laneRead w)) (true) (fun x => .vswapp x (laneRead w)) w
  | 0x05 => decReg (rLane 5 (laneRead w)) (fld w 0 19 == 0#19 && laneOk 5 (laneRead w)) (true) (fun x => .vxlnFan x (laneRead w)) w
  | 0x06 => decReg (rLane 6 (laneRead w)) (fld w 0 19 == 0#19 && laneOk 6 (laneRead w)) (true) (fun x => .vxlnTake x (laneRead w)) w
  | 0x07 => decReg (rLane 7 (laneRead w)) (fld w 0 19 == 0#19 && laneOk 7 (laneRead w)) (true) (fun x => .vxlnPut x (laneRead w)) w
  | _ => .error .illegalFunction

/-- Major 0x26: R89, R90. -/
noncomputable def dispatch26 (fn : Nat) (w : IWord) : Except Cause Instr :=
  match fn with
  | 0x00 => decReg rPoll (fld w 0 28 == 0#28) (true) .vpollSome w
  | 0x01 => decReg rPoll (fld w 0 28 == 0#28) (true) .vpollEvery w
  | 0x02 => decReg rPoll (fld w 0 28 == 0#28) (true) .vpollMap w
  | 0x03 => decReg rPoll (fld w 0 28 == 0#28) (true) .vpollSame w
  | 0x04 => decReg rPeers (fld w 0 28 == 0#28) (true) .vpollPeers w
  | 0x08 => decReg rRed (fld w 0 28 == 0#28) (true) .vredAddI32 w
  | 0x09 => decReg rRed (fld w 0 28 == 0#28) (true) .vredMinI32 w
  | 0x0A => decReg rRed (fld w 0 28 == 0#28) (true) .vredMaxI32 w
  | 0x0B => decReg rRed (fld w 0 28 == 0#28) (true) .vredMinB32 w
  | 0x0C => decReg rRed (fld w 0 28 == 0#28) (true) .vredMaxB32 w
  | 0x0D => decReg rRed (fld w 0 28 == 0#28) (true) .vredAndB32 w
  | 0x0E => decReg rRed (fld w 0 28 == 0#28) (true) .vredOrB32 w
  | 0x0F => decReg rRed (fld w 0 28 == 0#28) (true) .vredXorB32 w
  | 0x10 => decReg rRed (fld w 0 28 == 0#28) (true) .vredAddF32 w
  | 0x11 => decReg rRed (fld w 0 28 == 0#28) (true) .vredMinF32 w
  | 0x12 => decReg rRed (fld w 0 28 == 0#28) (true) .vredMaxF32 w
  | 0x18 => decReg rPeers (fld w 0 28 == 0#28) (true) .vscanAddI32 w
  | _ => .error .illegalFunction

/-- Major 0x40: R151. -/
def dispatch40 (fn : Nat) (w : IWord) : Except Cause Instr :=
  match fn with
  | 0x00 => decReg rF2 (fld w 0 28 == 0#28) (true) .vaddF32 w
  | 0x01 => decReg rF2 (fld w 0 28 == 0#28) (true) .vsubF32 w
  | 0x02 => decReg rF2 (fld w 0 28 == 0#28) (true) .vmulF32 w
  | 0x04 => decReg rF3 (fld w 0 28 == 0#28) (true) .vfmaF32 w
  | 0x05 => decReg rFrnd (fld w 0 25 == 0#25 && rmsOk (fld w 25 3)) (true) (fun x => .vrndF32 x (fld w 25 3)) w
  | 0x06 => decReg rFldexp (fld w 0 28 == 0#28) (true) .vldexpF32 w
  | 0x07 => decReg rVV (fld w 0 28 == 0#28) (true) .vclassF32 w
  | _ => .error .illegalFunction

/-- Major 0x41: R152. -/
noncomputable def dispatch41 (fn : Nat) (w : IWord) : Except Cause Instr :=
  match fn with
  | 0x00 => decReg rF2 (fld w 0 27 == 0#27) (true) (fun x => .vaddF16x2 x (w.getLsbD 27)) w
  | 0x01 => decReg rF2 (fld w 0 27 == 0#27) (true) (fun x => .vsubF16x2 x (w.getLsbD 27)) w
  | 0x02 => decReg rF2 (fld w 0 27 == 0#27) (true) (fun x => .vmulF16x2 x (w.getLsbD 27)) w
  | 0x04 => decReg rF3 (fld w 0 27 == 0#27) (true) (fun x => .vfmaF16x2 x (w.getLsbD 27)) w
  | 0x05 => decReg rFminmax (fld w 0 27 == 0#27) (true) (fun x => .vminF16x2 x (w.getLsbD 27)) w
  | 0x06 => decReg rFminmax (fld w 0 27 == 0#27) (true) (fun x => .vmaxF16x2 x (w.getLsbD 27)) w
  | 0x08 => decReg rF3 (fld w 0 27 == 0#27) (true) (fun x => .vdot2F32F16x2 x (w.getLsbD 27)) w
  | _ => .error .illegalFunction

/-- Major 0x42: R153, R154. -/
def dispatch42 (fn : Nat) (w : IWord) : Except Cause Instr :=
  match fn with
  | 0x00 => decReg rFcmp (fld w 0 26 == 0#26 && combOk (fld w 26 2)) (true) (fun x => .vfcmpEqF32 x (fld w 26 2)) w
  | 0x01 => decReg rFcmp (fld w 0 26 == 0#26 && combOk (fld w 26 2)) (true) (fun x => .vfcmpNeF32 x (fld w 26 2)) w
  | 0x02 => decReg rFcmp (fld w 0 26 == 0#26 && combOk (fld w 26 2)) (true) (fun x => .vfcmpLtF32 x (fld w 26 2)) w
  | 0x03 => decReg rFcmp (fld w 0 26 == 0#26 && combOk (fld w 26 2)) (true) (fun x => .vfcmpLeF32 x (fld w 26 2)) w
  | 0x04 => decReg rFcmp (fld w 0 26 == 0#26 && combOk (fld w 26 2)) (true) (fun x => .vfcmpGtF32 x (fld w 26 2)) w
  | 0x05 => decReg rFcmp (fld w 0 26 == 0#26 && combOk (fld w 26 2)) (true) (fun x => .vfcmpGeF32 x (fld w 26 2)) w
  | 0x06 => decReg rFcmp (fld w 0 26 == 0#26 && combOk (fld w 26 2)) (true) (fun x => .vfcmpUnF32 x (fld w 26 2)) w
  | 0x07 => decReg rFcmp (fld w 0 26 == 0#26 && combOk (fld w 26 2)) (true) (fun x => .vfcmpOrdF32 x (fld w 26 2)) w
  | 0x08 => decReg rFminmax (fld w 0 28 == 0#28) (true) .vminF32 w
  | 0x09 => decReg rFminmax (fld w 0 28 == 0#28) (true) .vmaxF32 w
  | _ => .error .illegalFunction

/-- Major 0x43: R155. -/
noncomputable def dispatch43 (fn : Nat) (w : IWord) : Except Cause Instr :=
  match fn with
  | 0x00 => decReg rF2 (fld w 0 28 == 0#28) (true) .vfdiv w
  | 0x01 => decReg rF1 (fld w 0 28 == 0#28) (true) .vfsqrt w
  | _ => .error .illegalFunction

/-- Major 0x44: R156. -/
noncomputable def dispatch44 (fn : Nat) (w : IWord) : Except Cause Instr :=
  match fn with
  | 0x00 => decReg rF1 (fld w 0 28 == 0#28) (true) .vsinr w
  | 0x01 => decReg rF1 (fld w 0 28 == 0#28) (true) .vcosr w
  | 0x02 => decReg rF1 (fld w 0 28 == 0#28) (true) .vsinpi w
  | 0x03 => decReg rF1 (fld w 0 28 == 0#28) (true) .vcospi w
  | 0x04 => decReg rF1 (fld w 0 28 == 0#28) (true) .vexp2 w
  | 0x05 => decReg rF1 (fld w 0 28 == 0#28) (true) .vlog2 w
  | 0x06 => decReg rF1 (fld w 0 28 == 0#28) (true) .vrcp w
  | 0x07 => decReg rF1 (fld w 0 28 == 0#28) (true) .vrsq w
  | _ => .error .illegalFunction

/-- Major 0x45: R159, R160. -/
noncomputable def dispatch45 (fn : Nat) (w : IWord) : Except Cause Instr :=
  match fn with
  | 0x00 => decReg rCvtP (fld w 0 25 == 0#25 && rmsOk (fld w 25 3)) (true) (fun x => .vcvtF32I32 x (fld w 25 3)) w
  | 0x01 => decReg rCvtP (fld w 0 25 == 0#25 && rmsOk (fld w 25 3)) (true) (fun x => .vcvtF32B32 x (fld w 25 3)) w
  | 0x02 => decReg rCvtNP (fld w 0 25 == 0#25 && rmsOk (fld w 25 3)) (true) (fun x => .vcvtI32F32 x (fld w 25 3)) w
  | 0x03 => decReg rCvtNP (fld w 0 25 == 0#25 && rmsOk (fld w 25 3)) (true) (fun x => .vcvtB32F32 x (fld w 25 3)) w
  | 0x04 => decReg rCvtN (fld w 0 21 == 0#21 && fld w 22 6 == 0#6) (true) (fun x => .vcvtF32F16 x (w.getLsbD 21)) w
  | 0x05 => decReg rCvtN (fld w 0 21 == 0#21 && fld w 22 6 == 0#6) (true) (fun x => .vcvtF32Bf16 x (w.getLsbD 21)) w
  | 0x06 => decReg rF2 (fld w 0 25 == 0#25 && rmsOk (fld w 25 3)) (true) (fun x => .vcvtF16x2F32 x (fld w 25 3)) w
  | 0x07 => decReg rF2 (fld w 0 25 == 0#25 && rmsOk (fld w 25 3)) (true) (fun x => .vcvtBf16x2F32 x (fld w 25 3)) w
  | 0x08 => decReg rCvtE (fld w 0 16 == 0#16 && fld w 21 1 == 0#1 && elemToOk (elemRead w)) (true) (fun x => .vcvtFmtF32 x (elemRead w)) w
  | 0x09 => decReg (rFromElem (elemRead w)) (fld w 0 16 == 0#16 && fld w 21 1 == 0#1 && elemFromOk (elemRead w)) (true) (fun x => .vcvtF32Fmt x (elemRead w)) w
  | 0x0A => decReg rVV (fld w 0 28 == 0#28) (true) .vcvtF32E8m0 w
  | _ => .error .illegalFunction

/-- Major 0x46: R162, R163. -/
noncomputable def dispatch46 (fn : Nat) (w : IWord) : Except Cause Instr :=
  match fn with
  | 0x00 => decReg rHad (fld w 0 28 == 0#28) (true) .vhad32 w
  | 0x01 => decReg rHad (fld w 0 28 == 0#28) (true) .vhad32N w
  | 0x02 => decReg rHad (fld w 0 15 == 0#15 && quantOk (quantRead w)) (quantScdOk (quantRead w)) (fun x => .vquant x (quantRead w)) w
  | _ => .error .illegalFunction

/-- Major 0x47: R151. -/
def dispatch47 (fn : Nat) (w : IWord) : Except Cause Instr :=
  match fn with
  | 0x00 => decImm iVV (fun _ => fld w 0 28 == 0#28) .vaddF32Imm w
  | 0x01 => decImm iVV (fun _ => fld w 0 28 == 0#28) .vsubF32Imm w
  | 0x02 => decImm iVV (fun _ => fld w 0 28 == 0#28) .vmulF32Imm w
  | 0x03 => decImm iVV (fun _ => fld w 0 28 == 0#28) .vsubrF32 w
  | _ => .error .illegalFunction

/-- Major 0x70: R114. -/
def dispatch70 (fn : Nat) (w : IWord) : Except Cause Instr :=
  match fn with
  | 0x00 => decMem mLoad (fun x => fld w 1 11 == 0#11 && sxOk (w.getLsbD 0) x.size) (fun x => .ldG x (w.getLsbD 0)) w
  | _ => .error .illegalFunction

/-- Major 0x71: R115. -/
def dispatch71 (fn : Nat) (w : IWord) : Except Cause Instr :=
  match fn with
  | 0x00 => decMem mStore (fun _ => fld w 0 12 == 0#12) .stG w
  | _ => .error .illegalFunction

/-- Major 0x72: R118. -/
def dispatch72 (fn : Nat) (w : IWord) : Except Cause Instr :=
  match fn with
  | 0x00 => decMem (mAtom false .b32 (spaceRead w)) (fun _ => fld w 0 6 == 0#6 && spaceOk (spaceRead w)) (fun x => .atomAddI32 x (spaceRead w)) w
  | 0x01 => decMem (mAtom false .b64 (spaceRead w)) (fun _ => fld w 0 6 == 0#6 && spaceOk (spaceRead w)) (fun x => .atomAddB64 x (spaceRead w)) w
  | 0x02 => decMem (mAtom false .b32 (spaceRead w)) (fun _ => fld w 0 6 == 0#6 && spaceOk (spaceRead w)) (fun x => .atomMinI32 x (spaceRead w)) w
  | 0x03 => decMem (mAtom false .b32 (spaceRead w)) (fun _ => fld w 0 6 == 0#6 && spaceOk (spaceRead w)) (fun x => .atomMaxI32 x (spaceRead w)) w
  | 0x04 => decMem (mAtom false .b32 (spaceRead w)) (fun _ => fld w 0 6 == 0#6 && spaceOk (spaceRead w)) (fun x => .atomMinB32 x (spaceRead w)) w
  | 0x05 => decMem (mAtom false .b32 (spaceRead w)) (fun _ => fld w 0 6 == 0#6 && spaceOk (spaceRead w)) (fun x => .atomMaxB32 x (spaceRead w)) w
  | 0x06 => decMem (mAtom false .b32 (spaceRead w)) (fun _ => fld w 0 6 == 0#6 && spaceOk (spaceRead w)) (fun x => .atomAndB32 x (spaceRead w)) w
  | 0x07 => decMem (mAtom false .b32 (spaceRead w)) (fun _ => fld w 0 6 == 0#6 && spaceOk (spaceRead w)) (fun x => .atomOrB32 x (spaceRead w)) w
  | 0x08 => decMem (mAtom false .b32 (spaceRead w)) (fun _ => fld w 0 6 == 0#6 && spaceOk (spaceRead w)) (fun x => .atomXorB32 x (spaceRead w)) w
  | 0x09 => decMem (mAtom false .b32 (spaceRead w)) (fun _ => fld w 0 6 == 0#6 && spaceOk (spaceRead w)) (fun x => .atomExchB32 x (spaceRead w)) w
  | 0x0A => decMem (mAtom false .b64 (spaceRead w)) (fun _ => fld w 0 6 == 0#6 && spaceOk (spaceRead w)) (fun x => .atomExchB64 x (spaceRead w)) w
  | 0x0B => decMem (mAtom true .b32 (spaceRead w)) (fun _ => fld w 0 6 == 0#6 && spaceOk (spaceRead w)) (fun x => .atomCasB32 x (spaceRead w)) w
  | 0x0C => decMem (mAtom true .b64 (spaceRead w)) (fun _ => fld w 0 6 == 0#6 && spaceOk (spaceRead w)) (fun x => .atomCasB64 x (spaceRead w)) w
  | 0x0D => decMem (mAtom false .b32 (spaceRead w)) (fun _ => fld w 0 6 == 0#6 && spaceOk (spaceRead w)) (fun x => .atomAddF32 x (spaceRead w)) w
  | 0x0E => decMem (mAtom false .b32 (spaceRead w)) (fun _ => fld w 0 6 == 0#6 && spaceOk (spaceRead w)) (fun x => .atomIncB32 x (spaceRead w)) w
  | 0x0F => decMem (mAtom false .b32 (spaceRead w)) (fun _ => fld w 0 6 == 0#6 && spaceOk (spaceRead w)) (fun x => .atomDecB32 x (spaceRead w)) w
  | _ => .error .illegalFunction

/-- Major 0x73: R116. -/
noncomputable def dispatch73 (fn : Nat) (w : IWord) : Except Cause Instr :=
  match fn with
  | 0x00 => decMem mLoadS (fun x => fld w 1 11 == 0#11 && sxOk (w.getLsbD 0) x.size) (fun x => .ldS x (w.getLsbD 0)) w
  | 0x01 => decMem mStoreS (fun _ => fld w 0 12 == 0#12) .stS w
  | 0x02 => decMem mLoadRS (fun x => fld w 1 11 == 0#11 && sxOk (w.getLsbD 0) x.size) (fun x => .ldRs x (w.getLsbD 0)) w
  | 0x03 => decMem mStoreRS (fun _ => fld w 0 12 == 0#12) .stRs w
  | _ => .error .illegalFunction

/-- Major 0x74: R117. -/
noncomputable def dispatch74 (fn : Nat) (w : IWord) : Except Cause Instr :=
  match fn with
  | 0x00 => decMem mLoadC (fun x => fld w 1 11 == 0#11 && sxOk (w.getLsbD 0) x.size) (fun x => .ldC x (w.getLsbD 0)) w
  | 0x01 => decMem mLoadRO (fun x => fld w 1 11 == 0#11 && sxOk (w.getLsbD 0) x.size) (fun x => .ldRo x (w.getLsbD 0)) w
  | _ => .error .illegalFunction

/-- Major 0x75: R130, R139. -/
noncomputable def dispatch75 (fn : Nat) (w : IWord) : Except Cause Instr :=
  match fn with
  | 0x00 =>
    if fld w 38 3 == 1#3 then decMem (mFence .acq) (fun _ => fld w 0 12 == 0#12) .fenceAcq w
    else if fld w 38 3 == 2#3 then decMem (mFence .rel) (fun _ => fld w 0 12 == 0#12) .fenceRel w
    else if fld w 38 3 == 3#3 then decMem (mFence .ar) (fun _ => fld w 0 12 == 0#12) .fenceAr w
    else .error .reservedField
  | 0x01 => decMem mFenceRo (fun _ => fld w 0 12 == 0#12) .fenceRo w
  | _ => .error .illegalFunction

/-- Major 0x76: R122. -/
noncomputable def dispatch76 (fn : Nat) (w : IWord) : Except Cause Instr :=
  match fn with
  | 0x00 => decMem mPf (fun _ => fld w 2 10 == 0#10 && levelOk (fld w 0 2)) (fun x => .pfG x (fld w 0 2)) w
  | _ => .error .illegalFunction

/-- Major 0x77: R112. -/
noncomputable def dispatch77 (fn : Nat) (w : IWord) : Except Cause Instr :=
  match fn with
  | 0x00 => decMem mResSet (fun _ => fld w 0 4 == 0#4) (fun x => .resSet x (fld w 6 6) (fld w 4 2)) w
  | 0x01 => decMem mResH (fun _ => fld w 0 6 == 0#6) (fun x => .resDemote x (fld w 6 6)) w
  | 0x02 => decMem mResH (fun _ => fld w 0 6 == 0#6) (fun x => .resEvict x (fld w 6 6)) w
  | _ => .error .illegalFunction

/-- Major 0x90: R169. -/
noncomputable def dispatch90 (fn : Nat) (w : IWord) : Except Cause Instr :=
  match fn with
  | 0x00 => decSink .sink w
  | _ => .error .illegalFunction

/-- Major 0x91: R69. -/
noncomputable def dispatch91 (fn : Nat) (w : IWord) : Except Cause Instr :=
  match fn with
  | 0x00 => decReg rPset (fld w 0 28 == 0#28) (true) .pset w
  | 0x01 => decReg rPget (fld w 0 28 == 0#28) (true) .pget w
  | _ => .error .illegalFunction

/-- Major 0x92: R196. -/
noncomputable def dispatch92 (fn : Nat) (w : IWord) : Except Cause Instr :=
  match fn with
  | 0x00 => decImm iFbp (fun x => fld w 0 20 == 0#20 && fbpOk x.imm) (fun x => .fbp x (fld w 20 8)) w
  | _ => .error .illegalFunction

/-- Major 0x93: R46. -/
noncomputable def dispatch93 (fn : Nat) (w : IWord) : Except Cause Instr :=
  match fn with
  | 0x00 => decReg rXset (fld w 0 26 == 0#26) (true) (fun x => .xset x (fld w 26 2)) w
  | 0x01 => decReg rXidx (fld w 0 26 == 0#26) (true) (fun x => .xidx x (fld w 26 2)) w
  | 0x02 => decReg rXidx (fld w 0 26 == 0#26) (true) (fun x => .xadd x (fld w 26 2)) w
  | 0x03 => decReg rXget (fld w 0 26 == 0#26) (true) (fun x => .xget x (fld w 26 2)) w
  | _ => .error .illegalFunction

/-- Major 0xA0: R72, R73. -/
noncomputable def dispatchA0 (fn : Nat) (w : IWord) : Except Cause Instr :=
  match fn with
  | 0x00 => decEng eArrive (fun x => fld w 0 25 == 0#25 && bidOk x.scope (fld w 25 4)) (fun x => .barArrive x (fld w 25 4)) w
  | 0x01 => decEng eWait (fun x => fld w 0 25 == 0#25 && bidOk x.scope (fld w 25 4)) (fun x => .barWait x (fld w 25 4)) w
  | 0x02 => decEng eMeet (fun x => fld w 0 25 == 0#25 && bidOk x.scope (fld w 25 4)) (fun x => .barMeet x (fld w 25 4)) w
  | _ => .error .illegalFunction

/-- Major 0xA1: R192. -/
noncomputable def dispatchA1 (fn : Nat) (w : IWord) : Except Cause Instr :=
  match fn with
  | 0x00 => decEng eLaunch (fun _ => fld w 0 29 == 0#29) .launch w
  | _ => .error .illegalFunction

/-- Major 0xA2: R240. -/
noncomputable def dispatchA2 (fn : Nat) (w : IWord) : Except Cause Instr :=
  match fn with
  | 0x00 => decEng eNqpost (fun _ => fld w 0 29 == 0#29) .nqpost w
  | 0x01 => decEng eNqpoll (fun _ => fld w 0 29 == 0#29) .nqpoll w
  | _ => .error .illegalFunction

/-- Major 0xB0: R208, R206. -/
noncomputable def dispatchB0 (fn : Nat) (w : IWord) : Except Cause Instr :=
  match fn with
  | 0x00 => decEng eTdef (fun _ => fld w 15 14 == 0#14) (fun x => .tdef x (fld w 0 12) (fld w 12 3)) w
  | 0x01 =>
    if w.getLsbD 32 then decEng eTrel (fun x => fld w 0 29 == 0#29 && x.flags.getLsbD 0 == true) .trelPub w
    else decEng eTrel (fun x => fld w 0 29 == 0#29 && x.flags.getLsbD 0 == false) .trel w
  | 0x02 => decEng eTstate (fun _ => fld w 0 29 == 0#29) .tstate w
  | _ => .error .illegalFunction

/-- Major 0xB1: R211, R212. -/
noncomputable def dispatchB1 (fn : Nat) (w : IWord) : Except Cause Instr :=
  match fn with
  | 0x00 => decEng eCpy (fun _ => fld w 0 29 == 0#29) .cpy w
  | 0x01 => decEng eCpy (fun _ => fld w 0 29 == 0#29) .cpySt w
  | 0x02 => decEng eGath (fun _ => fld w 0 29 == 0#29) .cpyGath w
  | 0x03 => decEng eGath (fun _ => fld w 0 29 == 0#29) .cpyScat w
  | 0x04 => decEng eMx (fun x => fld w 0 29 == 0#29 && mxFlagsOk x) .cpyMx w
  | _ => .error .illegalFunction

/-- Major 0xB2: R221, R222. -/
noncomputable def dispatchB2 (fn : Nat) (w : IWord) : Except Cause Instr :=
  match fn with
  | 0x00 => decEng eMldw (fun _ => fld w 0 29 == 0#29) .mldw w
  | 0x01 => decEng eMma (fun _ => fld w 0 29 == 0#29) .mma w
  | _ => .error .illegalFunction

/-- Major 0xB3: R228. -/
noncomputable def dispatchB3 (fn : Nat) (w : IWord) : Except Cause Instr :=
  match fn with
  | 0x00 => decEng eAccz (fun _ => fld w 0 29 == 0#29) .accz w
  | 0x01 =>
    if w.getLsbD 32 then decEng eAccrdReg (fun x => fld w 4 3 == 0#3 && fld w 23 6 == 0#6 && x.flags.getLsbD 0 == true && accrdRegOk (accrdRead w)) (fun x => .accrdReg x (accrdRead w)) w
    else decEng eAccrd (fun x => fld w 4 3 == 0#3 && fld w 23 6 == 0#6 && x.flags.getLsbD 0 == false) (fun x => .accrd x (accrdRead w)) w
  | 0x02 =>
    if w.getLsbD 32 then decEng eAccstW (fun x => fld w 0 29 == 0#29 && x.flags.getLsbD 0 == true) .accstW w
    else decEng eAccst (fun x => fld w 0 29 == 0#29 && x.flags.getLsbD 0 == false) .accst w
  | 0x03 => decEng eAccprom (fun _ => fld w 0 29 == 0#29) .accprom w
  | _ => .error .illegalFunction

/-- Major 0xE0: R76. -/
noncomputable def dispatchE0 (fn : Nat) (w : IWord) : Except Cause Instr :=
  match fn with
  | 0x00 => decCsr false .csrr w
  | 0x01 => decCsr true .csrw w
  | _ => .error .illegalFunction

/-- Major 0xE1: R78. -/
noncomputable def dispatchE1 (fn : Nat) (w : IWord) : Except Cause Instr :=
  match fn with
  | 0x00 => decSys .none .none .trap w
  | 0x01 => decSys .none .none .bkpt w
  | _ => .error .illegalFunction

/-- Major 0xE2: R291. -/
noncomputable def dispatchE2 (fn : Nat) (w : IWord) : Except Cause Instr :=
  match fn with
  | 0x00 => decSys .dstS .sOnly .lease w
  | _ => .error .illegalFunction

/-- The word of a major and a function. Major 0x00 has one instruction, the all-zero word (R36). -/
noncomputable def dispatch (mj fn : Nat) (w : IWord) : Except Cause Instr :=
  match mj with
  | 0x00 => if w == 0#96 then .ok .nop else .error .reservedField
  | 0x01 => dispatch01 fn w
  | 0x02 => dispatch02 fn w
  | 0x03 => dispatch03 fn w
  | 0x04 => dispatch04 fn w
  | 0x05 => dispatch05 fn w
  | 0x06 => dispatch06 fn w
  | 0x07 => dispatch07 fn w
  | 0x20 => dispatch20 fn w
  | 0x21 => dispatch21 fn w
  | 0x22 => dispatch22 fn w
  | 0x23 => dispatch23 fn w
  | 0x24 => dispatch24 fn w
  | 0x25 => dispatch25 fn w
  | 0x26 => dispatch26 fn w
  | 0x40 => dispatch40 fn w
  | 0x41 => dispatch41 fn w
  | 0x42 => dispatch42 fn w
  | 0x43 => dispatch43 fn w
  | 0x44 => dispatch44 fn w
  | 0x45 => dispatch45 fn w
  | 0x46 => dispatch46 fn w
  | 0x47 => dispatch47 fn w
  | 0x70 => dispatch70 fn w
  | 0x71 => dispatch71 fn w
  | 0x72 => dispatch72 fn w
  | 0x73 => dispatch73 fn w
  | 0x74 => dispatch74 fn w
  | 0x75 => dispatch75 fn w
  | 0x76 => dispatch76 fn w
  | 0x77 => dispatch77 fn w
  | 0x90 => dispatch90 fn w
  | 0x91 => dispatch91 fn w
  | 0x92 => dispatch92 fn w
  | 0x93 => dispatch93 fn w
  | 0xA0 => dispatchA0 fn w
  | 0xA1 => dispatchA1 fn w
  | 0xA2 => dispatchA2 fn w
  | 0xB0 => dispatchB0 fn w
  | 0xB1 => dispatchB1 fn w
  | 0xB2 => dispatchB2 fn w
  | 0xB3 => dispatchB3 fn w
  | 0xE0 => dispatchE0 fn w
  | 0xE1 => dispatchE1 fn w
  | 0xE2 => dispatchE2 fn w
  | _ => .error .illegalOpcode

/-- The instruction a 96-bit word holds, or the encoding trap of R37 that refuses it. -/
noncomputable def decode (w : IWord) : Except Cause Instr :=
  dispatch (fld w 88 8).toNat (fld w 80 8).toNat w

/-- The little-endian value of a list of bytes (R3). -/
def leNat : List Byte → Nat
  | [] => 0
  | b :: bs => b.toNat + 256 * leNat bs

/-- The first `n` bytes of a number, little-endian (R3). -/
def leBytes : Nat → Nat → List Byte
  | 0, _ => []
  | n + 1, v => BitVec.ofNat 8 v :: leBytes n (v / 256)

/-- The 96-bit word of twelve bytes in memory (R3, R25). -/
def wordOfBytes (bs : List Byte) : IWord := BitVec.ofNat 96 (leNat bs)

/-- The instruction of a word given as the opcode table numbers its bits: one word of 96 bits, laid out in memory as
twelve little-endian bytes (R3, R25). DESIGN CHOICE (log 62), safe. -/
noncomputable def decodeTableWord (nbits w : Nat) : Option Instr :=
  if nbits ≤ 96 then (decode (wordOfBytes (leBytes 12 w))).toOption else none

/-! ## The formats, written -/

/-- Bits 95:60 of every word (R29). -/
def encHead (maj fn : BitVec 8) (guard : BitVec 3) (ginv : Bool) (d a : BitVec 8) : BitVec 36 :=
  maj ++ fn ++ guard ++ bit ginv ++ d ++ a
/-- R30 -/
def encReg (maj fn : BitVec 8) (sp : BitVec 28) (x : RegF) : IWord :=
  encHead maj fn x.guard x.ginv (opdCode x.d) (opdCode x.a) ++ opdCode x.b ++ opdCode x.c ++ bit x.nega ++ bit x.absa
    ++ bit x.negb ++ bit x.absb ++ bit x.negc ++ bit x.absc ++ 0#1 ++ x.clamp ++ x.scale ++ x.hold ++ sp
/-- R31 -/
def encImm (maj fn : BitVec 8) (sp : BitVec 28) (x : ImmF) : IWord :=
  encHead maj fn x.guard x.ginv (opdCode x.d) (opdCode x.a) ++ x.imm ++ sp
/-- R32 -/
def encMem (maj fn : BitVec 8) (sp : BitVec 12) (x : MemF) : IWord :=
  encHead maj fn x.guard x.ginv (opdCode x.d) (opdCode x.a) ++ opdCode x.s ++ opdCode x.t ++ sizeCode x.size
    ++ orderCode x.order ++ scopeCode x.scope ++ hintCode x.hint ++ x.offset ++ sp
/-- R33 -/
def encBr (maj fn : BitVec 8) (x : BrF) : IWord :=
  encHead maj fn x.guard x.ginv (opdCode x.d) (opdCode x.a) ++ x.jslot ++ x.jdisp ++ x.cmask ++ bit x.cinv ++ 0#5
    ++ x.slot ++ x.disp ++ 0#5
/-- R34 -/
def encEng (maj fn : BitVec 8) (sp : BitVec 29) (x : EngF) : IWord :=
  encHead maj fn x.guard x.ginv (opdCode x.d) (opdCode x.a) ++ opdCode x.b ++ opdCode x.c ++ x.tile ++ x.acc ++ x.flags
    ++ scopeCode x.scope ++ sp
/-- R35 -/
def encSys (maj fn : BitVec 8) (x : SysF) : IWord :=
  encHead maj fn x.guard x.ginv (opdCode x.d) (opdCode x.a) ++ x.csr ++ opdCode x.b ++ x.imm16 ++ 0#24
/-- R165 -/
def encSink (maj fn : BitVec 8) (x : SinkF) : IWord :=
  encHead maj fn x.guard x.ginv x.log x.out0 ++ x.in0 ++ x.in1 ++ x.in2 ++ x.in3 ++ x.out1 ++ x.len ++ x.nin ++ x.nout
    ++ 0#1 ++ bit x.inplace ++ bit x.loc ++ 0#8

/-- The word of an instruction; an event has none. -/
def encode : Instr → Option IWord
  | .nop => some 0#96
  | .mand x => some (encReg 0x04#8 0x00#8 0#28 x)
  | .mor x => some (encReg 0x04#8 0x01#8 0#28 x)
  | .mxor x => some (encReg 0x04#8 0x02#8 0#28 x)
  | .mandn x => some (encReg 0x04#8 0x03#8 0#28 x)
  | .mnot x => some (encReg 0x04#8 0x04#8 0#28 x)
  | .mmov x => some (encReg 0x04#8 0x05#8 0#28 x)
  | .mtos x => some (encReg 0x04#8 0x06#8 0#28 x)
  | .stom x => some (encReg 0x04#8 0x07#8 0#28 x)
  | .mpopc x => some (encReg 0x04#8 0x08#8 0#28 x)
  | .mffs x => some (encReg 0x04#8 0x09#8 0#28 x)
  | .many x => some (encReg 0x04#8 0x0A#8 0#28 x)
  | .mall x => some (encReg 0x04#8 0x0B#8 0#28 x)
  | .meq x => some (encReg 0x04#8 0x0C#8 0#28 x)
  | .vaddI32 x => some (encReg 0x20#8 0x00#8 0#28 x)
  | .vsubI32 x => some (encReg 0x20#8 0x01#8 0#28 x)
  | .vaddSatI32 x => some (encReg 0x20#8 0x02#8 0#28 x)
  | .vsubSatI32 x => some (encReg 0x20#8 0x03#8 0#28 x)
  | .vaddSatB32 x => some (encReg 0x20#8 0x04#8 0#28 x)
  | .vsubSatB32 x => some (encReg 0x20#8 0x05#8 0#28 x)
  | .vmulI32 x => some (encReg 0x20#8 0x06#8 0#28 x)
  | .vmulhiI32 x => some (encReg 0x20#8 0x07#8 0#28 x)
  | .vmulhiB32 x => some (encReg 0x20#8 0x08#8 0#28 x)
  | .vmadI32 x => some (encReg 0x20#8 0x09#8 0#28 x)
  | .vmadwI32 x => some (encReg 0x20#8 0x0A#8 0#28 x)
  | .vmadwB32 x => some (encReg 0x20#8 0x0B#8 0#28 x)
  | .vaddB64 x => some (encReg 0x20#8 0x0C#8 0#28 x)
  | .vsubB64 x => some (encReg 0x20#8 0x0D#8 0#28 x)
  | .vminI32 x => some (encReg 0x20#8 0x0E#8 0#28 x)
  | .vmaxI32 x => some (encReg 0x20#8 0x0F#8 0#28 x)
  | .vminB32 x => some (encReg 0x20#8 0x10#8 0#28 x)
  | .vmaxB32 x => some (encReg 0x20#8 0x11#8 0#28 x)
  | .vabsI32 x => some (encReg 0x20#8 0x12#8 0#28 x)
  | .vnegI32 x => some (encReg 0x20#8 0x13#8 0#28 x)
  | .vandB32 x => some (encReg 0x20#8 0x14#8 0#28 x)
  | .vorB32 x => some (encReg 0x20#8 0x15#8 0#28 x)
  | .vxorB32 x => some (encReg 0x20#8 0x16#8 0#28 x)
  | .vandnB32 x => some (encReg 0x20#8 0x17#8 0#28 x)
  | .vnotB32 x => some (encReg 0x20#8 0x18#8 0#28 x)
  | .vshlB32 x => some (encReg 0x20#8 0x19#8 0#28 x)
  | .vshrB32 x => some (encReg 0x20#8 0x1A#8 0#28 x)
  | .vshrI32 x => some (encReg 0x20#8 0x1B#8 0#28 x)
  | .vmovB32 x => some (encReg 0x20#8 0x1C#8 0#28 x)
  | .vselB32 x selm => some (encReg 0x20#8 0x1D#8 (selm ++ 0#25) x)
  | .vdp4I8 x => some (encReg 0x20#8 0x1E#8 0#28 x)
  | .vdp4B8 x => some (encReg 0x20#8 0x1F#8 0#28 x)
  | .vaddI32Imm x => some (encImm 0x21#8 0x00#8 0#28 x)
  | .vsubI32Imm x => some (encImm 0x21#8 0x01#8 0#28 x)
  | .vaddSatI32Imm x => some (encImm 0x21#8 0x02#8 0#28 x)
  | .vsubSatI32Imm x => some (encImm 0x21#8 0x03#8 0#28 x)
  | .vaddSatB32Imm x => some (encImm 0x21#8 0x04#8 0#28 x)
  | .vsubSatB32Imm x => some (encImm 0x21#8 0x05#8 0#28 x)
  | .vmulI32Imm x => some (encImm 0x21#8 0x06#8 0#28 x)
  | .vmulhiI32Imm x => some (encImm 0x21#8 0x07#8 0#28 x)
  | .vmulhiB32Imm x => some (encImm 0x21#8 0x08#8 0#28 x)
  | .vminI32Imm x => some (encImm 0x21#8 0x0E#8 0#28 x)
  | .vmaxI32Imm x => some (encImm 0x21#8 0x0F#8 0#28 x)
  | .vminB32Imm x => some (encImm 0x21#8 0x10#8 0#28 x)
  | .vmaxB32Imm x => some (encImm 0x21#8 0x11#8 0#28 x)
  | .vandB32Imm x => some (encImm 0x21#8 0x14#8 0#28 x)
  | .vorB32Imm x => some (encImm 0x21#8 0x15#8 0#28 x)
  | .vxorB32Imm x => some (encImm 0x21#8 0x16#8 0#28 x)
  | .vandnB32Imm x => some (encImm 0x21#8 0x17#8 0#28 x)
  | .vshlB32Imm x => some (encImm 0x21#8 0x19#8 0#28 x)
  | .vshrB32Imm x => some (encImm 0x21#8 0x1A#8 0#28 x)
  | .vshrI32Imm x => some (encImm 0x21#8 0x1B#8 0#28 x)
  | .vmovB32Imm x => some (encImm 0x21#8 0x1C#8 0#28 x)
  | .vcmpEqB32 x comb => some (encReg 0x22#8 0x00#8 (comb ++ 0#26) x)
  | .vcmpNeB32 x comb => some (encReg 0x22#8 0x01#8 (comb ++ 0#26) x)
  | .vcmpLtI32 x comb => some (encReg 0x22#8 0x02#8 (comb ++ 0#26) x)
  | .vcmpLeI32 x comb => some (encReg 0x22#8 0x03#8 (comb ++ 0#26) x)
  | .vcmpGtI32 x comb => some (encReg 0x22#8 0x04#8 (comb ++ 0#26) x)
  | .vcmpGeI32 x comb => some (encReg 0x22#8 0x05#8 (comb ++ 0#26) x)
  | .vcmpLtB32 x comb => some (encReg 0x22#8 0x06#8 (comb ++ 0#26) x)
  | .vcmpLeB32 x comb => some (encReg 0x22#8 0x07#8 (comb ++ 0#26) x)
  | .vcmpGtB32 x comb => some (encReg 0x22#8 0x08#8 (comb ++ 0#26) x)
  | .vcmpGeB32 x comb => some (encReg 0x22#8 0x09#8 (comb ++ 0#26) x)
  | .vaddF32 x => some (encReg 0x40#8 0x00#8 0#28 x)
  | .vsubF32 x => some (encReg 0x40#8 0x01#8 0#28 x)
  | .vmulF32 x => some (encReg 0x40#8 0x02#8 0#28 x)
  | .vfmaF32 x => some (encReg 0x40#8 0x04#8 0#28 x)
  | .vrndF32 x rms => some (encReg 0x40#8 0x05#8 (rms ++ 0#25) x)
  | .vldexpF32 x => some (encReg 0x40#8 0x06#8 0#28 x)
  | .vclassF32 x => some (encReg 0x40#8 0x07#8 0#28 x)
  | .vaddF32Imm x => some (encImm 0x47#8 0x00#8 0#28 x)
  | .vsubF32Imm x => some (encImm 0x47#8 0x01#8 0#28 x)
  | .vmulF32Imm x => some (encImm 0x47#8 0x02#8 0#28 x)
  | .vsubrF32 x => some (encImm 0x47#8 0x03#8 0#28 x)
  | .vfcmpEqF32 x comb => some (encReg 0x42#8 0x00#8 (comb ++ 0#26) x)
  | .vfcmpNeF32 x comb => some (encReg 0x42#8 0x01#8 (comb ++ 0#26) x)
  | .vfcmpLtF32 x comb => some (encReg 0x42#8 0x02#8 (comb ++ 0#26) x)
  | .vfcmpLeF32 x comb => some (encReg 0x42#8 0x03#8 (comb ++ 0#26) x)
  | .vfcmpGtF32 x comb => some (encReg 0x42#8 0x04#8 (comb ++ 0#26) x)
  | .vfcmpGeF32 x comb => some (encReg 0x42#8 0x05#8 (comb ++ 0#26) x)
  | .vfcmpUnF32 x comb => some (encReg 0x42#8 0x06#8 (comb ++ 0#26) x)
  | .vfcmpOrdF32 x comb => some (encReg 0x42#8 0x07#8 (comb ++ 0#26) x)
  | .vminF32 x => some (encReg 0x42#8 0x08#8 0#28 x)
  | .vmaxF32 x => some (encReg 0x42#8 0x09#8 0#28 x)
  | .ldG x sx => some (encMem 0x70#8 0x00#8 (0#11 ++ bit sx) x)
  | .stG x => some (encMem 0x71#8 0x00#8 0#12 x)
  | .atomAddI32 x sp => some (encMem 0x72#8 0x00#8 (spaceBits sp) x)
  | .atomAddB64 x sp => some (encMem 0x72#8 0x01#8 (spaceBits sp) x)
  | .atomMinI32 x sp => some (encMem 0x72#8 0x02#8 (spaceBits sp) x)
  | .atomMaxI32 x sp => some (encMem 0x72#8 0x03#8 (spaceBits sp) x)
  | .atomMinB32 x sp => some (encMem 0x72#8 0x04#8 (spaceBits sp) x)
  | .atomMaxB32 x sp => some (encMem 0x72#8 0x05#8 (spaceBits sp) x)
  | .atomAndB32 x sp => some (encMem 0x72#8 0x06#8 (spaceBits sp) x)
  | .atomOrB32 x sp => some (encMem 0x72#8 0x07#8 (spaceBits sp) x)
  | .atomXorB32 x sp => some (encMem 0x72#8 0x08#8 (spaceBits sp) x)
  | .atomExchB32 x sp => some (encMem 0x72#8 0x09#8 (spaceBits sp) x)
  | .atomExchB64 x sp => some (encMem 0x72#8 0x0A#8 (spaceBits sp) x)
  | .atomCasB32 x sp => some (encMem 0x72#8 0x0B#8 (spaceBits sp) x)
  | .atomCasB64 x sp => some (encMem 0x72#8 0x0C#8 (spaceBits sp) x)
  | .atomAddF32 x sp => some (encMem 0x72#8 0x0D#8 (spaceBits sp) x)
  | .atomIncB32 x sp => some (encMem 0x72#8 0x0E#8 (spaceBits sp) x)
  | .atomDecB32 x sp => some (encMem 0x72#8 0x0F#8 (spaceBits sp) x)
  | .joinEntryReadReturn _ _ => none
  | .barWaitProceed _ _ => none
  | .loadReturn _ _ => none
  | .sinkPacketAccept _ => none
  | .sinkPacketExecute _ => none
  | .sinkPacketLand _ => none
  | .copyJobAccept _ _ => none
  | .copyJobComplete _ _ => none
  | .followOnEnqueue _ => none
  | .matrixCommandExecute _ => none
  | .mxWindowEnd _ => none
  | .leaseExpiry _ => none
  | .registerUnitDrowsy _ _ _ => none
  | .trapEntry _ _ => none
  | .deferredTrapTake _ _ => none
  | .faultRecordPost _ => none
  | .fqPop _ _ => none
  | .ctxResume _ _ => none
  | .ctxKill _ _ => none
  | .dbgHalt _ _ _ => none
  | .dbgStep _ _ _ _ => none
  | .dbgGo _ _ _ => none
  | .dbgBkpt _ _ => none
  | .dbgRead _ _ _ _ => none
  | .dbgWrite _ _ _ _ _ => none
  | .queueCreate _ _ _ _ => none
  | .doorbellWrite _ _ => none
  | .packetAccept _ => none
  | .dependenceRead _ => none
  | .blockResident _ _ => none
  | .launchComplete _ => none
  | .queueDestroy _ _ => none
  | .timeSliceExpiry _ => none
  | .contextResume _ _ => none
  | .tlbInvalidate _ _ _ => none
  | .hostWrite _ _ _ => none
  | .hostAccessCompletion _ _ _ => none
  | .hostAccessTimeout _ => none
  | .fabricTimeout _ => none
  | .linkFlitRetry _ => none
  | .linkDown _ => none
  | .functionReady _ _ => none
  | .nearCommandStart _ => none
  | .nnop _ => none
  | .cgraCfg _ => none
  | .cgraRun _ => none
  | .nearStall _ => none
  | .ireduce _ => none
  | .bseq _ => none
  | .nrtSet _ _ => none
  | .nrtClear _ _ => none
  | .partCreate _ _ _ _ _ _ _ => none
  | .partGrow _ _ => none
  | .partShrink _ _ => none
  | .partDestroy _ => none
  | .capSet _ _ _ => none
  | .ctxBudget _ _ => none
  | .resourceRetire _ => none
  | .bucketRefill => none
  | .governorWindow _ => none
  | .ilimNAssert => none
  | .ilimNDeassert => none
  | .sheddingStep => none
  | .nvmeDataTransfer _ _ _ _ _ => none
  | .packageReset => none
  | .mailboxImage _ => none
  | .flashWrite _ => none
  | .hartStart _ _ _ => none
  | .attest _ _ => none
  | .contextCreate _ _ _ => none
  | .timeSliceSet _ _ => none
  | .storePerformed _ => none
  | .pageWalkComplete _ => none
  | .softError _ _ => none
  | .errorCounterClear _ _ => none
  | .remoteRequestArrive _ => none
  | .routeTableSet _ _ => none
  | .ethernetFrameReceive _ _ _ => none
  | .hostRead _ _ _ => none
  | .resEvictDone _ _ => none
  | .saddI32 x => some (encReg 0x01#8 0x00#8 0#28 x)
  | .ssubI32 x => some (encReg 0x01#8 0x01#8 0#28 x)
  | .smulI32 x => some (encReg 0x01#8 0x02#8 0#28 x)
  | .smulhiI32 x => some (encReg 0x01#8 0x03#8 0#28 x)
  | .smulhiB32 x => some (encReg 0x01#8 0x04#8 0#28 x)
  | .sandB32 x => some (encReg 0x01#8 0x05#8 0#28 x)
  | .sorB32 x => some (encReg 0x01#8 0x06#8 0#28 x)
  | .sxorB32 x => some (encReg 0x01#8 0x07#8 0#28 x)
  | .sandnB32 x => some (encReg 0x01#8 0x08#8 0#28 x)
  | .sshlB32 x => some (encReg 0x01#8 0x09#8 0#28 x)
  | .sshrB32 x => some (encReg 0x01#8 0x0A#8 0#28 x)
  | .sshrI32 x => some (encReg 0x01#8 0x0B#8 0#28 x)
  | .sminI32 x => some (encReg 0x01#8 0x0C#8 0#28 x)
  | .smaxI32 x => some (encReg 0x01#8 0x0D#8 0#28 x)
  | .sminB32 x => some (encReg 0x01#8 0x0E#8 0#28 x)
  | .smaxB32 x => some (encReg 0x01#8 0x0F#8 0#28 x)
  | .smovB32 x => some (encReg 0x01#8 0x10#8 0#28 x)
  | .saddB64 x => some (encReg 0x01#8 0x11#8 0#28 x)
  | .ssubB64 x => some (encReg 0x01#8 0x12#8 0#28 x)
  | .spopcB32 x => some (encReg 0x01#8 0x13#8 0#28 x)
  | .sclzB32 x => some (encReg 0x01#8 0x14#8 0#28 x)
  | .smadI32 x => some (encReg 0x01#8 0x15#8 0#28 x)
  | .saddI32Imm x => some (encImm 0x02#8 0x00#8 0#28 x)
  | .ssubI32Imm x => some (encImm 0x02#8 0x01#8 0#28 x)
  | .smulI32Imm x => some (encImm 0x02#8 0x02#8 0#28 x)
  | .smulhiI32Imm x => some (encImm 0x02#8 0x03#8 0#28 x)
  | .smulhiB32Imm x => some (encImm 0x02#8 0x04#8 0#28 x)
  | .sandB32Imm x => some (encImm 0x02#8 0x05#8 0#28 x)
  | .sorB32Imm x => some (encImm 0x02#8 0x06#8 0#28 x)
  | .sxorB32Imm x => some (encImm 0x02#8 0x07#8 0#28 x)
  | .sandnB32Imm x => some (encImm 0x02#8 0x08#8 0#28 x)
  | .sshlB32Imm x => some (encImm 0x02#8 0x09#8 0#28 x)
  | .sshrB32Imm x => some (encImm 0x02#8 0x0A#8 0#28 x)
  | .sshrI32Imm x => some (encImm 0x02#8 0x0B#8 0#28 x)
  | .sminI32Imm x => some (encImm 0x02#8 0x0C#8 0#28 x)
  | .smaxI32Imm x => some (encImm 0x02#8 0x0D#8 0#28 x)
  | .sminB32Imm x => some (encImm 0x02#8 0x0E#8 0#28 x)
  | .smaxB32Imm x => some (encImm 0x02#8 0x0F#8 0#28 x)
  | .smovB32Imm x => some (encImm 0x02#8 0x10#8 0#28 x)
  | .scmpEqB32 x => some (encReg 0x03#8 0x00#8 0#28 x)
  | .scmpNeB32 x => some (encReg 0x03#8 0x01#8 0#28 x)
  | .scmpLtI32 x => some (encReg 0x03#8 0x02#8 0#28 x)
  | .scmpLeI32 x => some (encReg 0x03#8 0x03#8 0#28 x)
  | .scmpGtI32 x => some (encReg 0x03#8 0x04#8 0#28 x)
  | .scmpGeI32 x => some (encReg 0x03#8 0x05#8 0#28 x)
  | .scmpLtB32 x => some (encReg 0x03#8 0x06#8 0#28 x)
  | .scmpLeB32 x => some (encReg 0x03#8 0x07#8 0#28 x)
  | .scmpGtB32 x => some (encReg 0x03#8 0x08#8 0#28 x)
  | .scmpGeB32 x => some (encReg 0x03#8 0x09#8 0#28 x)
  | .sselB32 x => some (encReg 0x03#8 0x10#8 0#28 x)
  | .bra x => some (encBr 0x05#8 0x00#8 x)
  | .braAny x => some (encBr 0x05#8 0x01#8 x)
  | .braAll x => some (encBr 0x05#8 0x02#8 x)
  | .braNz x => some (encBr 0x05#8 0x03#8 x)
  | .braZ x => some (encBr 0x05#8 0x04#8 x)
  | .brx x => some (encBr 0x05#8 0x05#8 x)
  | .call x => some (encBr 0x05#8 0x06#8 x)
  | .callx x => some (encBr 0x05#8 0x07#8 x)
  | .ret x => some (encBr 0x05#8 0x08#8 x)
  | .dbra x => some (encBr 0x06#8 0x00#8 x)
  | .join x => some (encBr 0x07#8 0x00#8 x)
  | .exit x => some (encBr 0x07#8 0x01#8 x)
  | .pset x => some (encReg 0x91#8 0x00#8 0#28 x)
  | .pget x => some (encReg 0x91#8 0x01#8 0#28 x)
  | .barArrive x bid => some (encEng 0xA0#8 0x00#8 (bid ++ 0#25) x)
  | .barWait x bid => some (encEng 0xA0#8 0x01#8 (bid ++ 0#25) x)
  | .barMeet x bid => some (encEng 0xA0#8 0x02#8 (bid ++ 0#25) x)
  | .csrr x => some (encSys 0xE0#8 0x00#8 x)
  | .csrw x => some (encSys 0xE0#8 0x01#8 x)
  | .trap x => some (encSys 0xE1#8 0x00#8 x)
  | .bkpt x => some (encSys 0xE1#8 0x01#8 x)
  | .vxtrB32 x => some (encReg 0x23#8 0x00#8 0#28 x)
  | .vxtrI32 x => some (encReg 0x23#8 0x01#8 0#28 x)
  | .vinsB32 x => some (encReg 0x23#8 0x02#8 0#28 x)
  | .vpopcB32 x => some (encReg 0x23#8 0x03#8 0#28 x)
  | .vclzB32 x => some (encReg 0x23#8 0x04#8 0#28 x)
  | .vctzB32 x => some (encReg 0x23#8 0x05#8 0#28 x)
  | .vbrevB32 x => some (encReg 0x23#8 0x06#8 0#28 x)
  | .vbselB8 x => some (encReg 0x23#8 0x07#8 0#28 x)
  | .vfunB32 x => some (encReg 0x23#8 0x08#8 0#28 x)
  | .vdivI32 x => some (encReg 0x24#8 0x00#8 0#28 x)
  | .vremI32 x => some (encReg 0x24#8 0x01#8 0#28 x)
  | .vdivB32 x => some (encReg 0x24#8 0x02#8 0#28 x)
  | .vremB32 x => some (encReg 0x24#8 0x03#8 0#28 x)
  | .vdivremI32 x => some (encReg 0x24#8 0x04#8 0#28 x)
  | .vdivremB32 x => some (encReg 0x24#8 0x05#8 0#28 x)
  | .vxlnPick x lx => some (encReg 0x25#8 0x00#8 (laneBits lx) x)
  | .vxlnLower x lx => some (encReg 0x25#8 0x01#8 (laneBits lx) x)
  | .vxlnUpper x lx => some (encReg 0x25#8 0x02#8 (laneBits lx) x)
  | .vxlnMirror x lx => some (encReg 0x25#8 0x03#8 (laneBits lx) x)
  | .vswapp x lx => some (encReg 0x25#8 0x04#8 (laneBits lx) x)
  | .vxlnFan x lx => some (encReg 0x25#8 0x05#8 (laneBits lx) x)
  | .vxlnTake x lx => some (encReg 0x25#8 0x06#8 (laneBits lx) x)
  | .vxlnPut x lx => some (encReg 0x25#8 0x07#8 (laneBits lx) x)
  | .vpollSome x => some (encReg 0x26#8 0x00#8 0#28 x)
  | .vpollEvery x => some (encReg 0x26#8 0x01#8 0#28 x)
  | .vpollMap x => some (encReg 0x26#8 0x02#8 0#28 x)
  | .vpollSame x => some (encReg 0x26#8 0x03#8 0#28 x)
  | .vpollPeers x => some (encReg 0x26#8 0x04#8 0#28 x)
  | .vredAddI32 x => some (encReg 0x26#8 0x08#8 0#28 x)
  | .vredMinI32 x => some (encReg 0x26#8 0x09#8 0#28 x)
  | .vredMaxI32 x => some (encReg 0x26#8 0x0A#8 0#28 x)
  | .vredMinB32 x => some (encReg 0x26#8 0x0B#8 0#28 x)
  | .vredMaxB32 x => some (encReg 0x26#8 0x0C#8 0#28 x)
  | .vredAndB32 x => some (encReg 0x26#8 0x0D#8 0#28 x)
  | .vredOrB32 x => some (encReg 0x26#8 0x0E#8 0#28 x)
  | .vredXorB32 x => some (encReg 0x26#8 0x0F#8 0#28 x)
  | .vredAddF32 x => some (encReg 0x26#8 0x10#8 0#28 x)
  | .vredMinF32 x => some (encReg 0x26#8 0x11#8 0#28 x)
  | .vredMaxF32 x => some (encReg 0x26#8 0x12#8 0#28 x)
  | .vscanAddI32 x => some (encReg 0x26#8 0x18#8 0#28 x)
  | .vaddF16x2 x bf => some (encReg 0x41#8 0x00#8 (bit bf ++ 0#27) x)
  | .vsubF16x2 x bf => some (encReg 0x41#8 0x01#8 (bit bf ++ 0#27) x)
  | .vmulF16x2 x bf => some (encReg 0x41#8 0x02#8 (bit bf ++ 0#27) x)
  | .vfmaF16x2 x bf => some (encReg 0x41#8 0x04#8 (bit bf ++ 0#27) x)
  | .vminF16x2 x bf => some (encReg 0x41#8 0x05#8 (bit bf ++ 0#27) x)
  | .vmaxF16x2 x bf => some (encReg 0x41#8 0x06#8 (bit bf ++ 0#27) x)
  | .vdot2F32F16x2 x bf => some (encReg 0x41#8 0x08#8 (bit bf ++ 0#27) x)
  | .vfdiv x => some (encReg 0x43#8 0x00#8 0#28 x)
  | .vfsqrt x => some (encReg 0x43#8 0x01#8 0#28 x)
  | .vsinr x => some (encReg 0x44#8 0x00#8 0#28 x)
  | .vcosr x => some (encReg 0x44#8 0x01#8 0#28 x)
  | .vsinpi x => some (encReg 0x44#8 0x02#8 0#28 x)
  | .vcospi x => some (encReg 0x44#8 0x03#8 0#28 x)
  | .vexp2 x => some (encReg 0x44#8 0x04#8 0#28 x)
  | .vlog2 x => some (encReg 0x44#8 0x05#8 0#28 x)
  | .vrcp x => some (encReg 0x44#8 0x06#8 0#28 x)
  | .vrsq x => some (encReg 0x44#8 0x07#8 0#28 x)
  | .vcvtF32I32 x rms => some (encReg 0x45#8 0x00#8 (rms ++ 0#25) x)
  | .vcvtF32B32 x rms => some (encReg 0x45#8 0x01#8 (rms ++ 0#25) x)
  | .vcvtI32F32 x rms => some (encReg 0x45#8 0x02#8 (rms ++ 0#25) x)
  | .vcvtB32F32 x rms => some (encReg 0x45#8 0x03#8 (rms ++ 0#25) x)
  | .vcvtF32F16 x hi => some (encReg 0x45#8 0x04#8 (0#6 ++ bit hi ++ 0#21) x)
  | .vcvtF32Bf16 x hi => some (encReg 0x45#8 0x05#8 (0#6 ++ bit hi ++ 0#21) x)
  | .vcvtF16x2F32 x rms => some (encReg 0x45#8 0x06#8 (rms ++ 0#25) x)
  | .vcvtBf16x2F32 x rms => some (encReg 0x45#8 0x07#8 (rms ++ 0#25) x)
  | .vcvtFmtF32 x ex => some (encReg 0x45#8 0x08#8 (elemBits ex) x)
  | .vcvtF32Fmt x ex => some (encReg 0x45#8 0x09#8 (elemBits ex) x)
  | .vcvtF32E8m0 x => some (encReg 0x45#8 0x0A#8 0#28 x)
  | .vhad32 x => some (encReg 0x46#8 0x00#8 0#28 x)
  | .vhad32N x => some (encReg 0x46#8 0x01#8 0#28 x)
  | .vquant x qx => some (encReg 0x46#8 0x02#8 (quantBits qx) x)
  | .ldS x sx => some (encMem 0x73#8 0x00#8 (0#11 ++ bit sx) x)
  | .stS x => some (encMem 0x73#8 0x01#8 0#12 x)
  | .ldRs x sx => some (encMem 0x73#8 0x02#8 (0#11 ++ bit sx) x)
  | .stRs x => some (encMem 0x73#8 0x03#8 0#12 x)
  | .ldC x sx => some (encMem 0x74#8 0x00#8 (0#11 ++ bit sx) x)
  | .ldRo x sx => some (encMem 0x74#8 0x01#8 (0#11 ++ bit sx) x)
  | .fenceAcq x => some (encMem 0x75#8 0x00#8 0#12 x)
  | .fenceRel x => some (encMem 0x75#8 0x00#8 0#12 x)
  | .fenceAr x => some (encMem 0x75#8 0x00#8 0#12 x)
  | .fenceRo x => some (encMem 0x75#8 0x01#8 0#12 x)
  | .pfG x level => some (encMem 0x76#8 0x00#8 (0#10 ++ level) x)
  | .resSet x h prio => some (encMem 0x77#8 0x00#8 (h ++ prio ++ 0#4) x)
  | .resDemote x h => some (encMem 0x77#8 0x01#8 (h ++ 0#6) x)
  | .resEvict x h => some (encMem 0x77#8 0x02#8 (h ++ 0#6) x)
  | .sink x => some (encSink 0x90#8 0x00#8 x)
  | .fbp x mask => some (encImm 0x92#8 0x00#8 (mask ++ 0#20) x)
  | .xset x k => some (encReg 0x93#8 0x00#8 (k ++ 0#26) x)
  | .xidx x k => some (encReg 0x93#8 0x01#8 (k ++ 0#26) x)
  | .xadd x k => some (encReg 0x93#8 0x02#8 (k ++ 0#26) x)
  | .xget x k => some (encReg 0x93#8 0x03#8 (k ++ 0#26) x)
  | .launch x => some (encEng 0xA1#8 0x00#8 0#29 x)
  | .nqpost x => some (encEng 0xA2#8 0x00#8 0#29 x)
  | .nqpoll x => some (encEng 0xA2#8 0x01#8 0#29 x)
  | .tdef x pitch owner => some (encEng 0xB0#8 0x00#8 (0#14 ++ owner ++ pitch) x)
  | .trel x => some (encEng 0xB0#8 0x01#8 0#29 x)
  | .trelPub x => some (encEng 0xB0#8 0x01#8 0#29 x)
  | .tstate x => some (encEng 0xB0#8 0x02#8 0#29 x)
  | .cpy x => some (encEng 0xB1#8 0x00#8 0#29 x)
  | .cpySt x => some (encEng 0xB1#8 0x01#8 0#29 x)
  | .cpyGath x => some (encEng 0xB1#8 0x02#8 0#29 x)
  | .cpyScat x => some (encEng 0xB1#8 0x03#8 0#29 x)
  | .cpyMx x => some (encEng 0xB1#8 0x04#8 0#29 x)
  | .mldw x => some (encEng 0xB2#8 0x00#8 0#29 x)
  | .mma x => some (encEng 0xB2#8 0x01#8 0#29 x)
  | .accz x => some (encEng 0xB3#8 0x00#8 0#29 x)
  | .accrd x ax => some (encEng 0xB3#8 0x01#8 (accrdBits ax) x)
  | .accrdReg x ax => some (encEng 0xB3#8 0x01#8 (accrdBits ax) x)
  | .accst x => some (encEng 0xB3#8 0x02#8 0#29 x)
  | .accstW x => some (encEng 0xB3#8 0x02#8 0#29 x)
  | .accprom x => some (encEng 0xB3#8 0x03#8 0#29 x)
  | .lease x => some (encSys 0xE2#8 0x00#8 x)

end Sys2Proof
end

