-- ==== Sys2Proof/Machine/Store.lean ====
section
/-! DEFINITION. Sparse stores and tables, the plain data every part of the state is made of. A store lists (key, value)
pairs with keys strictly rising and no value equal to what an unlisted key reads as (zero), so that equal stores are equal
lists. -/

namespace Sys2Proof.Machine

/-- A store of `n`-bit values by key; an unlisted key reads zero. -/
abbrev Sparse (n : Nat) := List (Nat × BitVec n)

/-- The value at a key. -/
def sget {n : Nat} : Sparse n → Nat → BitVec n
  | [], _ => 0#n
  | (a, b) :: rest, k => if a = k then b else sget rest k

/-- Put a value at a key, keeping the canonical form: keys rising, zero never listed. -/
def sput {n : Nat} : Sparse n → Nat → BitVec n → Sparse n
  | [], k, x => if x = 0#n then [] else [(k, x)]
  | (a, b) :: rest, k, x =>
    if k < a then (if x = 0#n then (a, b) :: rest else (k, x) :: (a, b) :: rest)
    else if k = a then (if x = 0#n then rest else (k, x) :: rest)
    else (a, b) :: sput rest k x

/-- The canonical form from a lower bound on. -/
def swfFrom {n : Nat} : Nat → Sparse n → Bool
  | _, [] => true
  | lo, (a, b) :: rest => decide (lo ≤ a) && b != 0#n && swfFrom (a + 1) rest

/-- The canonical form. -/
def swf {n : Nat} (m : Sparse n) : Bool := swfFrom 0 m

/-- Put `f k` at every key of a list. -/
def sputMany {n : Nat} (m : Sparse n) (f : Nat → BitVec n) : List Nat → Sparse n
  | [] => m
  | k :: ks => sputMany (sput m k (f k)) f ks

/-- The values at `n` keys from `k` on of a store whose keys are all `k` or above. -/
def sexpand {w : Nat} : Nat → Nat → Sparse w → List (BitVec w)
  | 0, _, _ => []
  | n + 1, k, [] => 0#w :: sexpand n (k + 1) []
  | n + 1, k, (a, b) :: rest => if a = k then b :: sexpand n (k + 1) rest else 0#w :: sexpand n (k + 1) ((a, b) :: rest)

/-- The values at `n` keys from `lo` on. -/
def srange {w : Nat} (m : Sparse w) (lo n : Nat) : List (BitVec w) := sexpand n lo (m.dropWhile fun p => p.1 < lo)

/-- The entries of a list of values at keys from `k` on, less the zeros. -/
def slist {w : Nat} : Nat → List (BitVec w) → Sparse w
  | _, [] => []
  | k, b :: bs => if b = 0#w then slist (k + 1) bs else (k, b) :: slist (k + 1) bs

/-- Put a list of values at keys from `lo` on. -/
def sputRange {w : Nat} (m : Sparse w) (lo : Nat) (bs : List (BitVec w)) : Sparse w :=
  (m.takeWhile fun p => p.1 < lo) ++ slist lo bs ++ m.dropWhile fun p => p.1 < lo + bs.length

/-- Drop every key of a range [lo, hi). -/
def sclear {n : Nat} (m : Sparse n) (lo hi : Nat) : Sparse n :=
  m.filter fun p => p.1 < lo || hi ≤ p.1

/-- A map: one entry a key. -/
abbrev Map (κ α : Type) := List (κ × α)

/-- A table: a map by number. -/
abbrev Table (α : Type) := Map Nat α

/-- The entry of a key. -/
def tget? {κ α : Type} [DecidableEq κ] : Map κ α → κ → Option α
  | [], _ => none
  | (a, x) :: rest, k => if a = k then some x else tget? rest k

/-- Set the entry of a key: replaced in place where there is one, appended otherwise. -/
def tput {κ α : Type} [DecidableEq κ] : Map κ α → κ → α → Map κ α
  | [], k, x => [(k, x)]
  | (a, y) :: rest, k, x => if a = k then (k, x) :: rest else (a, y) :: tput rest k x

/-- Remove the entry of a key. -/
def tdel {κ α : Type} [DecidableEq κ] : Map κ α → κ → Map κ α
  | [], _ => []
  | (a, y) :: rest, k => if a = k then rest else (a, y) :: tdel rest k

/-- Change the entry of a key, where there is one. -/
def tmod {κ α : Type} [DecidableEq κ] : Map κ α → κ → (α → α) → Map κ α
  | [], _, _ => []
  | (a, y) :: rest, k, f => if a = k then (a, f y) :: rest else (a, y) :: tmod rest k f

/-- Change every entry. -/
def tmap {κ α : Type} (t : Map κ α) (f : κ → α → α) : Map κ α := t.map fun p => (p.1, f p.1 p.2)

/-- The entries of a map. -/
def tvals {κ α : Type} (t : Map κ α) : List α := t.map Prod.snd

/-- A number above every key of a table. DESIGN CHOICE (log 64), safe. -/
def tfresh {α : Type} (t : Table α) : Nat := t.foldl (fun n p => max n (p.1 + 1)) 0

/-- The bit of lane `L` in a mask. -/
abbrev laneIn (m : Lanes) (L : Lane) : Bool := m.getLsbD L

/-- The lanes of a mask, ascending. -/
def lanesOf (m : Lanes) : List Lane := allLanes.filter fun L => laneIn m L

/-- The mask of the lanes that a condition names. -/
def maskWhere (p : Lane → Bool) : Lanes :=
  (BitVec.ofBoolListLE (allLanes.map p)).setWidth 32

/-- One lane as a mask. -/
def laneBit (L : Lane) : Lanes := BitVec.ofNat 32 (2 ^ L)

/-- Memory: (address, byte) pairs in canonical form. -/
abbrev Memory := List Host.Cell

/-- The canonical form of a memory. -/
def Memory.wf (m : Memory) : Bool := swf (n := 8) m

/-- One byte. DESIGN CHOICE (log 2), unsafe. -/
def readByte (m : Memory) (a : Nat) : Byte := sget (n := 8) m a

/-- Store one byte. -/
def writeByte (m : Memory) (a : Nat) (b : Byte) : Memory := sput (n := 8) m a b

/-- `n` bytes from an address, lowest first. -/
def readBytes (m : Memory) (a : Nat) : Nat → List Byte
  | 0 => []
  | n + 1 => readByte m a :: readBytes m (a + 1) n

/-- Store bytes from an address upward. -/
def writeBytes (m : Memory) (a : Nat) : List Byte → Memory
  | [] => m
  | b :: bs => writeBytes (writeByte m a b) (a + 1) bs

/-- A little-endian value of `n` bytes (R3). -/
def readLe (m : Memory) (a n : Nat) : Nat := leNat (readBytes m a n)

end Sys2Proof.Machine
end

