-- ==== Sys2Proof/Machine/State.lean ====
section
/-! DEFINITION. The state of one package as plain data, the faults and refusals, and the state after reset. -/

namespace Sys2Proof.Machine

/-- Reasons the machine stops. DESIGN CHOICE (log 60), safe. -/
inductive Fault where
  /-- raised by no meaning: every stop the spec describes is a trap, a fault record, a kill or a wait, which are next states
  (kept so that the type has a name for a meaning to use); safe -/
  | machineCheck
  deriving DecidableEq, Repr

/-- Reasons a word has no meaning. -/
inductive Refusal where
  /-- raised by an arm of the dispatcher whose instruction has no meaning yet; safe -/
  | notModelled (mnemonic : String)
  deriving DecidableEq, Repr

/-! ## Records -/

/-- What raised a record (R267, field SRC). -/
inductive Src where
  | instr | fetch | sink | copy | matrix | near | stack | sched
  deriving DecidableEq, Repr

/-- A trap or fault record (R267), its fields. -/
structure Record where
  cause : Cause
  src : Src
  slot : SlotId
  pcur : BitVec 2
  level : BitVec 4
  park : Bool
  whole : Bool
  ctx : Nat
  offset : Offset
  mask : Lanes
  va : Nat
  info : Word
  core : Nat
  group : Nat
  gtag : BitVec 6
  seq : Word
  time : DWord
  blkX : Word
  blkY : Word
  blkZ : Word
  deriving DecidableEq, Repr

/-- What a record holds until a resumption command (R272). -/
inductive Held where
  | none
  | parked (gid : Nat) (slot : SlotId)
  | job (core : Nat) (k : Nat)
  deriving DecidableEq, Repr

/-- A record in a fault queue. -/
structure FqEntry where
  record : Record
  held : Held
  deriving DecidableEq, Repr

/-! ## Groups -/

/-- The checkpoint of a slot (R196). -/
structure Checkpoint where
  fbp : Offset
  recipe : Option Offset
  base : Nat
  mask : BitVec 8
  lanes : Lanes
  pjoin : Option Offset
  regs : Sparse 32
  s : Sparse 32
  m : Sparse 32
  xbase : Sparse 32
  xlimit : Sparse 32
  xindex : Sparse 32
  planes : Sparse 2
  count : Nat
  /-- the group has split since (R199) -/
  preSplit : Bool
  deriving DecidableEq, Repr

/-- A deferred cause (R264 class D), waiting for the slot's next instruction. -/
structure Deferred where
  cause : Cause
  mask : Lanes
  src : Src
  offset : Offset
  va : Nat
  /-- number in its block and generation tag of the group that started the work, for its record (R267) -/
  num : Nat
  gtag : BitVec 6
  /-- when the engine raised it (R267) -/
  time : DWord
  deriving DecidableEq, Repr

/-- A job card with its instruction (R209, R211). -/
structure CopyJob where
  gid : Nat
  slot : SlotId
  block : Nat
  /-- offset of the issuing instruction -/
  offset : Offset
  /-- number in its block and generation tag of the group at issue (R45) -/
  gnum : Nat
  gtag : BitVec 6
  /-- function of major 0xB1 -/
  fn : Nat
  addr : Nat
  tile : Nat
  stride : Nat
  rows : Nat
  rowb : Nat
  fmode : Nat
  flog : Nat
  idx : Nat
  /-- the format block, ACC and FLAGS of a CPY.MX follow-on (R212) -/
  fmt : BitVec 128
  acc : BitVec 2
  flags : BitVec 4
  /-- charged whole at its acceptance (R214) -/
  long : Bool
  /-- first row not yet moved, and how many of its requests are charged already (R285) -/
  row : Nat
  paid : Nat
  /-- the job stopped at that row on a fault (R213) -/
  stopped : Bool
  deriving DecidableEq, Repr

/-- A command of the matrix queue (R216): what its instruction read at issue. -/
inductive MxOp where
  | mldw (tile : Nat) (rel : Bool) (fmt : BitVec 128)
  | mma (acc : BitVec 2) (tile : Nat) (swap zero rel : Bool) (fmt : BitVec 128)
  | accz (acc : BitVec 2) (clr free : Bool)
  | accrd (acc : BitVec 2) (tile : Nat) (ofmt : BitVec 4) (sat : Bool) (row0 nrows : Nat)
  | accrdReg (acc : BitVec 2) (d : Nat) (lanes : Lanes) (ofmt : BitVec 4) (sat : Bool) (row0 : Nat)
  | accst (acc : BitVec 2) (d : Nat)
  | accstW (acc : BitVec 2) (value : BitVec 5)
  | accprom (acc : BitVec 2)
  deriving DecidableEq, Repr

/-- What a matrix or tile instruction that waits has read (R310): its command, or the tile that a TREL or a TREL.PUB names. -/
inductive EngWait where
  | mx (op : MxOp)
  | tile (t : Nat) (pub : Bool)
  deriving DecidableEq, Repr

/-- A loaded value that a lane has received while other lanes of its pass are outstanding: its entry and words. -/
structure Got where
  lane : Lane
  entry : Option Nat
  words : List Word
  deriving DecidableEq, Repr

/-- A slot of a group (R12), with the state R196, R197, R268 and the waits of R15, R68 and R73 add. -/
structure Slot where
  live : Bool
  offset : Offset
  mask : Lanes
  pjoin : Option Offset
  pcur : BitVec 2
  parked : Bool
  /-- it was parked; says which slot is behind while the group is PARKED (R21) -/
  wasParked : Bool
  /-- the slot stopped whole at its instruction until a resumption (R20, R110, R14) -/
  stopped : Bool
  inTrap : Bool
  crossed : Bool
  /-- waits at a JOIN at the split join (R15) -/
  atJoin : Bool
  /-- waits for a stack entry's read (R68) -/
  joinRead : Bool
  /-- the token a BAR.MEET keeps while it waits (R73) -/
  meet : Option Word
  /-- the UNI bit of the instruction that the slot waits in (R18) -/
  waitUni : Bool
  /-- the job of a CPY instruction that waits to be accepted (R213) -/
  cpy : Option CopyJob
  /-- what a matrix or tile instruction that waits has read (R310) -/
  eng : Option EngWait
  /-- requests of the instruction at hand that are charged already, by their keys (R285) -/
  paid : List Nat
  /-- lanes of the pass at hand whose access is complete while others are not (R20, R125) -/
  doneL : Lanes
  /-- lanes of the pass at hand that are performed only after the outstanding ones (R20, R129), and the values received so far -/
  left : Lanes
  got : List Got
  /-- halted before a BKPT (R78) -/
  atBkpt : Bool
  /-- for a SINK header by its offset, issued in the trap routine or not, lanes whose packets have landed while others have not; several
  entries where it was interrupted by the trap routine or fused (R179) -/
  landed : List (Bool × Offset × Lanes)
  /-- the most recent live entry is held on chip (R68) -/
  chip : Bool
  /-- returns still outstanding, by number (the slot's scoreboard) -/
  pending : List Nat
  deferred : List Deferred
  /-- a trap raised while the other slot is in its routine (R266): its record -/
  trap : Option Record
  ck : Checkpoint
  deriving DecidableEq, Repr

/-- Fusion kind (R12). -/
inductive Fusion where
  | fused | split | parked
  deriving DecidableEq, Repr

/-- A divergence stack entry (R14). -/
structure StackEntry where
  slot : SlotId
  phase : Bool
  outer : Option Offset
  dead : Bool
  join : Offset
  resume : Offset
  mask : Lanes
  deriving DecidableEq, Repr

/-- A group (R10, R12, R41, R51). Register files are stores by number; a per-lane file is keyed by entry × 32 + lane. -/
structure Group where
  ctx : Nat
  launch : Nat
  block : Nat
  /-- number within the block -/
  num : Nat
  /-- package core index (R8) -/
  core : Nat
  port : Nat
  /-- first entry of the allocation in the port's register file, and its size (R44) -/
  base : Nat
  alloc : Nat
  annexBase : Nat
  annexAlloc : Nat
  gtag : BitVec 6
  /-- declared stage, where the launch has stages (R189) -/
  stage : Option (BitVec 2)
  v : Sparse 32
  annex : Sparse 32
  s : Sparse 32
  m : Sparse 32
  xbase : Sparse 32
  xlimit : Sparse 32
  xindex : Sparse 32
  planes : Sparse 2
  laneFlags : Sparse 32
  landing : Sparse 4
  trapEn : BitVec 8
  fpMode : BitVec 2
  a : Slot
  b : Slot
  splitJoin : Option Offset
  outerJoin : Option Offset
  fusion : Fusion
  /-- entries on the divergence stack, the oldest first; the stack pointer is 16 bytes an entry (R14) -/
  stack : List StackEntry
  /-- lanes that have not exited (R16) -/
  alive : Lanes
  /-- the debugger holds the group (R273) -/
  halted : Bool
  /-- the slot that may issue once while it is held (DBG.STEP) -/
  step : Option SlotId
  deriving DecidableEq, Repr

/-- An instruction that a slot has issued and that is not complete: a SINK header whose packets are outstanding, or a memory instruction
in the slot's LSU queue (R177). -/
structure Issued where
  /-- its offset, and where the slot goes on after it -/
  off : Offset
  next : Offset
  /-- the register entries it writes: what reads or writes one of them waits (R41, R177) -/
  dests : List Nat
  sink : Bool
  /-- an FBP has issued between it and the next one of the queue (R180) -/
  fbp : Bool
  deriving DecidableEq, Repr

/-- What a slot has issued beyond a SINK header (R125, R177). The group itself stands at `head`, the oldest instruction that is not
complete, as R125's checkpoint has it; `queue` holds the later ones with the group as each found it, and `tip` the group as the
youngest instruction has left it. -/
structure Ahead where
  sel : SlotId
  head : Issued
  queue : List (Issued × Group)
  tip : Group
  deriving DecidableEq, Repr

/-! ## Tiles, copy engine, matrix unit -/

/-- A tile's state (R204). -/
inductive TileState where
  | empty | filling | ready | draining
  deriving DecidableEq, Repr

/-- A tile-table entry (R204) and the jobs that pin it (R206). -/
structure Tile where
  err : Bool
  defd : Bool
  owner : BitVec 3
  phase : Bool
  state : TileState
  pitch : Nat
  size : Nat
  base : Nat
  pins : Nat
  /-- a transition to EMPTY waits for the pins (R206) -/
  relPending : Bool
  deriving DecidableEq, Repr

/-- A block (R10). -/
structure Block where
  ctx : Nat
  launch : Nat
  /-- dispatch number (R188) -/
  n : Nat
  x : Nat
  y : Nat
  z : Nat
  rank : Nat
  /-- dispatch number of its gang's first block -/
  gang : Nat
  recIdx : Nat
  core : Nat
  groups : List Nat
  scratch : Sparse 8
  /-- poisoned 64-byte sectors of the scratchpad (R103) -/
  scratchPoison : List Nat
  tiles : Table Tile
  /-- accumulators written since assignment or save (R200) -/
  accDirty : BitVec 4
  deriving DecidableEq, Repr

/-! ## Barriers -/

/-- The owning unit of a barrier (R70). -/
inductive BarOwner where
  | block (b : Nat)
  | quad (launch gang quad : Nat)
  | gang (launch gang : Nat)
  | launch (l : Nat)
  | pod (l : Nat)
  deriving DecidableEq, Repr

/-- A barrier: generation and, for each group, the lanes marked arrived (R72). -/
structure Bar where
  gen : BitVec 24
  marks : Table Lanes
  deriving DecidableEq, Repr

/-! ## Launches, queues, contexts -/

/-- Where a launch came from (R182, R192). -/
inductive Source where
  | queue (q : Nat)
  | device
  deriving DecidableEq, Repr

/-- How far a launch has come. -/
inductive LaunchState where
  | waiting | running | completed
  deriving DecidableEq, Repr

/-- Results of a sunk header that completed at a pre-emption (R180): whether the resumption point lies after the header, its live-outs and
log register, and its lanes. -/
structure SunkRes where
  back : Bool
  out0 : Option Nat
  out1 : Option Nat
  log : Option Nat
  lanes : Lanes
  deriving DecidableEq, Repr

/-- What a slot keeps across pre-emption beside its save-area state: the device's own part of the record (R200). -/
structure SavedSlot where
  inTrap : Bool
  meet : Option Word
  waitUni : Bool
  deferred : List Deferred
  stopped : Bool
  /-- it was parked, which says which slot of a PARKED group is behind (R21) -/
  wasParked : Bool
  trap : Option Record
  paid : List Nat
  doneL : Lanes
  got : List Got
  landed : List (Bool × Offset × Lanes)
  preSplit : Bool
  sunk : Option SunkRes
  deriving DecidableEq, Repr

/-- A group across pre-emption: its number in the model, its number in its block, its stack entries, and its slots. -/
structure SavedGroup where
  gid : Nat
  num : Nat
  alive : Lanes
  stack : List StackEntry
  /-- LANDING_LAST, with the codes of the packets that completed (R180) -/
  landing : Sparse 4
  a : SavedSlot
  b : SavedSlot
  deriving DecidableEq, Repr

/-- A block saved at pre-emption (R200): dispatch number, record index, number in the model, its quad then, whether it held the
matrix unit, the poisoned sectors of its scratchpad image, and the ranges of the record that its check word covers. -/
structure SavedBlock where
  n : Nat
  recIdx : Nat
  block : Nat
  quad : Nat
  unit : Bool
  poison : List Nat
  spans : List (Nat × Nat)
  groups : List SavedGroup
  deriving DecidableEq, Repr

/-- An accepted launch: its packet (R184) and its progress. -/
structure Launch where
  pkt : BitVec 1024
  src : Source
  /-- position in its queue's order of acceptance -/
  order : Nat
  state : LaunchState
  depOk : Bool
  preload : List Word
  /-- blocks made resident so far, and blocks ended (R188) -/
  started : Nat
  ended : Nat
  /-- status and cause the completion record will carry (R186) -/
  status : Nat
  cause : Nat
  detail : Nat
  /-- blocks saved at pre-emption (R200) -/
  saved : List SavedBlock
  deriving DecidableEq, Repr

/-- Queue state (R183). -/
inductive QState where
  | active | error | destroyed
  deriving DecidableEq, Repr

/-- A queue (R182, R183). -/
structure Queue where
  ctx : Nat
  base : Nat
  log2n : Nat
  status : Nat
  wrptr : Nat
  rdptr : Nat
  state : QState
  cause : Nat
  fva : Nat
  disc : Bool
  destroying : Bool
  /-- its status record is still to be written (R183) -/
  dirty : Bool
  deriving DecidableEq, Repr

/-- A token bucket (R283). -/
structure Bucket where
  rate : Nat
  depth : Nat
  balance : Int
  deriving DecidableEq, Repr

/-- A residency handle's binding (R111). -/
structure Handle where
  base : Nat
  size : Nat
  prio : Nat
  demoted : Bool
  /-- the EVICT of the handle waits for these lines (physical) to leave L2 (R112) -/
  evicting : Option (List Nat)
  deriving DecidableEq, Repr

/-- A TLB entry: a valid leaf tagged with its context (R108). -/
structure TlbEntry where
  ctx : Nat
  vpage : Nat
  log2 : Nat
  leaf : DWord
  deriving DecidableEq, Repr

/-! ## Engines of a core -/

/-- A matrix command with its issuer; `ret` is the number of the return its slot waits for. -/
structure MxCmd where
  /-- number in the order of acceptance -/
  num : Nat
  gid : Nat
  slot : SlotId
  block : Nat
  offset : Offset
  gnum : Nat
  gtag : BitVec 6
  op : MxOp
  ret : Option Nat
  deriving DecidableEq, Repr

/-- A weight plane (R221): EMPTYPLANE, LOSTPLANE or loaded; weight codes by k × 128 + n, scales by block × 128 + n. -/
inductive PlaneMark where
  | empty | lost | loaded
  deriving DecidableEq, Repr

structure WPlane where
  mark : PlaneMark
  fmt : Nat
  k32 : Nat
  w : Sparse 16
  scales : Sparse 8
  deriving DecidableEq, Repr

/-- The format key of pending partials: AFMT, WFMT, PROM, SATM (R223). -/
abbrev FmtKey := Nat × Nat × Nat × Bool

/-- An accumulator tile (R223, R226): words and partials by i × 128 + j. A partial is listed when it is not empty: a 26-bit
code, or for INT32 pairs an integer. -/
structure Acc where
  words : Sparse 32
  part : List (Nat × Int)
  pcnt : Nat
  pend : Option FmtKey
  itype : Bool
  status : BitVec 5
  deriving DecidableEq, Repr

/-- A copy of a 64-byte sector in a core: its bytes, its replacement priority (R99: 0 lowest, 1 normal, 2 highest), and whether
it is poisoned (R103). -/
structure Copy where
  bytes : List Byte
  prio : Nat
  poison : Bool
  deriving DecidableEq, Repr

/-- A core: its caches, copy engine, matrix unit and counters. -/
structure Core where
  /-- L1: physical sector number and its copy (R99), the sector filled first before the others -/
  l1 : Map Nat Copy
  /-- constant cache and read-only cache: launch and sector, and its copy (R102, R139) -/
  cc : Map (Nat × Nat) Copy
  ro : Map (Nat × Nat) Copy
  /-- its TLB, the entry filled first before the others (R108) -/
  tlb : List TlbEntry
  /-- D cell lent as annex to its A cell (R24) -/
  lent : Bool
  staleReturn : Word
  mxCadence : BitVec 5
  mxToggle : Word
  mxZeros : Word
  /-- running counts of the window, rows entered in it, and the last row's codes (R231) -/
  togCount : Nat
  zeroCount : Nat
  rowCount : Nat
  /-- rows entered in the last complete window -/
  rowsLast : Nat
  lastRow : Sparse 16
  copyQ : Table CopyJob
  /-- holder of the matrix unit (R215) -/
  mxOwner : Option Nat
  active : WPlane
  shadow : WPlane
  accs : Table Acc
  mxQ : List MxCmd
  /-- follow-ons whose tile is READY and that wait for room in the matrix queue (R212) -/
  followQ : List MxCmd
  /-- current generation tag by port × 512 + first entry (R45) -/
  tags : Sparse 6
  /-- drowsy power units of the register files: port × 16 + unit (R50) -/
  drowsy : List Nat
  /-- entries of its register files that a debugger wrote outside every allocation: (port × 512 + entry) × 32 + lane (R273) -/
  spare : Sparse 32
  errC : Word
  errU : Word
  deriving DecidableEq, Repr

/-! ## Returns and stores in flight -/

/-- One lane of an access outside the core: its physical address, and the first register entry its return goes to (R46), if
any. -/
structure LaneRet where
  lane : Lane
  va : Nat
  pa : Nat
  entry : Option Nat
  deriving DecidableEq, Repr

/-- What a request asks: a load, a store of each lane's bytes, or an atomic of each lane's operands (R114, R115, R118). -/
inductive ReqKind where
  | load (sx : Bool)
  | store (data : List (List Byte))
  | atom (fn : Nat) (ops : List (DWord × DWord))
  deriving DecidableEq, Repr

/-- A request of the issuing slot whose response is outstanding, with the tag of its allocation at issue (R45). The slot stays
at its instruction until the response has arrived. -/
structure Out where
  gid : Nat
  core : Nat
  tagKey : Nat
  gtag : BitVec 6
  /-- the UNI bit of the instruction's slot -/
  uni : Bool
  size : Size
  kind : ReqKind
  lanes : List LaneRet
  /-- the request goes to the host window -/
  host : Bool
  /-- of a lane on an SO page: the lanes of SO pages above it that were left at its issue (R124, R129) -/
  above : Lanes
  /-- the sectors read stay in L1, with this priority (R99) -/
  fill : Option Nat
  /-- scope of the acquire that the access is, if it is one (R102) -/
  acquire : Option Scope
  deriving DecidableEq, Repr

/-- A store that has retired at translation and is not yet performed (R123, STORE_PERFORMED). -/
structure PStore where
  gid : Nat
  slot : SlotId
  /-- the core whose group stored it, or none: the device itself, whose store its home slice holds (R241) -/
  core : Option Nat
  uo : Bool
  writes : List (Nat × List Byte)
  deriving DecidableEq, Repr

/-- A page walk of an access that waits for it (R105); when it has ended the slot's instruction goes on. -/
structure Walk where
  ctx : Nat
  gid : Nat
  slot : SlotId
  va : Nat
  ended : Bool
  deriving DecidableEq, Repr

/-! ## Sunk packets -/

/-- Progress of a packet (R174 to R176). -/
inductive PacketPhase where
  | formed | accepted | executed
  deriving DecidableEq, Repr

/-- What a packet's run ends with where it does not complete: the cause, the address, whether it is a trap (R179), and the timebase at
the run (R267). -/
structure PacketBad where
  cause : Cause
  va : Nat
  trap : Bool
  time : DWord := 0#64
  deriving DecidableEq, Repr

/-- A sunk packet (R170 to R181): what its header captured for its lanes. -/
structure Packet where
  gid : Nat
  core : Nat
  tagKey : Nat
  gtag : BitVec 6
  ctx : Nat
  launch : Nat
  /-- offset of the SINK header -/
  offset : Offset
  hdr : SinkF
  /-- the region's words by plane, a uniform slot's under plane 0, and the slots' UNI bits -/
  words : List (Sparse 96)
  unis : List Bool
  /-- index of the first load -/
  first : Nat
  lanes : Lanes
  /-- home line (physical address ÷ 128), and for each lane its virtual line and leaf -/
  line : Nat
  pages : Table (Nat × DWord)
  /-- it runs in place (R171) -/
  place : Bool
  /-- it reads the core's L1 (R171) -/
  fromL1 : Bool
  /-- it takes a sink tag (R174) -/
  tag : Bool
  /-- its page is RC (R176) -/
  rc : Bool
  phase : PacketPhase
  /-- landing code it will carry -/
  code : BitVec 4
  bad : Option PacketBad
  fpMode : BitVec 2
  regs : Sparse 32
  s : Sparse 32
  m : Sparse 32
  planes : Sparse 2
  flags : Sparse 32
  /-- number of the group in its block -/
  num : Nat
  /-- its header was issued in the trap routine -/
  routine : Bool
  deriving DecidableEq, Repr

/-! ## Stations -/

/-- A near command in its context's queue (R238, R240). -/
structure NearCmd where
  ctx : Nat
  launch : Nat
  cmd : BitVec 512
  ticket : Word
  gid : Nat
  core : Nat
  block : Nat
  /-- the region entries it read at acceptance (R237): read, write, completion -/
  rrgn : BitVec 256
  wrgn : BitVec 256
  crgn : BitVec 256
  /-- number in its block and generation tag of the group that posted it (R267) -/
  gnum : Nat
  gtag : BitVec 6
  started : Bool
  /-- accepted before its station began to leave the partition (R280) -/
  early : Bool
  /-- a CGRA run that no longer moves (R249); with it, and between the segments of a bank sequence, the elements written and the
  events so far -/
  stalled : Bool
  count : Nat
  ev : BitVec 4
  /-- a bank sequence that has passed its checks (R260): its steps from the next segment on, and whether it is in all-bank mode -/
  steps : Option (List DWord)
  abm : Bool
  /-- coordinates of the block that posted it (R267) -/
  blk : Nat × Nat × Nat := (0, 0, 0)
  deriving DecidableEq, Repr

/-- A CGRA configuration held at a station (R246, R250), the most recently used last. -/
structure CgraCfg where
  ctx : Nat
  image : List Byte
  deriving DecidableEq, Repr

/-- Registers of the sixteen BCUs of a stack-id of a pseudo-channel (R254): operand lanes by (bank × 16 + register) × 16 + lane,
accumulator lanes by (bank × 8 + register) × 16 + lane. -/
structure BcuRegs where
  o : Sparse 16
  c : Sparse 32
  deriving DecidableEq, Repr

/-- A station (R233): configurations, the BCU registers of its banks by pseudo-channel × 4 + stack-id, soft-error counts. -/
structure Station where
  cfgs : List CgraCfg
  bcu : Table BcuRegs
  errC : Word
  errU : Word
  deriving DecidableEq, Repr

/-! ## Contexts, partitions, the porch -/

/-- A boost lease (R291). -/
structure Lease where
  ctx : Option Nat
  part : Nat
  quads : List Nat
  level : Nat
  expiry : Nat
  deriving DecidableEq, Repr

/-- A context. -/
structure Ctx where
  part : Nat
  root : Nat
  killed : Bool
  resident : Bool
  seq : Word
  fq : List FqEntry
  /-- records that found the queue and the pool full (R270) -/
  fqWait : List FqEntry
  /-- resumptions kept while the context is not resident (R272) -/
  keptResume : List Held
  mem : Bucket
  fab : Bucket
  /-- a setting that takes effect at the next refill (R285): rate, depth, and whether the bucket was unlimited -/
  memNew : Option (Nat × Nat)
  fabNew : Option (Nat × Nat)
  p3quota : Nat
  handles : Table Handle
  nrt : Map Nat (BitVec 256)
  nearSeq : Word
  nearDone : List Word
  bkpt : Bool
  sliceNs : Nat
  sliceEnd : Nat
  /-- launches appended by LAUNCH that have not completed (R192) -/
  devOrder : Nat
  deriving DecidableEq, Repr

/-- A quad: supply setpoint and governor (R286, R287), and the TLB its cores share (R108). -/
structure Quad where
  mv : Nat
  retired : Bool
  tlb : List TlbEntry
  deriving DecidableEq, Repr

/-- A hart's RISC-V privilege mode (R301). -/
inductive HartMode where
  | machine | supervisor | user
  deriving DecidableEq, Repr

/-- A hall core's hart (R301). -/
structure Hart where
  part : Nat
  entry : Nat
  started : Bool
  mode : HartMode
  deriving DecidableEq, Repr

/-- A capability-table entry (R281). -/
structure Cap where
  type : Nat
  id : Nat
  state : Nat
  owner : Nat
  used : Nat
  cap : Nat
  min : Nat
  ucost : Nat
  deriving DecidableEq, Repr

/-- A partition (R278, R301): its measured boot image and its entry; the command register of its window and the status of its last
command (R289). -/
structure Part where
  imageDigest : List Byte
  entry : Nat
  fpCmd : BitVec 128
  fpStatus : Nat
  /-- the manager has set its power share (R287) -/
  powerSet : Bool
  deriving DecidableEq, Repr

/-- What the last access of the host, a drive or another package was answered (R293, R296, R299): nothing yet, data with its
poisoned sectors counted from the access's first, the results of a sink packet with its landing code or its fault, Unsupported
Request, or PA_RANGE. -/
inductive Reply where
  | none
  | data (bs : List Byte) (poisoned : List Nat)
  | landed (regs flags : Sparse 32) (code : BitVec 4) (bad : Option PacketBad)
  | unsupported
  | paRange
  deriving DecidableEq, Repr

/-- The porch (R295 to R302). -/
structure Porch where
  flash : BootImage
  running : Option BootImage
  fusedHash : List Byte
  romVersion : Nat
  ready : BitVec 128
  caps : Table Cap
  presence : BitVec 432
  /-- links that route to a package -/
  routes : Table (List Nat)
  linksUp : BitVec 18
  parts : Table Part
  harts : Table Hart
  /-- shedding step in force, ILIM_N, and the time of its last edge or step (R288) -/
  shed : Nat
  ilim : Bool
  shedAt : Nat
  lastStatus : Nat
  lastReport : List Byte
  dbgResponse : DWord
  debugEvents : List Record
  /-- a MINIMA_SHORT event stands (R282) -/
  minimaShort : Bool
  channelErrC : Table Word
  channelErrU : Table Word
  sliceErrC : Table Word
  sliceErrU : Table Word
  /-- frames received for the porch's management agent (R298) -/
  frames : List (Nat × List Byte)
  reply : Reply
  /-- the last drive command ended with Data Transfer Error (R299) -/
  nvmeError : Bool
  deriving DecidableEq, Repr

/-! ## The package -/

/-- A line of L2 (R100): which of its two 64-byte sectors are valid, dirty and poisoned (R103), and the handles that mark it, each
with its context (R111). -/
structure L2Line where
  valid : BitVec 2
  dirty : BitVec 2
  bad : BitVec 2
  marks : List (Nat × Nat)
  deriving DecidableEq, Repr

/-- A line of a memory-side cache (R101): which of its two 64-byte sectors are valid, dirty and poisoned (R103). -/
structure MscLine where
  valid : BitVec 2
  dirty : BitVec 2
  bad : BitVec 2
  deriving DecidableEq, Repr

/-- A valid table descriptor that a die's walkers hold (R108): the context, the level of the table it points to, the bits of the
virtual address above that table's reach. -/
structure DescEntry where
  die : Nat
  ctx : Nat
  level : Nat
  vpage : Nat
  desc : DWord
  deriving DecidableEq, Repr

/-- Since when a group has been ready without issuing, in nanoseconds of the timebase, where it is ready, and which of its slots
issued last (R191). -/
structure Age where
  since : Option Nat
  last : SlotId
  deriving DecidableEq, Repr

/-- The state of one package. -/
structure State where
  /-- the slot that issues: group and slot -/
  gid : Nat
  sel : SlotId
  /-- the UNI bit of the fetched word's slot, set by the fetch (R18) -/
  uni : Bool
  timebase : DWord
  /-- nanoseconds a step takes: the model's own field, any value is allowed -/
  tickNs : Nat
  /-- free values used so far: the argument of the opaque constants of Config -/
  free : Nat
  /-- events to perform before the next issue, the first next -/
  agenda : List Instr
  pkgId : Nat
  groups : Table Group
  blocks : Table Block
  launches : Table Launch
  queues : Table Queue
  ctxs : Table Ctx
  cores : Table Core
  quads : Table Quad
  stations : Table Station
  bars : Map BarOwner (Table Bar)
  /-- launches that have become resident, by pod set (R194) -/
  pods : Table (List Nat)
  /-- since when each group is ready (R191) -/
  ages : Table Age
  /-- descriptors that the walkers hold (R108) -/
  descs : List DescEntry
  /-- memory of this package by package offset (R94) -/
  mem : Memory
  /-- poisoned 64-byte sectors of DRAM, by sector number (R103) -/
  poison : List Nat
  /-- 128-byte lines, by package offset ÷ 128, held in L2 and in the memory-side caches (R100, R101), the line filled first before
  the others -/
  l2 : Table L2Line
  msc : Table MscLine
  outs : Table Out
  stores : Table PStore
  walks : Table Walk
  packets : Table Packet
  /-- what slots have issued beyond a SINK header, by group (R177) -/
  ahead : Table Ahead
  near : Table NearCmd
  leases : Table Lease
  /-- lines that an EVICT waits for whose handle has been bound again since (R112) -/
  evictions : List Nat
  /-- accesses from outside that wait for a line that a sink tag or a near command holds (R112, R241) -/
  arrivals : List Instr
  porch : Porch
  /-- whether loads, stores and walks are left in flight at issue, the model's own choice among what R123, R130 allow -/
  deferLoads : Bool
  deferStores : Bool
  walkAsync : Bool
  /-- whether the units have the next turn, before the slots: the model's own field -/
  unitsNext : Bool
  /-- context whose launch became resident last (R193) -/
  lastServed : Nat
  /-- numbers given out so far -/
  next : Nat
  deriving DecidableEq, Repr

/-! ## Values at reset -/

def Checkpoint.blank : Checkpoint :=
  { fbp := 0#30, recipe := none, base := 0, mask := 0#8, lanes := 0#32, pjoin := none, regs := [],
    s := [], m := [], xbase := [], xlimit := [], xindex := [], planes := [], count := 0, preSplit := false }

/-- A free slot. -/
def Slot.free : Slot :=
  { live := false, offset := 0#30, mask := 0#32, pjoin := none, pcur := 0#2, parked := false,
    wasParked := false, stopped := false,
    inTrap := false, crossed := false, atJoin := false, joinRead := false, meet := none, waitUni := true, cpy := none,
    eng := none, paid := [], doneL := 0#32, left := 0#32, got := [], atBkpt := false, landed := [], chip := false, pending := [],
    deferred := [], trap := none, ck := Checkpoint.blank }

/-- The group an unlisted number reads as: no lane, no register allocated. -/
def Group.blank : Group :=
  { ctx := 0, launch := 0, block := 0, num := 0, core := 0, port := 0, base := 0, alloc := 0, annexBase := 0,
    annexAlloc := 0, gtag := 0#6, stage := none, v := [], annex := [], s := [], m := [], xbase := [], xlimit := [],
    xindex := [], planes := [], laneFlags := [], landing := [], trapEn := 0#8, fpMode := 0#2, a := Slot.free,
    b := Slot.free, splitJoin := none, outerJoin := none, fusion := .fused, stack := [], alive := 0#32, halted := false, step := none }

/-- An entry no TDEF has defined (R204). -/
def Tile.blank : Tile :=
  { err := false, defd := false, owner := 0#3, phase := false, state := .empty, pitch := 0, size := 0, base := 0,
    pins := 0, relPending := false }

def Block.blank : Block :=
  { ctx := 0, launch := 0, n := 0, x := 0, y := 0, z := 0, rank := 0, gang := 0, recIdx := 0, core := 0, groups := [],
    scratch := [], scratchPoison := [], tiles := [], accDirty := 0#4 }

def Bar.blank : Bar := { gen := 0#24, marks := [] }

def Launch.blank : Launch :=
  { pkt := 0#1024, src := .device, order := 0, state := .waiting, depOk := false, preload := [], started := 0, ended := 0,
    status := 0, cause := 0, detail := 0, saved := [] }

def Queue.blank : Queue :=
  { ctx := 0, base := 0, log2n := 4, status := 0, wrptr := 0, rdptr := 0, state := .active, cause := 0, fva := 0,
    disc := false, destroying := false, dirty := false }

/-- A bucket no CTX.BUDGET has set is unlimited, as RATE 0xFFFF_FFFF makes it (R283, R285). -/
def Bucket.unlimited : Bucket := { rate := 0xFFFFFFFF, depth := 0, balance := 0 }

def WPlane.blank : WPlane := { mark := .empty, fmt := 0, k32 := 0, w := [], scales := [] }

def Acc.blank : Acc :=
  { words := [], part := [], pcnt := 0, pend := none, itype := false, status := 0#5 }

/-- A core after reset: MX_CADENCE is 1 (R55), every count is zero. -/
def Core.blank : Core :=
  { l1 := [], cc := [], ro := [], tlb := [], lent := false, staleReturn := 0#32, mxCadence := 1#5, mxToggle := 0#32, mxZeros := 0#32,
    togCount := 0, zeroCount := 0, rowCount := 0, rowsLast := 0, lastRow := [], copyQ := [], mxOwner := none, active := WPlane.blank,
    shadow := WPlane.blank, accs := [], mxQ := [], followQ := [], tags := [], drowsy := [], spare := [], errC := 0#32, errU := 0#32 }

def Station.blank : Station := { cfgs := [], bcu := [], errC := 0#32, errU := 0#32 }

/-- A quad after reset: the nominal supply of 0.75 V (R286). -/
def Quad.blank : Quad := { mv := 750, retired := false, tlb := [] }

/-- A context as created (R283, R193): buckets unlimited, quota 0, the default slice of 2 ms. -/
def Ctx.blank : Ctx :=
  { part := 0, root := 0, killed := false, resident := true, seq := 0#32, fq := [], fqWait := [], keptResume := [],
    mem := Bucket.unlimited, fab := Bucket.unlimited, memNew := none, fabNew := none, p3quota := 0, handles := [],
    nrt := [], nearSeq := 0#32, nearDone := [], bkpt := false, sliceNs := 2000000, sliceEnd := 2000000, devOrder := 0 }

def BootImage.blank : BootImage := { key := [], body := [], sig := [] }

/-- DESIGN CHOICE (log 3), unsafe. -/
def Porch.blank : Porch :=
  { flash := BootImage.blank, running := none, fusedHash := [], romVersion := 0, ready := 0#128, caps := [],
    presence := 0#432, routes := [], linksUp := 0#18, parts := [], harts := [], shed := 0, ilim := false, shedAt := 0,
    lastStatus := 0, lastReport := [], dbgResponse := 0#64, debugEvents := [], minimaShort := false, channelErrC := [],
    channelErrU := [], sliceErrC := [], sliceErrU := [], frames := [],
    reply := .none, nvmeError := false }

/-- The package right after reset: nothing created, nothing resident, memory with nothing listed.
DESIGN CHOICE (log 3), unsafe. -/
def State.reset : State :=
  { gid := 0, sel := .A, uni := true, timebase := 0#64, tickNs := 1, free := 0, agenda := [], pkgId := 0, groups := [],
    blocks := [], launches := [], queues := [], ctxs := [], cores := [], quads := [], stations := [], bars := [], pods := [], ages := [], descs := [],
    mem := [], poison := [], l2 := [], msc := [], outs := [], stores := [], walks := [], packets := [], ahead := [], near := [],
    leases := [], evictions := [], arrivals := [], porch := Porch.blank, deferLoads := false, deferStores := false, walkAsync := false, unitsNext := false,
    lastServed := 0, next := 0 }

end Sys2Proof.Machine
end

