-- ==== Sys2Proof/Machine/Ops.lean ====
section
/-! DEFINITION. The named operations over the state: the issuing slot and its group, lanes and plane passes, registers,
positions, records, taking a trap (R268) and returning from one, killing a context (R269). -/

namespace Sys2Proof.Machine

/-! ## Access to the parts of the state -/

def State.grpAt (s : State) (g : Nat) : Group := (tget? s.groups g).getD Group.blank
/-- The group that issues. -/
def State.grp (s : State) : Group := s.grpAt s.gid
def State.setGrpAt (s : State) (k : Nat) (g : Group) : State := { s with groups := tput s.groups k g }
def State.setGrp (s : State) (g : Group) : State := s.setGrpAt s.gid g
def State.blkAt (s : State) (b : Nat) : Block := (tget? s.blocks b).getD Block.blank
/-- The block of the group that issues. -/
def State.blk (s : State) : Block := s.blkAt s.grp.block
def State.setBlkAt (s : State) (k : Nat) (b : Block) : State := { s with blocks := tput s.blocks k b }
def State.lncAt (s : State) (l : Nat) : Launch := (tget? s.launches l).getD Launch.blank
/-- The launch of the group that issues. -/
def State.lnc (s : State) : Launch := s.lncAt s.grp.launch
def State.setLncAt (s : State) (k : Nat) (l : Launch) : State := { s with launches := tput s.launches k l }
def State.ctxAt (s : State) (c : Nat) : Ctx := (tget? s.ctxs c).getD Ctx.blank
/-- The context of the group that issues. -/
def State.ctx (s : State) : Ctx := s.ctxAt s.grp.ctx
def State.setCtxAt (s : State) (k : Nat) (c : Ctx) : State := { s with ctxs := tput s.ctxs k c }
def State.coreAt (s : State) (c : Nat) : Core := (tget? s.cores c).getD Core.blank
/-- The core of the group that issues. -/
def State.core (s : State) : Core := s.coreAt s.grp.core
def State.setCoreAt (s : State) (k : Nat) (c : Core) : State := { s with cores := tput s.cores k c }
def State.queueAt (s : State) (q : Nat) : Queue := (tget? s.queues q).getD Queue.blank
def State.setQueueAt (s : State) (k : Nat) (q : Queue) : State := { s with queues := tput s.queues k q }
def State.stationAt (s : State) (k : Nat) : Station := (tget? s.stations k).getD Station.blank
def State.setStationAt (s : State) (k : Nat) (x : Station) : State := { s with stations := tput s.stations k x }
def State.quadAt (s : State) (k : Nat) : Quad := (tget? s.quads k).getD Quad.blank
def State.setQuadAt (s : State) (k : Nat) (x : Quad) : State := { s with quads := tput s.quads k x }
def State.push (s : State) (e : Instr) : State := { s with agenda := s.agenda ++ [e] }

/-- The other slot of a group (R12). -/
def otherSlot : SlotId → SlotId
  | .A => .B
  | .B => .A

def Group.slot (g : Group) : SlotId → Slot
  | .A => g.a
  | .B => g.b
def Group.setSlot (g : Group) (x : SlotId) (t : Slot) : Group :=
  match x with
  | .A => { g with a := t }
  | .B => { g with b := t }

/-- The slot that issues. -/
def State.slot (s : State) : Slot := s.grp.slot s.sel
def State.setSlot (s : State) (t : Slot) : State := s.setGrp (s.grp.setSlot s.sel t)

/-! ## Launch packet fields (R184) -/

def Launch.fld (l : Launch) (lo n : Nat) : Nat := (l.pkt.extractLsb' lo n).toNat
def Launch.code (l : Launch) : Nat := l.fld 256 64
def Launch.stride (l : Launch) : Nat := 64 * l.fld 160 20
def Launch.planes (l : Launch) : Nat := l.fld 142 2 + 1
def Launch.const (l : Launch) : Nat := l.fld 384 64
def Launch.trv (l : Launch) : Bool := l.fld 575 1 == 1
def Launch.trapOff (l : Launch) : Offset := l.pkt.extractLsb' 544 30
def Launch.stackBase (l : Launch) : Nat := l.fld 448 64
def Launch.stackCap (l : Launch) : Nat := l.fld 512 16
def Launch.groups (l : Launch) : Nat := l.fld 128 4 + 1
def Launch.gangLog (l : Launch) : Nat := l.fld 132 3
def Launch.heat (l : Launch) : Nat := l.fld 140 2
def Launch.scratch (l : Launch) : Nat := l.fld 224 32
def Launch.tiles (l : Launch) : Nat := l.fld 205 7
def Launch.ctx (l : Launch) : Nat := l.fld 528 12
def Launch.coop (l : Launch) : Bool := l.fld 10 1 == 1
def Launch.podg (l : Launch) : Nat := l.fld 12 16
def Launch.podn (l : Launch) : Nat := if l.podg = 0 then 1 else l.fld 180 9
def Launch.prio (l : Launch) : Nat := l.fld 8 2
def Launch.compl (l : Launch) : Nat := l.fld 768 64
def Launch.gridX (l : Launch) : Nat := l.fld 32 31 + 1
def Launch.gridY (l : Launch) : Nat := l.fld 64 31 + 1
def Launch.gridZ (l : Launch) : Nat := l.fld 96 31 + 1
def Launch.count (l : Launch) : Nat := l.gridX * l.gridY * l.gridZ
def Launch.hot (l : Launch) : Bool := l.heat == 2

/-! ## Lanes and passes (R18, R29) -/

def Group.planeOf (g : Group) (L : Lane) : BitVec 2 := sget g.planes L

/-- The occupied planes of a mask, ascending (R18). -/
def Group.occupied (g : Group) (m : Lanes) : List (BitVec 2) :=
  [0#2, 1#2, 2#2, 3#2].filter fun k => (lanesOf m).any fun L => g.planeOf L == k

/-- The plane of the pass about to issue: the lowest occupied plane at or above the plane cursor (R18). -/
def State.passPlane (s : State) : BitVec 2 :=
  ((s.grp.occupied s.slot.mask).find? fun k => s.slot.pcur ≤ k).getD s.slot.pcur

/-- Whether the pass about to issue is the lowest occupied plane's, whose word decides PLANE_ALIGN (R19). -/
def State.lowPass (s : State) : Bool := (s.grp.occupied s.slot.mask).head? == some s.passPlane

/-- The active lanes of the pass about to issue: all of them in a plane-uniform slot (R18). -/
def State.passLanes (s : State) : Lanes :=
  if s.uni then s.slot.mask
  else s.slot.mask &&& maskWhere fun L => s.grp.planeOf L == s.passPlane

/-- The next occupied plane after plane `p`, where the slot is non-uniform and one is left (R18). -/
def State.planeAfter (s : State) (p : BitVec 2) : Option (BitVec 2) :=
  if s.uni then none else (s.grp.occupied s.slot.mask).find? fun k => p < k

/-- The next occupied plane after the pass. -/
def State.nextPlane (s : State) : Option (BitVec 2) := s.planeAfter s.passPlane

/-- Mask register `n` as the slot reads it: m0 is the slot's active lanes (R41). -/
def State.mreg (s : State) (n : Nat) : Lanes := if n = 0 then s.slot.mask else sget s.grp.m n

/-- The lanes a guard selects (R29). -/
def State.guardMask (s : State) (guard : BitVec 3) (ginv : Bool) : Lanes :=
  if ginv then ~~~ s.mreg guard.toNat else s.mreg guard.toNat

/-- The executing lanes: the pass's active lanes ANDed with the guard (R29). -/
def State.execLanes (s : State) (guard : BitVec 3) (ginv : Bool) : Lanes :=
  s.passLanes &&& s.guardMask guard ginv

/-! ## Positions (R12, R18, R25) -/

/-- The offset after `o`: slot 0 of the next line after slot 4 (R25). -/
def nextOffset (o : Offset) : Offset := if o.extractLsb' 0 3 = 4#3 then o + 4#30 else o + 1#30

/-- The fetch line of an offset (R12). -/
def lineOf (o : Offset) : Nat := (o.extractLsb' 3 27).toNat
/-- The slot within the line of an offset (R12). -/
def slotIn (o : Offset) : Nat := (o.extractLsb' 0 3).toNat

/-- Whether a line lies within the planes of a launch (R25). -/
def Launch.lineOk (l : Launch) (line : Nat) : Bool := (line + 1) * 64 ≤ l.stride

/-- Whether falling through moves the slot past the end of its plane (R25): only the last pass moves it. -/
def State.fallsOut (s : State) : Bool :=
  s.nextPlane.isNone && !s.lnc.lineOk (lineOf (nextOffset s.slot.offset))

/-- Slot B's whole state moves to slot A, and the entries it pushed with it (R15). -/
def Group.moveBtoA (g : Group) : Group :=
  { g with a := g.b, b := Slot.free, stack := g.stack.map fun e => if e.slot = .B then { e with slot := .A } else e }

/-- The union of two slots' masks, offsets being equal, in slot A (R15, R21). -/
def Group.fuseAt (g : Group) (o : Offset) (pj : Option Offset) : Group :=
  { g with a := { g.a with mask := g.a.mask ||| g.b.mask, offset := o, pcur := 0#2, pjoin := pj, atJoin := false,
                           stopped := g.a.stopped || g.b.stopped, crossed := true, deferred := g.a.deferred ++ g.b.deferred,
                           pending := g.a.pending ++ g.b.pending, landed := g.a.landed ++ g.b.landed },
           b := Slot.free, splitJoin := none, outerJoin := none, fusion := .fused }

/-- A slot of a PARKED group that could fuse where it stands: unparked, at plane cursor 0, with nothing of its instruction
outstanding or done. DEDUCED (log 67), unsafe: R21 does not speak of the trap routine; a slot in it, or waiting to enter it, does
not fuse. Nor does it speak of a slot that waits inside a BAR.MEET, its lanes marked and its token kept, when the slot ahead arrives at the
same offset: here they fuse and the kept token is dropped, so the BAR.MEET that the fused slot issues again traps BAR_REARRIVE.
DESIGN CHOICE (log 88), unsafe. -/
def Slot.canFuse (t : Slot) : Bool :=
  t.live && !t.parked && t.pcur == 0#2 && t.pending.isEmpty && t.doneL == 0#32 && !t.inTrap && t.trap.isNone

/-- A group whose fusion kind is PARKED fuses once both slots stand unparked at one offset with one pending join and plane
cursor 0 (R21). DEDUCED (log 67), unsafe: a slot that stopped whole stands unparked, so it fuses too, and the fused slot is then
stopped until the resumption. -/
def Group.fuseParked (g : Group) : Group :=
  if g.fusion = .parked ∧ g.a.canFuse ∧ g.b.canFuse ∧ g.a.offset = g.b.offset ∧ g.a.pjoin = g.b.pjoin then
    { g.fuseAt g.a.offset g.a.pjoin with splitJoin := g.splitJoin, outerJoin := g.outerJoin }
  else g

/-- The slot stands at its instruction with nothing of it done. -/
def Slot.anew (t : Slot) : Slot := { t with paid := [], doneL := 0#32, left := 0#32, got := [], eng := none }

/-- Replace a store's per-lane keys (entry × 32 + lane) of some lanes by those of another store. -/
def laneMerge {w : Nat} (old new : Sparse w) (m : Lanes) : Sparse w :=
  let keep := old.filter fun p => !laneIn m (p.1 % 32)
  sputMany keep (sget new) ((new.filter fun p => laneIn m (p.1 % 32)).map Prod.fst)

/-- Lanes of the SINK header at an offset, in the trap routine or not as the slot is, that have landed while others have not (R179). -/
def Slot.landedAt (t : Slot) (o : Offset) : Lanes :=
  t.landed.foldl (fun m p => if p.1 = t.inTrap ∧ p.2.1 = o then m ||| p.2.2 else m) 0#32

/-- Lanes landed of a SINK elsewhere are forgotten, but in the trap routine those of the header that it may return to (R179). -/
def Slot.landedFor (t : Slot) (o : Offset) : List (Bool × Offset × Lanes) :=
  t.landed.filter fun p => (t.inTrap && !p.1) || (p.1 == t.inTrap && p.2.1 == o)

/-- The slot goes to an offset with plane cursor 0 (R64). -/
def State.moveTo (s : State) (o : Offset) : State :=
  s.setGrp (s.grp.setSlot s.sel { s.slot.anew with offset := o, pcur := 0#2, landed := s.slot.landedFor o }).fuseParked

/-- The slot goes on after the pass of plane `p`: to the next plane's pass, or to the next offset after the last one (R18). -/
def State.advanceFrom (s : State) (p : BitVec 2) : State :=
  match s.planeAfter p with
  | some k => s.setSlot { s.slot.anew with pcur := k }
  | none => s.moveTo (nextOffset s.slot.offset)

/-- The slot goes on after the pass about to issue. -/
def State.advance (s : State) : State := s.advanceFrom s.passPlane

/-! ## Records (R267) -/

def srcCode : Src → Nat
  | .instr => 0 | .fetch => 1 | .sink => 2 | .copy => 3 | .matrix => 4 | .near => 5 | .stack => 6 | .sched => 7

/-- Cause codes (R276). -/
def causeCode : Cause → Nat
  | .illegalOpcode => 0x01 | .illegalFunction => 0x02 | .reservedField => 0x03 | .illegalOperand => 0x04
  | .modifier => 0x05 | .lineParity => 0x06 | .lineReserved => 0x07 | .branchTarget => 0x08 | .fetchRange => 0x09
  | .pairAlign => 0x0A | .regRange => 0x0B | .indexRange => 0x0C | .csrNumber => 0x0D | .csrAccess => 0x0E
  | .planeAlign => 0x10 | .planeRange => 0x11
  | .intDivzero => 0x20 | .intOverflow => 0x21 | .fpInvalid => 0x22 | .fpDivzero => 0x23 | .fpOverflow => 0x24
  | .fpUnderflow => 0x25 | .fpInexact => 0x26 | .quantSat => 0x27
  | .vaRange => 0x40 | .pageAbsent => 0x41 | .pteFormat => 0x42 | .readPerm => 0x43 | .writePerm => 0x44
  | .writeDirty => 0x45 | .fetchPerm => 0x46 | .misaligned => 0x47 | .scratchRange => 0x48 | .remoteRank => 0x49
  | .constRange => 0x4A | .roPath => 0x4B | .poison => 0x4C | .paRange => 0x4D | .atomicKind => 0x4E
  | .walkError => 0x4F | .resRange => 0x50
  | .sinkSpan => 0x70 | .sinkIllegal => 0x71 | .sinkLength => 0x72 | .sinkOperand => 0x73
  | .tileRange => 0x80 | .tileState => 0x81 | .tileUndef => 0x82 | .tileBounds => 0x83 | .cpyCard => 0x84
  | .cpyFootprint => 0x85 | .mxFormat => 0x86 | .mxShape => 0x87 | .mxTernCode => 0x88 | .mxMismatch => 0x89
  | .mxPlaneLost => 0x8A
  | .barScope => 0xA1 | .divstackOverflow => 0xA2 | .barRearrive => 0xA3 | .barToken => 0xA4 | .queuePointer => 0xA6
  | .saveCheck => 0xA7
  | .resourceRetired => 0xB0 | .leaseRange => 0xB1 | .partDestroyed => 0xB2 | .osKill => 0xB3
  | .nearFormat => 0xC0 | .nearRegion => 0xC1 | .nearBounds => 0xC2 | .nearPerm => 0xC3 | .nearStation => 0xC4
  | .nearNocfg => 0xC5 | .nearStall => 0xC6 | .nearPoison => 0xC7 | .nearRecord => 0xC8 | .nearSegment => 0xC9
  | .fabricTimeout => 0xD0 | .fabricUnreachable => 0xD1
  | .userTrap => 0xE0 | .breakpoint => 0xE1 | .trapNested => 0xE2 | .stateError => 0xE3

/-- The 512 bits of a record (R267). -/
def Record.bits (r : Record) : BitVec 512 :=
  BitVec.ofNat 512
    (causeCode r.cause + srcCode r.src * 2 ^ 8 + (if r.slot = .B then 2 ^ 11 else 0) + r.pcur.toNat * 2 ^ 12
      + r.level.toNat * 2 ^ 14 + (if r.park then 2 ^ 18 else 0) + (if r.whole then 2 ^ 19 else 0)
      + (r.ctx % 4096) * 2 ^ 20 + r.offset.toNat * 2 ^ 32 + r.mask.toNat * 2 ^ 64 + (r.va % 2 ^ 48) * 2 ^ 96
      + r.info.toNat * 2 ^ 160 + (r.core % 512) * 2 ^ 192 + (r.group % 16) * 2 ^ 201 + r.gtag.toNat * 2 ^ 208
      + r.seq.toNat * 2 ^ 224 + r.time.toNat * 2 ^ 256 + r.blkX.toNat * 2 ^ 320 + r.blkY.toNat * 2 ^ 352
      + r.blkZ.toNat * 2 ^ 384)

/-- Word `i` of a record. -/
def Record.word (r : Record) (i : Nat) : Word := r.bits.extractLsb' (32 * i) 32

/-- The next record number of a context: from 1, skipping 0 at the wrap (R267). -/
def nextSeq (q : Word) : Word := if q + 1#32 = 0#32 then 1#32 else q + 1#32

/-- What an instruction's rule says of a trap it raises. -/
structure Trap where
  cause : Cause
  mask : Lanes
  info : Word := 0#32
  va : Nat := 0
  src : Src := .instr
  /-- the offset recorded, where it is not the instruction's own -/
  offset : Option Offset := none
  /-- executing level of a sunk packet (R179) -/
  level : BitVec 4 := 0#4
  /-- when it was raised, where it is taken later (R266) or a packet ran into it (R179) -/
  time : Option DWord := none
  /-- the group's generation tag when it was raised, where that is not its tag now (R267) -/
  gtag : Option (BitVec 6) := none
  deriving DecidableEq, Repr

/-- What the record of a deferred cause says: TIME and GTAG are those of when the engine raised it (R267). -/
def Deferred.trap (d : Deferred) : Trap :=
  { cause := d.cause, mask := d.mask, va := d.va, src := d.src, offset := some d.offset, time := some d.time,
    gtag := some d.gtag }

/-- The record of a cause raised for a slot of a group, numbered in the context (R267). DEDUCED (log 21), unsafe. -/
def State.mkRecord (s : State) (g : Group) (sel : SlotId) (t : Trap) (park whole : Bool) (level : BitVec 4) : Record :=
  let b := s.blkAt g.block
  let sl := g.slot sel
  { cause := t.cause, src := t.src, slot := sel, pcur := sl.pcur, level := level, park := park, whole := whole,
    ctx := g.ctx, offset := t.offset.getD sl.offset, mask := t.mask, va := t.va, info := t.info, core := g.core,
    group := g.num, gtag := t.gtag.getD g.gtag, seq := nextSeq (s.ctxAt g.ctx).seq, time := t.time.getD s.timebase,
    blkX := BitVec.ofNat 32 b.x, blkY := BitVec.ofNat 32 b.y, blkZ := BitVec.ofNat 32 b.z }

/-- Count a record in its context. -/
def State.countRecord (s : State) (c : Nat) : State :=
  s.setCtxAt c { s.ctxAt c with seq := nextSeq (s.ctxAt c).seq }

/-- Records in the pool all contexts share: those beyond a context's own eight (R270). -/
def State.poolUsed (s : State) : Nat := s.ctxs.foldl (fun n p => n + (p.2.fq.length - 8)) 0

/-- Whether a context's fault queue, or the pool, has room (R270). -/
def State.fqRoom (s : State) (c : Nat) : Bool := (s.ctxAt c).fq.length < 8 || s.poolUsed < 4096

/-- Post a record to a context's fault queue; without room it waits in the unit that raised it (R270). -/
def State.postRecord (s : State) (c : Nat) (r : Record) (h : Held) : State :=
  let x := s.ctxAt c
  if s.fqRoom c && x.fqWait.isEmpty then s.setCtxAt c { x with fq := x.fq ++ [⟨r, h⟩] }
  else s.setCtxAt c { x with fqWait := x.fqWait ++ [⟨r, h⟩] }

/-! ## Power units of the register files (R50) -/

/-- The power unit of a port entry. -/
def unitOf (e : Nat) : Nat := e % 4 + 4 * (e / 128)

/-- Entries wake the units they lie in. -/
def Core.wake (c : Core) (port : Nat) (es : List Nat) : Core :=
  { c with drowsy := c.drowsy.filter fun u => !(es.map fun e => port * 16 + unitOf e).contains u }

/-- The D partner of an A cell: the other column of its row in the quad (R8). -/
def annexPartner (c : Nat) : Nat := if (c % 80) % 8 % 2 = 0 then c + 1 else c - 1

/-- An access to entries of a group, numbered as R46 numbers them, wakes the units they lie in, whoever makes it (R50). -/
def State.wakeEntries (s : State) (g : Group) (es : List Nat) : State :=
  let d := annexPartner g.core
  if (s.coreAt g.core).drowsy.isEmpty && (s.coreAt d).drowsy.isEmpty then s
  else
    let t := s.setCoreAt g.core ((s.coreAt g.core).wake g.port ((es.filter fun e => e < 512).map fun e => g.base + e))
    t.setCoreAt d ((t.coreAt d).wake g.port ((es.filter fun e => 512 ≤ e).map fun e => g.annexBase + (e - 512)))

/-- Every entry a group has: its allocation and its annex allocation. -/
def Group.entries (g : Group) : List Nat := List.range g.alloc ++ (List.range g.annexAlloc).map fun e => 512 + e

/-- Whether an entry of a core's port lies in a group's allocation, the annex of its A cell counted with it. -/
def Group.holds (g : Group) (core port e : Nat) : Bool :=
  g.port == port
    && ((g.core == core && decide (g.base ≤ e) && decide (e < g.base + g.alloc))
      || (annexPartner g.core == core && decide (g.annexBase ≤ e) && decide (e < g.annexBase + g.annexAlloc)))

/-- Whether a power unit of a core's port is not gated: some entry of it belongs to an allocation, or the core is lent as
annex (R50). -/
def State.unitHeld (s : State) (core port unit : Nat) : Bool :=
  (s.coreAt core).lent
    || s.groups.any fun p => p.2.core == core && p.2.port == port
      && (List.range p.2.alloc).any fun i => unitOf (p.2.base + i) == unit

/-- Whether what a debugger wrote to an entry outside every allocation stays: its unit is not gated and no allocation has taken
the entry (R50, R273). -/
def State.spareStays (s : State) (core port e : Nat) : Bool :=
  s.unitHeld core port (unitOf e) && !s.groups.any fun q => q.2.holds core port e

def State.trimSpare (s : State) (core : Nat) : State :=
  let c := s.coreAt core
  if c.spare.isEmpty then s
  else s.setCoreAt core { c with spare := c.spare.filter fun p => s.spareStays core (p.1 / 16384) (p.1 / 32 % 512) }

/-! ## Killing a context (R269) -/

/-- The next generation tag of an allocation: values of returns still outstanding are skipped (R45). -/
def State.nextTag (s : State) (c key : Nat) : Option (BitVec 6) :=
  let t := sget (s.coreAt c).tags key
  let busy (g : BitVec 6) : Bool :=
    (s.outs.any fun o => o.2.core == c && o.2.tagKey == key && o.2.gtag == g)
      || s.packets.any fun p => p.2.core == c && p.2.tagKey == key && p.2.gtag == g
  ((List.range 64).map fun i => t + BitVec.ofNat 6 (i + 1)).find? fun g => !busy g

/-- The generation tag of an allocation advances (R45); where returns of all 64 values are outstanding, to the next one: R45 lets only a
new allocation wait. DESIGN CHOICE (log 68), unsafe. -/
def State.bumpTag (s : State) (core key : Nat) : State :=
  let c := s.coreAt core
  s.setCoreAt core { c with tags := sput c.tags key ((s.nextTag core key).getD (sget c.tags key + 1#6)) }

/-- The key of an allocation's tag: its port and first entry. DESIGN CHOICE (log 68), unsafe: R45 does not say what the same
entries are where allocations overlap from different first entries; here each first entry has a tag of its own. -/
def Group.tagKey (g : Group) : Nat := g.port * 512 + g.base

/-- The matrix unit of a core is released: planes, accumulators, partials and status words are zero (R215). -/
def Core.releaseMx (c : Core) : Core :=
  { c with mxOwner := none, active := WPlane.blank, shadow := WPlane.blank, accs := [] }

/-- The quads a core belongs to (R8). -/
def quadOfCore (c : Nat) : Nat :=
  let d := c / 80; let n := c % 80
  d * 20 + (n / 8 / 2) * 4 + (n % 8) / 2

/-- The four cores of a package quad, in ascending index (R8). -/
def coresOfQuad (q : Nat) : List Nat :=
  let base := q / 20 * 80 + q % 20 / 4 * 16 + q % 4 * 2
  [base, base + 1, base + 8, base + 9]

/-! ## Barriers (R11, R70, R72) -/

/-- The pod set of a launch (R194): its own, or the one its PODG and PODN name. -/
def Launch.podKey (l : Launch) (k : Nat) : Nat := if l.podg = 0 then k else 2 ^ 32 + l.podg * 512 + l.podn

/-- The owner of a barrier for the group that issues (R70); SYS has none. DESIGN CHOICE (log 44), unsafe. -/
def State.barOwner (s : State) (sc : Scope) : Option BarOwner :=
  let g := s.grp
  let b := s.blk
  let l := s.lnc
  match sc with
  | .core => some (.block g.block)
  | .quad => some (.quad g.launch b.gang (quadOfCore g.core))
  | .die => some (.gang g.launch b.gang)
  | .pkg => if l.coop then some (.launch g.launch) else none
  | .pod => if l.coop then some (.pod (l.podKey g.launch)) else none
  | .sys => none

/-- Whether a launch belongs to a pod set (R194). -/
def State.inPod (s : State) (k l : Nat) : Bool := (s.lncAt l).podKey l == k

/-- Whether a group takes part in a barrier (R11). -/
def State.inBar (s : State) (o : BarOwner) (g : Group) : Bool :=
  let b := s.blkAt g.block
  match o with
  | .block k => g.block == k
  | .quad l n q => g.launch == l && b.gang == n && quadOfCore g.core == q
  | .gang l n => g.launch == l && b.gang == n
  | .launch l => g.launch == l
  | .pod k => s.inPod k g.launch

def State.barAt (s : State) (o : BarOwner) (bid : Nat) : Bar := (tget? ((tget? s.bars o).getD []) bid).getD Bar.blank
def State.setBar (s : State) (o : BarOwner) (bid : Nat) (b : Bar) : State :=
  { s with bars := tput s.bars o (tput ((tget? s.bars o).getD []) bid b) }

/-- Every lane of the group that has not exited is marked (R22, R72). -/
def Bar.arrived (b : Bar) (k : Nat) (g : Group) : Bool := g.alive &&& ~~~ ((tget? b.marks k).getD 0#32) == 0#32

/-- All launches of a pod set have become resident in this package (R194), and no participant is saved (R201). A launch that has
ended leaves the participants and stays counted (R72). -/
def State.podWhole (s : State) : BarOwner → Bool
  | .pod k =>
    (s.launches.all fun p => !s.inPod k p.1 || p.2.saved.isEmpty)
      && (k < 2 ^ 32 || k % 512 ≤ ((tget? s.pods k).getD []).length)
  | .launch l => (s.lncAt l).saved.isEmpty
  | .gang l _ => (s.lncAt l).saved.isEmpty
  | .quad l _ _ => (s.lncAt l).saved.isEmpty
  | .block b => (tget? s.blocks b).isSome

/-- The generation completes when some lane is marked and every participant has arrived (R72). -/
def State.completeBar (s : State) (o : BarOwner) (bid : Nat) : State :=
  let b := s.barAt o bid
  if !b.marks.isEmpty && s.podWhole o && s.groups.all (fun p => !s.inBar o p.2 || b.arrived p.1 p.2) then
    s.setBar o bid { gen := b.gen + 1#24, marks := [] }
  else s

/-- Judge every barrier again: a participant has left (R72). -/
def State.completeBars (s : State) : State :=
  s.bars.foldl (fun t p => p.2.foldl (fun t q => t.completeBar p.1 q.1) t) s

/-! ## What a kill takes with it -/

/-- Quads return to their setpoints when a lease ends: 0.95 V with a hot block, 0.75 V otherwise, raised by the leases that
still run and shedding does not suspend (R286, R292). -/
def State.setpoint (s : State) (q : Nat) : Nat :=
  let hot := s.blocks.any fun p => quadOfCore p.2.core == q && (s.lncAt p.2.launch).hot
  if hot then 950
  else if 1 ≤ s.porch.shed then 750
  else min 950 (750 + s.leases.foldl (fun n p => if p.2.quads.contains q then n + 50 * p.2.level else n) 0)

def State.resetpoints (s : State) (qs : List Nat) : State :=
  qs.foldl (fun t q => t.setQuadAt q { t.quadAt q with mv := t.setpoint q }) s

/-- The capability entry of a type and a number (R281). -/
def State.cap? (s : State) (type id : Nat) : Option (Nat × Cap) :=
  s.porch.caps.find? fun p => p.2.type == type && p.2.id == id

def State.setCap (s : State) (k : Nat) (c : Cap) : State :=
  { s with porch := { s.porch with caps := tput s.porch.caps k c } }

/-- The boost budget of a partition: CAP less USED of its entry of TYPE 0x0013 (R281, R291). -/
def State.boost (s : State) (p : Nat) : Nat :=
  match s.cap? 0x13 p with
  | some (_, c) => c.cap - c.used
  | none => 0

/-- Change what a partition's boost budget has consumed. -/
def State.boostUse (s : State) (p : Nat) (f : Nat → Nat) : State :=
  match s.cap? 0x13 p with
  | some (k, c) => s.setCap k { c with used := f c.used }
  | none => s

/-- End the lease a context holds, as a kill does: quads return to their setpoints and the unused part returns to the budget
(R292). -/
def State.endLease (s : State) (c : Nat) : State :=
  match s.leases.find? fun p => p.2.ctx == some c with
  | none => s
  | some (k, l) =>
    let s := { s with leases := tdel s.leases k }
    let back := (l.expiry - s.timebase.toNat) * l.quads.length * l.level / 1000
    (s.boostUse l.part fun u => u - back).resetpoints l.quads

/-- A block leaves its core: its copy jobs and matrix work go, the returns it still awaited of the matrix unit are dropped and
counted (R45), and the matrix unit is released (R215, R269). -/
def Core.leave (c : Core) (b : Nat) : Core :=
  let lost := (c.mxQ ++ c.followQ).filter fun m => m.block == b && m.ret.isSome
  let c : Core :=
    { c with copyQ := c.copyQ.filter fun p => p.2.block != b, mxQ := c.mxQ.filter fun m => m.block != b,
             followQ := c.followQ.filter fun m => m.block != b, staleReturn := c.staleReturn + BitVec.ofNat 32 lost.length }
  if c.mxOwner = some b then c.releaseMx else c

/-- The last hot block has left a core: its lent D cell returns to service (R24). -/
def State.unlend (s : State) (core : Nat) : State :=
  if s.blocks.any fun p => p.2.core == core && (s.lncAt p.2.launch).hot then s
  else s.setCoreAt (annexPartner core) { s.coreAt (annexPartner core) with lent := false }

/-- Remove a block: its groups, its barriers, its copy jobs and matrix work; a lent D cell is released when no other holder is
left, entries outside allocations go with their power units, and the quad's supply returns to its setpoint
(R16, R24, R50, R215, R269, R286). -/
def State.dropBlock (s : State) (b : Nat) : State :=
  let blk := s.blkAt b
  let s : State := blk.groups.foldl (fun (t : State) g =>
    { t.bumpTag (t.grpAt g).core (t.grpAt g).tagKey with groups := tdel t.groups g, ages := tdel t.ages g }) s
  let s := { s with blocks := tdel s.blocks b, bars := tdel s.bars (.block b) }
  let s := (s.setCoreAt blk.core ((s.coreAt blk.core).leave b)).unlend blk.core
  ((s.trimSpare blk.core).trimSpare (annexPartner blk.core)).resetpoints [quadOfCore blk.core]

/-- Kill a context with a cause (R269): its groups stop, copy jobs are cancelled, generation tags advance, launches complete
KILLED, queues enter ERROR, a lease ends, the barriers of other launches are judged without its groups (R72), and a record with PARK = 0
is posted. DEDUCED (log 63), safe. -/
def State.kill (s : State) (c : Nat) (r : Record) : State :=
  let x := s.ctxAt c
  if x.killed then s
  else
    let s := s.setCtxAt c { x with killed := true }
    let bs := (s.blocks.filter fun p => p.2.ctx == c).map Prod.fst
    let s := bs.foldl State.dropBlock s
    let s : State :=
      { s with launches := tmap s.launches fun _ (l : Launch) =>
                 if l.ctx = c ∧ l.state ≠ .completed then
                   { l with state := .running, started := l.count, ended := l.count, saved := [], status := 4,
                            cause := causeCode r.cause }
                 else l,
               queues := tmap s.queues fun _ (q : Queue) =>
                 if q.ctx = c ∧ q.state = .active then { q with state := .error, cause := causeCode r.cause, dirty := true } else q,
               walks := s.walks.filter fun p => p.2.ctx != c,
               packets := s.packets.filter fun p => p.2.ctx != c || p.2.phase != .formed }
    let s := s.endLease c
    let ls := (s.launches.filter fun p => p.2.ctx == c && p.2.state != .completed).map Prod.fst
    let s := ls.foldl (fun (t : State) l => t.push (.launchComplete l)) s
    let qs := (s.queues.filter fun p => p.2.ctx == c && p.2.dirty).map Prod.fst
    let s := qs.foldl (fun (t : State) q => t.push (.packetAccept q)) s
    ((s.completeBars).countRecord c).postRecord c { r with park := false } .none

/-! ## Taking a trap and returning from it (R268) -/

/-- Scalar registers s40 to s47 take the first 256 bits of the record. -/
def Group.saveRecord (g : Group) (r : Record) : Group :=
  { g with s := sputMany g.s (fun n => r.word (n - 40)) [40, 41, 42, 43, 44, 45, 46, 47] }

/-- A slot enters the kernel's trap routine with a record: s40 to s47 hold it, in_trap is set, the offset is TRAPOFF and the
plane cursor 0; everything else stands. -/
def State.enterTrap (s : State) (k : Nat) (sel : SlotId) (r : Record) : State :=
  let g := s.grpAt k
  let off := (s.lncAt g.launch).trapOff
  let g := g.saveRecord r
  s.setGrpAt k (g.setSlot sel { (g.slot sel).anew with inTrap := true, offset := off, pcur := 0#2, trap := none,
                                                       atJoin := false, joinRead := false, meet := none, cpy := none })

/-- A cause of class P or D is raised for a slot (R268): the context is killed without a trap routine or when the slot is
already in its own; the slot waits while the other slot is in its routine; otherwise it enters. R267 numbers the records of a context
and R268 makes the record after the wait: here one that waits has the SEQ, the time and the tag of when its cause was raised.
DESIGN CHOICE (log 84), unsafe. -/
def State.raiseAt (s : State) (k : Nat) (sel : SlotId) (t : Trap) : State :=
  let g := s.grpAt k
  let r := s.mkRecord g sel t false false t.level
  if (s.lncAt g.launch).trv = false then s.kill g.ctx r
  else if (g.slot sel).inTrap then
    s.kill g.ctx { r with cause := .trapNested, info := BitVec.ofNat 32 (causeCode t.cause) }
  else
    let s := s.countRecord g.ctx
    if (g.slot (otherSlot sel)).live ∧ (g.slot (otherSlot sel)).inTrap then
      s.setGrpAt k (g.setSlot sel { g.slot sel with trap := some r })
    else s.enterTrap k sel r

/-- The plane cursor of the pass about to issue (R18, R264). -/
def State.passCur (s : State) : BitVec 2 := if s.uni then s.slot.pcur else s.passPlane

/-- The issuing slot raises a cause, in the pass about to issue. -/
def State.takeTrap (s : State) (t : Trap) : State :=
  (s.setSlot { s.slot with pcur := s.passCur }).raiseAt s.gid s.sel t

/-- The first RET a slot executes in its routine clears in_trap (R268). -/
def State.leaveTrap (s : State) : State := s.setSlot { s.slot with inTrap := false }

/-! ## Issue -/

/-- What an instruction comes to at issue. DESIGN CHOICE (log 11), safe. -/
inductive Issue where
  /-- its effect is complete, the slot goes on -/
  | done (s : State)
  /-- the state is the next one as it stands: the slot does not go on by falling through -/
  | stay (s : State)
  /-- the slot waits, or its lanes have parked, at an instruction that falls through once it goes on -/
  | wait (s : State)
  | trap (t : Trap)
  deriving DecidableEq, Repr

/-- Some lanes of the slot's pass are complete: it is finished before a deferred cause is taken at the next instruction (R266). -/
def Slot.midPass (t : Slot) : Bool := t.doneL != 0#32 || !t.got.isEmpty

/-- The pass at hand is made again from its start, but for what is performed already: a response's fault has stopped the slot whole in it
(R20, R125). While a pass goes on the lanes left are never the whole mask. -/
def Slot.again (t : Slot) : Bool := t.left == t.mask && t.mask != 0#32

/-- An instruction that the slot has issued is not complete: lanes of its pass are still to be performed, a stack entry is read, or a
barrier phase has not ended; one that stopped whole waits as a parked one does (R273). -/
def Slot.unfinished (t : Slot) : Bool := (!t.again && (t.midPass || t.left != 0#32)) || t.joinRead || t.meet.isSome

/-- Whether the selected slot may act at all: its group exists, is not halted, steps or finishes what it has issued (R273), its context
is resident, not killed and not paused (R288). -/
def State.awake (s : State) : Bool :=
  (tget? s.groups s.gid).isSome && s.slot.live && (!s.grp.halted || s.grp.step == some s.sel || s.slot.unfinished) && s.ctx.resident
    && !s.ctx.killed && s.porch.shed < 4

/-- Whether the selected slot may issue (R12, R20, R266): it is live, not parked or stopped, waits for no return, join, stack
entry or barrier phase, and has no trap waiting. -/
def State.ready (s : State) : Bool :=
  s.awake && !s.slot.parked && !s.slot.stopped && s.slot.pending.isEmpty && s.slot.trap.isNone && (s.slot.deferred.isEmpty || s.slot.midPass)
    && !s.slot.atJoin && !s.slot.joinRead && s.slot.meet.isNone && s.slot.cpy.isNone && !s.slot.atBkpt

/-- While a group is PARKED the slot ahead, the one that was not parked, issues only class-V instructions, NOP and the uniform
branches (R21). -/
def State.heldBack (s : State) (ahead : Bool) : Bool :=
  s.grp.fusion == .parked && !ahead && !s.slot.wasParked && (s.grp.slot (otherSlot s.sel)).live

end Sys2Proof.Machine
end

