-- ==== Sys2Proof/Machine/Operands.lean ====
section
/-! DEFINITION. Every operand form (R38, R39, R46): reading and writing an operand in a lane, and the checks made at issue in
the order of R37: PAIR_ALIGN, REG_RANGE, MODIFIER, PLANE_ALIGN, then INDEX_RANGE. -/

namespace Sys2Proof.Machine

/-- The lane entry a vx operand names: BASE + index (R46). -/
def Group.vxEntry (g : Group) (k : Fin 4) (L : Lane) : Nat :=
  (sget g.xbase k.val).toNat + (sget g.xindex (k.val * 32 + L)).toNat

/-- An entry of the indirect space: v registers, then from 512 the annex (R46). -/
def Group.entry (g : Group) (e : Nat) (L : Lane) : Word :=
  if e < 512 then sget g.v (e * 32 + L) else sget g.annex ((e - 512) * 32 + L)

def Group.setEntry (g : Group) (e : Nat) (L : Lane) (w : Word) : Group :=
  if e < 512 then { g with v := sput g.v (e * 32 + L) w } else { g with annex := sput g.annex ((e - 512) * 32 + L) w }

/-- Register `j` of an operand in a lane: a pair or quad names consecutive registers (R39), an s register is broadcast, a
special code is one register wide (R38). -/
def Group.rd (g : Group) (o : Opd) (j : Nat) (L : Lane) : Word :=
  match o with
  | .v n => sget g.v ((n.val + j) * 32 + L)
  | .s n => sget g.s (n.val + j)
  | .vx k => g.entry (g.vxEntry k L + j) L
  | .lane => if j = 0 then BitVec.ofNat 32 L else 0#32
  | .zero => 0#32
  | .group => if j = 0 then BitVec.ofNat 32 g.num else 0#32
  | .plane => if j = 0 then (g.planeOf L).setWidth 32 else 0#32

/-- A 64-bit operand: the named register low (R39). DEDUCED (log 16), unsafe. -/
def Group.rd64 (g : Group) (o : Opd) (L : Lane) : DWord := g.rd o 1 L ++ g.rd o 0 L

/-- A scalar operand (class S). -/
def Group.rdS (g : Group) (o : Opd) (j : Nat) : Word := g.rd o j 0

/-- Write register `j` of an operand in a lane; `%zero` discards (R38). -/
def Group.wr (g : Group) (o : Opd) (j : Nat) (L : Lane) (w : Word) : Group :=
  match o with
  | .v n => { g with v := sput g.v ((n.val + j) * 32 + L) w }
  | .s n => { g with s := sput g.s (n.val + j) w }
  | .vx k => g.setEntry (g.vxEntry k L + j) L w
  | _ => g

/-- Write a scalar destination. -/
def Group.wrS (g : Group) (o : Opd) (j : Nat) (w : Word) : Group := g.wr o j 0 w

/-- Write a destination's registers `j`, `j + 1`, … in a lane from a list. -/
def Group.wrList (g : Group) (o : Opd) (j : Nat) (L : Lane) : List Word → Group
  | [] => g
  | w :: ws => (g.wr o j L w).wrList o (j + 1) L ws

/-- Write a destination in every lane of a list. -/
def Group.wrLanes (g : Group) (o : Opd) (f : Lane → List Word) : List Lane → Group
  | [] => g
  | L :: Ls => (g.wrList o 0 L (f L)).wrLanes o f Ls

/-- The executing lanes write a vector destination. -/
def State.setLanes (s : State) (o : Opd) (E : Lanes) (f : Lane → List Word) : State :=
  s.setGrp (s.grp.wrLanes o f (lanesOf E))

/-- The slot writes a scalar destination. -/
def State.setS (s : State) (o : Opd) (w : Word) : State := s.setGrp (s.grp.wrS o 0 w)

/-- The slot writes a 64-bit scalar destination: the named register low (R39). -/
def State.setS64 (s : State) (o : Opd) (w : DWord) : State :=
  s.setGrp ((s.grp.wrS o 0 (w.extractLsb' 0 32)).wrS o 1 (w.extractLsb' 32 32))

/-- The two words of a 64-bit value, low first. -/
def words64 (w : DWord) : List Word := [w.extractLsb' 0 32, w.extractLsb' 32 32]

/-- The bits of a mask register that the lanes `E` own take a new value; the others stand (R43). -/
def mergeMask (old new E : Lanes) : Lanes := (old &&& ~~~ E) ||| (new &&& E)

/-- The slot writes the bits of the lanes `E` of a mask register (R43). -/
def State.setM (s : State) (o : Opd) (E new : Lanes) : State :=
  match o with
  | .v n => s.setGrp { s.grp with m := sput s.grp.m n.val (mergeMask (sget s.grp.m n.val) new E) }
  | _ => s

/-- A mask operand (R61). -/
def State.rdM (s : State) (o : Opd) : Lanes :=
  match o with
  | .v n => s.mreg n.val
  | _ => 0#32

/-! ## Checks at issue (R37 to R40, R46) -/

/-- Whether a position names registers at all, rather than nothing or a mask. -/
def regPos (c : OpClass) : Bool :=
  match c with
  | .none => false
  | .maskSrc => false
  | .maskDst => false
  | _ => true

/-- Whether an operand's first register is a multiple of its width (R39). -/
def opdAlign (p : OpSpec) (o : Opd) : Bool :=
  !regPos p.cls || (match o with
    | .v n => n.val % p.w == 0
    | .s n => n.val % p.w == 0
    | _ => true)

/-- Whether a v operand lies within the allocation (R38). -/
def opdRange (alloc : Nat) (p : OpSpec) (o : Opd) : Bool :=
  !regPos p.cls || (match o with
    | .v n => n.val + p.w ≤ alloc
    | _ => true)

/-- Whether a lane's vx access is legal (R46). -/
def Group.vxOk (g : Group) (k : Fin 4) (w : Nat) (L : Lane) : Bool :=
  let i := (sget g.xindex (k.val * 32 + L)).toNat
  let lim := (sget g.xlimit k.val).toNat
  let e := g.vxEntry k L
  i < lim && e % w == 0 && e + w ≤ (sget g.xbase k.val).toNat + lim

/-- The lanes of `E` whose vx operand fails (R46). -/
def Group.vxFails (g : Group) (E : Lanes) (p : OpSpec) (o : Opd) : Lanes :=
  match o with
  | .vx k => if regPos p.cls then E &&& maskWhere (fun L => !g.vxOk k p.w L) else 0#32
  | _ => 0#32

/-- What the issue checks of an instruction read: its class, the lanes it executes for, its operands, and whether its
modifiers, hold and guard are permitted. -/
structure Form where
  cls : IClass
  lanes : Lanes
  opds : List (OpSpec × Opd)
  modOk : Bool
  /-- a further rule of its own that fails as REG_RANGE -/
  regOk : Bool := true
  deriving DecidableEq, Repr

/-- The lanes a trap's record carries where its rule names none (R265). -/
def Form.mask (f : Form) (s : State) : Lanes :=
  match f.cls with
  | .V => f.lanes
  | .S => s.slot.mask

/-- The lanes that fail INDEX_RANGE for some vx operand. -/
def Form.vxFails (f : Form) (g : Group) : Lanes :=
  f.opds.foldl (fun m p => m ||| g.vxFails f.lanes p.1 p.2) 0#32

/-- The issue checks, in the order of R37; PLANE_ALIGN looks at the word of the lowest occupied plane only (R19). DEDUCED
(log 69), unsafe. -/
def Form.check (f : Form) (s : State) : Option Trap :=
  if !f.opds.all (fun p => opdAlign p.1 p.2) then some { cause := .pairAlign, mask := f.mask s }
  else if !f.opds.all (fun p => opdRange s.grp.alloc p.1 p.2) || !f.regOk then some { cause := .regRange, mask := f.mask s }
  else if !f.modOk then some { cause := .modifier, mask := f.mask s }
  else if f.cls == .S && !s.uni && s.lowPass then some { cause := .planeAlign, mask := f.mask s }
  else if f.vxFails s.grp != 0#32 then some { cause := .indexRange, mask := f.vxFails s.grp }
  else none

/-- Issue an instruction: the checks of R37 in its order, the instruction's own effect, then FETCH_RANGE of falling through, and
the slot goes on. A slot that may not issue stays as it is. -/
def issue (ahead : Bool) (frm : State → Form) (eff : State → Issue) (s : State) : Host.Outcome State Fault Refusal :=
  if !s.ready || s.heldBack ahead then .next s
  else
    match (frm s).check s with
    | some t => .next (s.takeTrap t)
    | none =>
      match eff s with
      | .trap t => .next (s.takeTrap t)
      | .stay t => .next t
      | .wait t => if s.fallsOut then .next (s.takeTrap { cause := .fetchRange, mask := (frm s).mask s }) else .next t
      | .done t => if s.fallsOut then .next (s.takeTrap { cause := .fetchRange, mask := (frm s).mask s }) else .next t.advance

/-- Whether HOLD names a v register the instruction reads (R40). -/
def holdOk (r : RegRow) (x : RegF) : Bool :=
  let isV (p : OpSpec) (o : Opd) : Bool := regPos p.cls && (match o with | .v _ => true | _ => false)
  match x.hold.toNat with
  | 0 => true
  | 1 => isV r.a x.a
  | 2 => isV r.b x.b
  | _ => isV r.c x.c

/-- Whether the source modifiers, CLAMP, SCALE and HOLD are permitted (R40). -/
def regModsOk (r : RegRow) (x : RegF) : Bool :=
  (r.nA || !(x.nega || x.absa)) && (r.nB || !(x.negb || x.absb)) && (r.nC || !(x.negc || x.absc))
    && (r.clampOk || x.clamp == 0#2) && (r.scaleOk || x.scale == 0#5) && holdOk r x

/-- A guard that must be zero (R29). -/
def noGuard (guard : BitVec 3) (ginv : Bool) : Bool := guard == 0#3 && !ginv

/-- The executing lanes of a register-form instruction: the guarded lanes, or the pass's active lanes where the guard has no
meaning (R29). -/
def State.regLanes (s : State) (r : RegRow) (x : RegF) : Lanes :=
  match r.cls with
  | .V => s.execLanes x.guard x.ginv
  | .S => if r.guardOk then s.execLanes x.guard x.ginv else s.passLanes

/-- The issue checks of a register-form instruction; `extra` is a further modifier rule of its own. -/
def regForm (r : RegRow) (x : RegF) (extra : Bool) (s : State) : Form :=
  { cls := r.cls, lanes := s.regLanes r x, opds := [(r.d, x.d), (r.a, x.a), (r.b, x.b), (r.c, x.c)],
    modOk := regModsOk r x && extra && (r.cls == .V || r.guardOk || noGuard x.guard x.ginv) }

/-- Issue a register-form instruction. -/
def regIssue (r : RegRow) (x : RegF) (eff : State → Issue) (s : State) : Host.Outcome State Fault Refusal :=
  issue (r.cls == .V) (regForm r x true) eff s

/-- The executing lanes of an immediate-form instruction. -/
def State.immLanes (s : State) (r : ImmRow) (x : ImmF) : Lanes :=
  match r.cls with
  | .V => s.execLanes x.guard x.ginv
  | .S => s.passLanes

def immForm (r : ImmRow) (x : ImmF) (s : State) : Form :=
  { cls := r.cls, lanes := s.immLanes r x, opds := [(⟨r.d, 1⟩, x.d), (⟨r.a, 1⟩, x.a)],
    modOk := r.cls == .V || noGuard x.guard x.ginv }

/-- Issue an immediate-form instruction. -/
def immIssue (r : ImmRow) (x : ImmF) (eff : State → Issue) (s : State) : Host.Outcome State Fault Refusal :=
  issue (r.cls == .V) (immForm r x) eff s

/-- The issue checks of a branch-form instruction. -/
def brForm (r : BrRow) (x : BrF) (s : State) : Form :=
  { cls := .S, lanes := s.passLanes, opds := [(⟨r.d, 1⟩, x.d), (⟨r.a, 1⟩, x.a)], modOk := noGuard x.guard x.ginv }

/-- Issue a branch-form instruction; `ahead` says whether R21 lets it pass parked lanes. -/
def brIssue (ahead : Bool) (r : BrRow) (x : BrF) (eff : State → Issue) (s : State) : Host.Outcome State Fault Refusal :=
  issue ahead (brForm r x) eff s

/-- The issue checks of an engine-form instruction. -/
def engForm (r : EngRow) (w : Nat) (x : EngF) (s : State) : Form :=
  { cls := .S, lanes := s.passLanes, opds := [(⟨r.d, w⟩, x.d), (⟨r.a, 1⟩, x.a), (⟨r.b, 1⟩, x.b), (⟨r.c, 1⟩, x.c)],
    modOk := noGuard x.guard x.ginv }

/-- Issue an engine-form instruction. -/
def engIssue (r : EngRow) (w : Nat) (x : EngF) (eff : State → Issue) (s : State) : Host.Outcome State Fault Refusal :=
  issue false (engForm r w x) eff s

/-- The issue checks of a system-form instruction; `guardOk` where its guard has a meaning (R76). -/
def sysForm (d b : OpSpec) (guardOk : Bool) (x : SysF) (s : State) : Form :=
  { cls := .S, lanes := if guardOk then s.execLanes x.guard x.ginv else s.passLanes,
    opds := [(d, x.d), (b, x.b)], modOk := guardOk || noGuard x.guard x.ginv }

/-- Issue a system-form instruction. -/
def sysIssue (d b : OpSpec) (guardOk : Bool) (x : SysF) (eff : State → Issue) (s : State) :
    Host.Outcome State Fault Refusal :=
  issue false (sysForm d b guardOk x) eff s

end Sys2Proof.Machine
end

