-- ==== Sys2Proof/Machine/Flags.lean ====
section
/-! DEFINITION. Flag computations and the shared shapes of per-lane instructions: what a lane reads, the events of R52 with
their trap rule (R53, R84, R149), and the issue of an instruction given by a function of one lane. -/

namespace Sys2Proof.Machine

/-- The events of one lane, numbered as LANE_FLAGS numbers them (R52). -/
abbrev Events := BitVec 8

def evDZ : Events := 1#8
def evIOV : Events := 2#8
def evNV : Events := 4#8
def evOF : Events := 8#8
def evUF : Events := 16#8
def evNX : Events := 32#8
def evFDZ : Events := 64#8
def evQSAT : Events := 128#8

/-- The causes of the events in the order they are reported (R84, R149). -/
def eventCauses : List (Events × Cause) :=
  [(evDZ, .intDivzero), (evIOV, .intOverflow), (evNV, .fpInvalid), (evFDZ, .fpDivzero), (evOF, .fpOverflow),
   (evUF, .fpUnderflow), (evNX, .fpInexact), (evQSAT, .quantSat)]

/-- What a lane of an instruction reads. -/
structure LaneEnv where
  /-- register `j` of an operand -/
  rd : Opd → Nat → Word
  /-- the lane's bit of a mask register -/
  m : Nat → Bool
  /-- rounding mode FP_MODE.RM (R54) -/
  rm : BitVec 2

def LaneEnv.rd64 (e : LaneEnv) (o : Opd) : DWord := e.rd o 1 ++ e.rd o 0

/-- What lane `L` of the issuing slot reads. -/
def State.env (s : State) (L : Lane) : LaneEnv :=
  { rd := fun o j => s.grp.rd o j L, m := fun n => laneIn (s.mreg n) L, rm := s.grp.fpMode }

/-- The lanes with an enabled event (R53). -/
def trapLanes (en : Events) (E : Lanes) (ev : Lane → Events) : Lanes :=
  E &&& maskWhere fun L => ev L &&& en != 0#8

/-- The cause reported: the first, in order, whose event is enabled in a lane of the trap set (R84, R149). -/
def trapCause (en : Events) (T : Lanes) (ev : Lane → Events) : Cause :=
  ((eventCauses.find? fun p => (lanesOf T).any fun L => ev L &&& en &&& p.1 != 0#8).map Prod.snd).getD .fpInvalid

/-- OR events into LANE_FLAGS of the lanes listed (R52). -/
def Group.orFlags (g : Group) (ev : Lane → Events) : List Lane → Group
  | [] => g
  | L :: Ls => { g with laneFlags := sput g.laneFlags L (sget g.laneFlags L ||| (ev L).setWidth 32) }.orFlags ev Ls

/-- Results with events: the precise trap of R53, or every lane's result and flags. -/
def State.writeEv (s : State) (o : Opd) (E : Lanes) (f : Lane → List Word × Events) : Issue :=
  let ev := fun L => (f L).2
  let T := trapLanes s.grp.trapEn E ev
  if T != 0#32 then .trap { cause := trapCause s.grp.trapEn T ev, mask := T }
  else .done (s.setGrp ((s.grp.wrLanes o (fun L => (f L).1) (lanesOf E)).orFlags ev (lanesOf E)))

/-- A function of one lane that raises no event. -/
abbrev LanePure := LaneEnv → List Word
/-- A function of one lane with its events. -/
abbrev LaneFn := LaneEnv → List Word × Events
/-- A condition of one lane. -/
abbrev LaneCond := LaneEnv → Bool

/-- A class-V register-form instruction without events: it changes only its group's registers, and has no memory effect and no
order against memory accesses (R57). -/
def vecPlain (r : RegRow) (x : RegF) (f : LanePure) (s : State) : Host.Outcome State Fault Refusal :=
  regIssue r x (fun s => .done (s.setLanes x.d (s.execLanes x.guard x.ginv) fun L => f (s.env L))) s

/-- A class-V register-form instruction with events: its group's registers, flags or trap, and no memory effect or order (R57). -/
def vecEv (r : RegRow) (x : RegF) (f : LaneFn) (s : State) : Host.Outcome State Fault Refusal :=
  regIssue r x (fun s => s.writeEv x.d (s.execLanes x.guard x.ginv) fun L => f (s.env L)) s

/-- A class-V immediate-form instruction without events. -/
def vecImmPlain (r : ImmRow) (x : ImmF) (f : LanePure) (s : State) : Host.Outcome State Fault Refusal :=
  immIssue r x (fun s => .done (s.setLanes x.d (s.execLanes x.guard x.ginv) fun L => f (s.env L))) s

/-- A class-V immediate-form instruction with events. -/
def vecImmEv (r : ImmRow) (x : ImmF) (f : LaneFn) (s : State) : Host.Outcome State Fault Refusal :=
  immIssue r x (fun s => s.writeEv x.d (s.execLanes x.guard x.ginv) fun L => f (s.env L)) s

/-- How a compare enters its mask bit: set, AND or OR (R81). -/
def combine (comb : BitVec 2) (old new : Lanes) : Lanes :=
  if comb = 1#2 then old &&& new else if comb = 2#2 then old ||| new else new

/-- A compare to a mask: the bits of the executing lanes are set from the condition (R81, R43). -/
def vecCmp (r : RegRow) (x : RegF) (comb : BitVec 2) (c : LaneCond) (s : State) : Host.Outcome State Fault Refusal :=
  regIssue r x (fun s =>
    let E := s.execLanes x.guard x.ginv
    .done (s.setM x.d E (combine comb (s.rdM x.d) (maskWhere fun L => c (s.env L))))) s

/-- A float compare to a mask, whose lanes may raise an event (R153). -/
def vecCmpEv (r : RegRow) (x : RegF) (comb : BitVec 2) (c : LaneEnv → Bool × Events) (s : State) :
    Host.Outcome State Fault Refusal :=
  regIssue r x (fun s =>
    let E := s.execLanes x.guard x.ginv
    let ev := fun L => (c (s.env L)).2
    let T := trapLanes s.grp.trapEn E ev
    if T != 0#32 then .trap { cause := trapCause s.grp.trapEn T ev, mask := T }
    else
      let s := s.setM x.d E (combine comb (s.rdM x.d) (maskWhere fun L => (c (s.env L)).1))
      .done (s.setGrp (s.grp.orFlags ev (lanesOf E)))) s

/-- A class-S register-form instruction that writes one scalar register, with no memory effect and no order against memory
accesses (R57). -/
def sclPlain (r : RegRow) (x : RegF) (f : State → Word) (s : State) : Host.Outcome State Fault Refusal :=
  regIssue r x (fun s => .done (s.setS x.d (f s))) s

/-- A class-S immediate-form instruction that writes one scalar register. -/
def sclImm (r : ImmRow) (x : ImmF) (f : State → Word) (s : State) : Host.Outcome State Fault Refusal :=
  immIssue r x (fun s => .done (s.setS x.d (f s))) s

end Sys2Proof.Machine
end

