-- ==== Sys2Proof/Machine/Translate.lean ====
section
/-! DEFINITION. Physical addresses (R94, R95), translation (R104 to R110) and instruction fetch (R25 to R27). -/

namespace Sys2Proof.Machine

/-! ## Physical addresses -/

/-- Package field of a physical address (R94). -/
def paPkg (pa : Nat) : Nat := pa / 2 ^ 43 % 512
/-- Package offset of a physical address (R94). -/
def paOff (pa : Nat) : Nat := pa % 2 ^ 43
/-- Package station index of a package offset (R95). -/
def offStation (off : Nat) : Nat := off / 2 ^ 32 % 128
/-- Pseudo-channel of the package of a package offset: 64 a stack (R95). -/
def offChannel (off : Nat) : Nat := offStation off / 16 * 64 + offStation off % 16 * 4 + off / 2 ^ 7 % 4

/-- The home slice number of a line, die × 16 + slice (R95). -/
def homeSlice (pa : Nat) : Nat :=
  let f (lo : Nat) : Nat := pa / 2 ^ lo % 64
  f 7 ^^^ f 13 ^^^ f 19 ^^^ f 25 ^^^ f 31 ^^^ f 37 ^^^ f 43 ^^^ (pa / 2 ^ 49 % 8)

/-- Whether a physical address is this package's own memory, below 512 GiB (R94). -/
def State.ownPa (s : State) (pa : Nat) : Bool := paPkg pa == s.pkgId && paOff pa < 2 ^ 39
def isHost (pa : Nat) : Bool := paPkg pa == 511

/-- Bytes of this package's memory. -/
def State.physRead (s : State) (pa n : Nat) : List Byte := readBytes s.mem (paOff pa) n

/-- The sector of an address in its line, as a bit. -/
def secBit (pa : Nat) : BitVec 2 := if pa / 64 % 2 = 0 then 1#2 else 2#2

/-- The line L2 holds, and the line the memory-side caches hold, where they do: otherwise none of its sectors is valid. -/
def State.l2At (s : State) (k : Nat) : L2Line := (tget? s.l2 k).getD ⟨0#2, 0#2, 0#2, []⟩
def State.mscAt (s : State) (k : Nat) : MscLine := (tget? s.msc k).getD ⟨0#2, 0#2, 0#2⟩

/-- Whether L2, or a memory-side cache, holds a sector, numbered in the package. -/
def State.l2Has (s : State) (k : Nat) : Bool := (s.l2At (k / 2)).valid &&& secBit (k * 64) != 0#2
def State.mscHas (s : State) (k : Nat) : Bool := (s.mscAt (k / 2)).valid &&& secBit (k * 64) != 0#2

/-- Whether a sector is poisoned below L2: in the memory-side cache's copy where there is one, otherwise in DRAM (R103). -/
def State.badBelow (s : State) (k : Nat) : Bool :=
  if s.mscHas k then (s.mscAt (k / 2)).bad &&& secBit (k * 64) != 0#2 else s.poison.contains k

/-- Whether a sector is poisoned where its home slice supplies it: in L2's copy, where there is one (R103). -/
def State.badSector (s : State) (k : Nat) : Bool :=
  if s.l2Has k then (s.l2At (k / 2)).bad &&& secBit (k * 64) != 0#2 else s.badBelow k

/-- Whether the 64-byte sector of an address is poisoned at its home (R103). -/
def State.poisoned (s : State) (pa : Nat) : Bool := s.badSector (paOff pa / 64)

/-- Insert into a rising list without repeats. -/
def insertNat (k : Nat) : List Nat → List Nat
  | [] => [k]
  | a :: as => if k < a then k :: a :: as else if k = a then a :: as else a :: insertNat k as

/-! ## Page-table walk (R104, R105) -/

/-- A 64-bit page-table entry. -/
abbrev Pte := DWord

def Pte.fld (e : Pte) (lo n : Nat) : Nat := (e.extractLsb' lo n).toNat
def Pte.valid (e : Pte) : Bool := e.getLsbD 0

/-- Whether a leaf's reserved fields, kind and frame alignment are good for its size (R104). -/
def leafOk (e : Pte) : Bool :=
  e.fld 52 12 == 0 && e.fld 13 3 == 0 && e.fld 1 2 != 3
    && (e.fld 10 2 != 1 || e.fld 16 5 == 0) && (e.fld 10 2 != 2 || e.fld 16 14 == 0)

/-- Whether a table descriptor's reserved fields are good at its level; TSUB only at level 3 (R105). -/
def descOk (e : Pte) (level : Nat) : Bool :=
  e.fld 52 12 == 0 && e.fld 8 2 == 0 && e.fld 1 3 == 0 && (level == 3 || e.fld 4 4 == 0)

/-- The SIZE a leaf must have at a level: none at level 1 (R105). -/
def leafLevel (e : Pte) : Nat := if e.fld 10 2 = 2 then 2 else if e.fld 10 2 = 1 then 3 else 4

/-- The table a descriptor names (R105). -/
def descTable (e : Pte) : Nat := e.fld 12 40 * 4096 + e.fld 4 4 * 256

/-- The walk from a table at a level, through the index shifts of the levels still to come; log2 of the page size goes with
the leaf (R105). -/
def walkFrom (s : State) (va : Nat) : (level tbl : Nat) → List (Nat × Nat) → Except Cause (Pte × Nat)
  | _, _, [] => .error .pteFormat
  | level, tbl, (shift, bits) :: rest =>
    let pa := tbl + 8 * (va / 2 ^ shift % 2 ^ bits)
    if !s.ownPa tbl || s.poisoned pa then .error .walkError
    else
      let e : Pte := BitVec.ofNat 64 (leNat (s.physRead pa 8))
      if !e.valid then .error .pageAbsent
      else if e.fld 10 2 = 3 then
        if level = 4 || !descOk e level then .error .pteFormat
        else walkFrom s va (level + 1) (descTable e) rest
      else if leafLevel e != level || !leafOk e then .error .pteFormat
      else .ok (e, shift)

/-- The levels of R105 with the bits of the address above each table's reach: level, shift of that reach. -/
def tableReach : List (Nat × Nat) := [(4, 21), (3, 30), (2, 39)]

/-- The index fields of the walk from a level on (R105). -/
def walkFields (level : Nat) : List (Nat × Nat) := [(39, 9), (30, 9), (21, 9), (16, 5)].drop (level - 1)

/-- The die of a core (R8). -/
def dieOf (core : Nat) : Nat := core / 80

/-- The descriptor of the deepest table for an address that the walkers of a core's die hold (R108). -/
def State.descHit (s : State) (core : Option Nat) (c va : Nat) : Option DescEntry :=
  match core with
  | none => none
  | some n =>
    tableReach.findSome? fun r => s.descs.find? fun e =>
      e.die == dieOf n && e.ctx == c && e.level == r.1 && e.vpage == va / 2 ^ r.2

/-- The walk for an access: from the deepest table whose descriptor a walker holds, otherwise from the context's root
(R105, R108). -/
def walk (s : State) (core : Option Nat) (c va : Nat) : Except Cause (Pte × Nat) :=
  match s.descHit core c va with
  | some e => walkFrom s va e.level (descTable e.desc) (walkFields e.level)
  | none => walkFrom s va 1 (s.ctxAt c).root (walkFields 1)

/-- The leaf that some TLB entries hold for a context and address (R108). -/
def tlbFind (es : List TlbEntry) (c va : Nat) : Option TlbEntry :=
  es.find? fun e => e.ctx == c && va / 2 ^ e.log2 == e.vpage

/-- The leaf a core's TLB holds, otherwise its quad's (R108). An access that no core makes uses none. -/
def State.tlbHit (s : State) (core : Option Nat) (c va : Nat) : Option (Pte × Nat) :=
  match core with
  | none => none
  | some n =>
    ((tlbFind (s.coreAt n).tlb c va).orElse fun _ => tlbFind (s.quadAt (quadOfCore n)).tlb c va).map fun e => (e.leaf, e.log2)

/-- What an access asks of a page (R106). -/
inductive AccKind where
  | load | roLoad | store | atomic | fetch
  deriving DecidableEq, Repr

/-- A translation: physical address, page kind (0 RC, 1 SO, 2 UO), and whether sinking is permitted. -/
structure Xlat where
  pa : Nat
  kind : Nat
  sk : Bool
  deriving DecidableEq, Repr

/-- Whether a near command that a leaving station had accepted before has not ended (R280). -/
def State.nearAtStation (s : State) (st : Nat) : Bool := s.near.any fun p => p.2.early && (p.2.cmd.extractLsb' 8 7).toNat == st

/-- Whether a partition reaches a station: it owns it, and where the station is leaving, near commands accepted there still run
(R278, R280). -/
def State.ownsStation (s : State) (part st : Nat) : Bool :=
  match s.cap? 2 st with
  | some (_, c) => c.owner == part && (c.state != 2 || s.nearAtStation st)
  | none => false

/-- The cause of a physical address that names nothing, or nothing this context may reach (R94, R106, R295). -/
def State.paCheck (s : State) (c pa : Nat) : Option Cause :=
  let p := paPkg pa
  if p = 511 then none
  else if 432 ≤ p || 2 ^ 39 ≤ paOff pa then some .paRange
  else if p = s.pkgId then
    if s.ownsStation (s.ctxAt c).part (offStation (paOff pa)) then none else some .paRange
  else if !s.porch.presence.getLsbD p then some .paRange
  else if ((tget? s.porch.routes p).getD []).any fun l => s.porch.linksUp.getLsbD l then none
  else some .fabricUnreachable

/-- The checks of R106, in the table's order. -/
def permCheck (k : AccKind) (e : Pte) : Option Cause :=
  let isRead := k == .load || k == .roLoad || k == .atomic
  let isWrite := k == .store || k == .atomic
  if isRead && !e.getLsbD 3 then some .readPerm
  else if k == .roLoad && !e.getLsbD 12 then some .roPath
  else if isWrite && !e.getLsbD 4 then some .writePerm
  else if isWrite && e.getLsbD 6 && !e.getLsbD 7 then some .writeDirty
  else if k == .fetch && !e.getLsbD 5 then some .fetchPerm
  else if k == .atomic && e.fld 1 2 == 2 then some .atomicKind
  else none

/-- Translate one access of a context, made by a core or by no core (R105, R106). -/
def translate (s : State) (core : Option Nat) (c va : Nat) (k : AccKind) : Except Cause Xlat :=
  match (match s.tlbHit core c va with | some r => Except.ok r | none => walk s core c va) with
  | .error e => .error e
  | .ok (leaf, log2) =>
    match permCheck k leaf with
    | some e => .error e
    | none =>
      let pa := leaf.fld 16 36 * 2 ^ 16 + va % 2 ^ log2
      match s.paCheck c pa with
      | some e => .error e
      | none => .ok ⟨pa, leaf.fld 1 2, leaf.getLsbD 8⟩

/-- The leaf that a virtual address reaches, whatever its permissions. -/
def leafOf (s : State) (core : Option Nat) (c va : Nat) : Option (Pte × Nat) :=
  match s.tlbHit core c va with
  | some r => some r
  | none => match walk s core c va with | .ok r => some r | .error _ => none

/-- The newest entries that fit. -/
def keepLast {α : Type} (n : Nat) (l : List α) : List α := l.drop (l.length - n)

/-- The valid table descriptors that a walk reads from a level on, with the level of the table each names. -/
def walkDescs (s : State) (va : Nat) : (level tbl : Nat) → List (Nat × Nat) → List (Nat × Pte)
  | _, _, [] => []
  | level, tbl, (shift, bits) :: rest =>
    let e : Pte := BitVec.ofNat 64 (leNat (s.physRead (tbl + 8 * (va / 2 ^ shift % 2 ^ bits)) 8))
    if e.valid && e.fld 10 2 == 3 then (level + 1, e) :: walkDescs s va (level + 1) (descTable e) rest else []

/-- The walkers of a die hold the descriptors of a walk that ended with a leaf (R108). DESIGN CHOICE (log 13), unsafe. -/
def State.descFill (s : State) (core c va : Nat) : State :=
  if (s.descHit (some core) c va).isSome then s
  else
    { s with descs := s.descs ++ (walkDescs s va 1 (s.ctxAt c).root (walkFields 1)).map fun p =>
        ⟨dieOf core, c, p.1, va / 2 ^ (48 - 9 * (p.1 - 1)), p.2⟩ }

/-- The TLBs of a core and of its quad hold the leaf of an address from then on, each with the entries filled last that it has
room for (R108). DESIGN CHOICE (log 13), unsafe. -/
def State.tlbFill (s : State) (core c va : Nat) : State :=
  let k := quadOfCore core
  let inCore (s : State) (e : TlbEntry) : State :=
    s.setCoreAt core { s.coreAt core with tlb := keepLast 128 ((s.coreAt core).tlb ++ [e]) }
  match tlbFind (s.coreAt core).tlb c va with
  | some _ => s
  | none =>
    match tlbFind (s.quadAt k).tlb c va with
    | some e => inCore s e
    | none =>
      match walk s (some core) c va with
      | .ok (leaf, log2) =>
        let e : TlbEntry := ⟨c, va / 2 ^ log2, log2, leaf⟩
        let s := s.descFill core c va
        inCore (s.setQuadAt k { s.quadAt k with tlb := keepLast 4096 ((s.quadAt k).tlb ++ [e]) }) e
      | .error _ => s

def State.tlbFills (s : State) (core c : Nat) (vas : List Nat) : State := vas.foldl (fun t va => t.tlbFill core c va) s

/-! ## Fetch (R25 to R27, R110) -/

/-- Virtual address of a fetch line of a plane (R25). -/
def Launch.lineVa (l : Launch) (plane line : Nat) : Nat := (l.code + plane * l.stride + line * 64) % 2 ^ 64

/-- The cause of a fetch whose translation fails: R110 has five, and no route to a present package is none of them; the fetch then
faults PA_RANGE, as one that no package answers does. DESIGN CHOICE (log 70), unsafe. -/
def fetchCause (c : Cause) : Cause := if c = .fabricUnreachable then .paRange else c

/-- The 64 bytes of a fetch line, or the fetch fault (R110). A line of another package or of the host window holds bytes the
state does not (log 70, DESIGN CHOICE, safe). A line address at or above 2^48 faults PAGE_ABSENT: R110 names no cause for it
(log 70, DESIGN CHOICE, unsafe). -/
def State.fetchLine (s : State) (g : Group) (plane line : Nat) : Except Cause (List Byte) :=
  let va := (s.lncAt g.launch).lineVa plane line
  if 2 ^ 48 ≤ va then .error .pageAbsent
  else
    match translate s (some g.core) g.ctx va .fetch with
    | .error e => .error (fetchCause e)
    | .ok x =>
      .ok (if s.ownPa x.pa then s.physRead x.pa 64 else (List.range 64).map fun i => Config.farCode g.launch (x.pa + i))

/-- The line word of a fetch line (R25, R26). -/
def lineWord (bs : List Byte) : Word := BitVec.ofNat 32 (leNat (bs.drop 60))
/-- The word of a slot of a fetch line (R25). -/
def slotWord (bs : List Byte) (k : Nat) : IWord := BitVec.ofNat 96 (leNat ((bs.drop (12 * k)).take 12))

/-- Parity of a bit vector: the XOR of its bits (R26). -/
def parity {n : Nat} (x : BitVec n) : Bool := (List.range n).foldl (fun b i => b ^^ x.getLsbD i) false

/-- The parity of a line word's bits 25:0 fails (R26). -/
def badParity (lw : Word) : Bool := parity (lw.extractLsb' 0 26) != lw.getLsbD 31
/-- Reserved bits of a line word are set (R26). -/
def badReserved (lw : Word) : Bool := lw.extractLsb' 14 12 != 0#12

/-- What a fetch at the slot's position gives. -/
inductive Fetched where
  | word (w : IWord) (uni : Bool)
  /-- a trap of R25 or R27: with the UNI bit of the slot and, where the line was fetched, the word of the pass -/
  | trap (c : Cause) (uni : Bool) (w : Option IWord)
  /-- a fetch fault: the plane's line address goes into the record -/
  | fault (c : Cause) (va : Nat)
  deriving DecidableEq, Repr

/-- Fetch the word the slot is about to issue: the line of every occupied plane is checked, the lowest one's line word says
whether the slot is uniform, and the word of the pass is checked against its own line's parity (R18, R27). A slot that stands out
of its plane, or at a slot number above 4, though no branch or fall-through moved it there, traps FETCH_RANGE at the fetch: R25
names no trap for it. DESIGN CHOICE (log 79), unsafe. -/
def State.fetch (s : State) : Fetched :=
  let g := s.grp
  let sl := s.slot
  let line := lineOf sl.offset
  let k := slotIn sl.offset
  let occ := g.occupied sl.mask
  let low := occ.headD 0#2
  let read (p : BitVec 2) := s.fetchLine g p.toNat line
  if !s.lnc.lineOk line || 4 < k then .trap .fetchRange true none else
  match occ.find? fun p => (match read p with | .error _ => true | .ok _ => false) with
  | some p =>
    match read p with
    | .error c => .fault c (s.lnc.lineVa p.toNat line)
    | .ok _ => .trap .lineParity true none
  | none =>
    let bytes (p : BitVec 2) : List Byte := match read p with | .ok bs => bs | .error _ => []
    let lw (p : BitVec 2) : Word := lineWord (bytes p)
    let uni := (lw low).getLsbD (5 + k)
    let p := if uni then low else (occ.find? fun q => sl.pcur ≤ q).getD low
    let w := slotWord (bytes p) k
    if (occ.any fun q => badParity (lw q)) || parity w != (lw p).getLsbD (26 + k) then .trap .lineParity uni (some w)
    else if occ.any fun q => badReserved (lw q) then .trap .lineReserved uni (some w)
    else .word w uni

end Sys2Proof.Machine
end

