-- ==== Sys2Proof/Machine/Perform.lean ====
section
/-! DEFINITION. The lines that L2 and the memory-side caches hold (R100, R101, R111), stores reaching memory (R103, R115) and the
stores that are performed after they have retired (R123, R130). -/

namespace Sys2Proof.Machine

/-! ## Residency and the caches below L1 (R100, R101, R111) -/

/-- Whether a packet's sink tag holds a line, by physical address ÷ 128 (R112, R174). -/
def State.tagHeld (s : State) (line : Nat) : Bool :=
  s.packets.any fun p => p.2.tag && p.2.line == line && p.2.phase == .accepted

/-- The physical line, address ÷ 128, of a line of this package. -/
def State.ownLine (s : State) (k : Nat) : Nat := s.pkgId * 2 ^ 36 + k

/-- The lines of this package that a range of a context's virtual addresses translates to, as pieces [first, last): by 64 KiB. -/
def State.rangeLines (s : State) (c base size : Nat) : List (Nat × Nat) :=
  let first := base / 65536
  (List.range ((base + size + 65535) / 65536 - first)).filterMap fun i =>
    let va := (first + i) * 65536
    match leafOf s none c va with
    | some (e, log2) =>
      let pa := e.fld 16 36 * 2 ^ 16 + va % 2 ^ log2
      let lo := max base va
      let hi := min (base + size) (va + 65536)
      if s.ownPa pa then some ((paOff pa + (lo - va)) / 128, (paOff pa + (hi - va)) / 128) else none
    | none => none

/-- Whether a range of lines in pieces has a line. -/
def inPieces (ps : List (Nat × Nat)) (k : Nat) : Bool := ps.any fun p => decide (p.1 ≤ k) && decide (k < p.2)

/-- The handles whose ranges hold a line, each with its context, whoever accesses the line (R111). -/
def State.marksOf (s : State) (k : Nat) : List (Nat × Nat) :=
  s.ctxs.flatMap fun c =>
    (c.2.handles.filter fun p => inPieces (s.rangeLines c.1 p.2.base p.2.size) k).map fun p => (c.1, p.1)

/-- The priority of a handle's lines; an unbound handle marks nothing (R111, R112). -/
def State.handlePrio (s : State) (m : Nat × Nat) : Nat :=
  match tget? (s.ctxAt m.1).handles m.2 with
  | some r => if r.demoted then 0 else r.prio
  | none => 1

/-- The priority a line's marks give it: the highest of them, 1 for a line of no handle (R111). -/
def State.linePrio (s : State) (x : L2Line) : Nat :=
  match x.marks with
  | [] => 1
  | m :: ms => ms.foldl (fun n j => max n (s.handlePrio j)) (s.handlePrio m)

/-- The context to whose quota a line of priority 3 counts: that of the first handle that gives it (R111). -/
def State.lineCtx (s : State) (x : L2Line) : Nat := ((x.marks.find? fun m => s.handlePrio m == 3).getD (0, 0)).1

/-- The rank of a line among the lines L2 holds: priority 3 beyond its context's quota, in lines of 64 KiB ÷ 128, ranks as 2
(R111). DESIGN CHOICE (log 12), unsafe. -/
def State.lineRank (s : State) (k : Nat) (x : L2Line) : Nat :=
  let n := s.linePrio x
  if n < 3 then n
  else
    let c := s.lineCtx x
    let before := (s.l2.takeWhile fun p => p.1 != k).filter fun p => s.linePrio p.2 == 3 && s.lineCtx p.2 == c
    if before.length < (s.ctxAt c).p3quota * 512 then 3 else 2

/-- Lines a slice of L2 and a station's memory-side cache hold: 4 MiB each (R7). -/
def sliceLines : Nat := 32768

/-- The slice of a line of this package (R95). -/
def State.lineSlice (s : State) (k : Nat) : Nat := homeSlice (s.ownLine k * 128)

/-- The station of a line of this package (R95). -/
def lineStation (k : Nat) : Nat := offStation (k * 128)

/-- The poisoned sectors of a line in DRAM (R103). -/
def State.dramBad (s : State) (k : Nat) : BitVec 2 :=
  (if s.poison.contains (2 * k) then 1#2 else 0#2) ||| (if s.poison.contains (2 * k + 1) then 2#2 else 0#2)

/-- Sectors of a line are written to DRAM, some of them poisoned (R103). -/
def State.toDram (s : State) (k : Nat) (secs bad : BitVec 2) : State :=
  let out (i : Nat) : Bool := secs.getLsbD i && !bad.getLsbD i
  let keep := s.poison.filter fun q => !(q / 2 == k && out (q % 2))
  let add := ([0, 1].filter fun i => secs.getLsbD i && bad.getLsbD i).map fun i => 2 * k + i
  { s with poison := add.foldl (fun l q => insertNat q l) keep }

/-- A line leaves a memory-side cache, its dirty sectors going to DRAM (R101). -/
def State.mscDrop (s : State) (k : Nat) : State :=
  match tget? s.msc k with
  | none => s
  | some x => State.toDram { s with msc := tdel s.msc k } k x.dirty x.bad

/-- A station's memory-side cache takes sectors of a line: the dirty ones come from above, `bad` of them poisoned; the others come from
DRAM where it does not hold them. Without room it gives up the line it filled first (R101, R103). DESIGN CHOICE (log 12), unsafe. -/
def State.mscPut (s : State) (k : Nat) (valid dirty bad : BitVec 2) : State :=
  let x := s.mscAt k
  let mine := s.msc.filter fun p => lineStation p.1 == lineStation k
  let t := if (tget? s.msc k).isSome || mine.length < sliceLines then s else s.mscDrop ((mine.head?.map Prod.fst).getD k)
  let filled := s.dramBad k &&& valid &&& ~~~ x.valid &&& ~~~ dirty
  { t with msc := tput t.msc k ⟨x.valid ||| valid, x.dirty ||| dirty, (x.bad &&& ~~~ dirty) ||| (bad &&& dirty) ||| filled⟩ }

/-- An EVICT waits no more for a line that has left L2; where it was the last, its handle unbinds (R112). -/
def State.evictDone (s : State) (k : Nat) : State :=
  let s : State := { s with evictions := s.evictions.filter fun j => j != k }
  let waits (h : Handle) : Bool := match h.evicting with | some ls => ls.contains k | none => false
  if s.ctxs.all fun c => c.2.handles.all fun h => !waits h.2 then s
  else
    let due := s.ctxs.flatMap fun c => (c.2.handles.filter fun h => waits h.2).map fun h => Instr.resEvictDone c.1 h.1
    let left (h : Handle) : Handle := { h with evicting := h.evicting.map fun ls => ls.filter fun j => j != k }
    { s with ctxs := tmap s.ctxs fun _ (c : Ctx) => { c with handles := tmap c.handles fun _ h => left h }
             agenda := s.agenda ++ due }

/-- A line leaves L2, its dirty sectors going to the memory-side cache (R100, R101). -/
def State.l2Drop (s : State) (k : Nat) : State :=
  match tget? s.l2 k with
  | none => s
  | some x =>
    let t : State := State.evictDone { s with l2 := tdel s.l2 k } k
    if x.dirty = 0#2 then t else t.mscPut k x.dirty x.dirty x.bad

/-- The line of a slice that makes room: of the lowest rank, the first filled, and never one with an outstanding sink tag (R111). The
spec gives no number of sets: a slice is one set. DESIGN CHOICE (log 12), unsafe. -/
def State.l2Victim (s : State) (slice : Nat) : Option Nat :=
  let ls := s.l2.filter fun p => s.lineSlice p.1 == slice && !s.tagHeld (s.ownLine p.1)
  let low := ls.foldl (fun n p => min n (s.lineRank p.1 p.2)) 3
  (ls.find? fun p => s.lineRank p.1 p.2 == low).map Prod.fst

/-- A slice has room for a line. -/
def State.l2Room (s : State) (k : Nat) : State :=
  if (tget? s.l2 k).isSome || (s.l2.filter fun p => s.lineSlice p.1 == s.lineSlice k).length < sliceLines then s
  else match s.l2Victim (s.lineSlice k) with | some v => s.l2Drop v | none => s

/-- An access of a context, or of none, reaches a line's home slice: the sectors it reads are filled through the memory-side cache
where L2 does not hold them, those it stores whole are not and are poisoned no more, those it stores become dirty, and the line takes
its marks (R100, R101, R103, R111). -/
def State.l2Use (s : State) (k : Nat) (reads whole dirty : BitVec 2) : State :=
  let x := s.l2At k
  let miss := reads &&& ~~~ x.valid
  let u := if miss = 0#2 then s else s.mscPut k miss 0#2 0#2
  let bad := (x.bad ||| ((u.mscAt k).bad &&& miss)) &&& ~~~ whole
  let t := u.l2Room k
  { t with l2 := tput t.l2 k ⟨x.valid ||| reads ||| whole, x.dirty ||| dirty, bad, s.marksOf k⟩ }

/-- L2's copy of a sector, the memory-side cache's, or DRAM's sector, is poisoned (R103). -/
def State.spoilL2 (s : State) (k : Nat) : State :=
  if s.l2Has k then { s with l2 := tmod s.l2 (k / 2) fun x => { x with bad := x.bad ||| secBit (k * 64) } } else s
def State.spoilMsc (s : State) (k : Nat) : State :=
  if s.mscHas k then { s with msc := tmod s.msc (k / 2) fun x => { x with bad := x.bad ||| secBit (k * 64) } } else s
def State.spoilDram (s : State) (k : Nat) : State := { s with poison := insertNat k s.poison }

/-- A sector is poisoned in the copy that its home slice supplies (R103). -/
def State.spoilSector (s : State) (k : Nat) : State :=
  if s.l2Has k then s.spoilL2 k else if s.mscHas k then s.spoilMsc k else s.spoilDram k

/-- A read of this package's memory at its home slice. -/
def State.touch (s : State) (pa : Nat) : State := s.l2Use (paOff pa / 128) (secBit pa) 0#2 0#2

/-- The 64-byte sectors that a range of bytes lies in. -/
def sectorList (a n : Nat) : List Nat := if n = 0 then [] else (List.range ((a + n - 1) / 64 + 1 - a / 64)).map fun i => a / 64 + i

/-- A read of a range of this package's memory. -/
def State.touchRange (s : State) (pa n : Nat) : State := (sectorList pa n).foldl (fun (t : State) k => t.touch (k * 64)) s

/-! ## Performing stores -/

/-- A store of some bytes at a physical address of this package. -/
abbrev Write := Nat × List Byte

/-- Whether a sector lies whole within the bytes some writes store. -/
def coversSector (ws : List Write) (sec : Nat) : Bool :=
  (List.range 64).all fun i => ws.any fun w => decide (w.1 ≤ sec * 64 + i) && decide (sec * 64 + i < w.1 + w.2.length)

/-- Stores at package offsets reach L2: a sector stored whole is filled without a read below (R100). -/
def State.l2Store (s : State) (offs : List Write) : State :=
  ((offs.flatMap fun w => sectorList w.1 w.2.length).eraseDups).foldl (fun (t : State) k =>
    let b := secBit (k * 64)
    if coversSector offs k then t.l2Use (k / 2) 0#2 b b else t.l2Use (k / 2) b 0#2 b) s

/-- The writes of one instruction reach memory, in their order; a sector written whole loses its poison (R103). -/
def State.store (s : State) (ws : List Write) : State :=
  State.l2Store { s with mem := ws.foldl (fun (m : Memory) w => writeBytes m (paOff w.1) w.2) s.mem }
    (ws.map fun w => (paOff w.1, w.2))

/-- Bytes a request from another package reaches. -/
def reqSpan : RemoteReq → Nat × Nat
  | .load pa n => (pa, n)
  | .store pa d _ => (pa, d.length)
  | .atom _ w pa _ => (pa, if w then 8 else 4)
  | .packet p => (p.line * 128, 128)

/-- Two lists of spans share a byte; an empty span has none. -/
def meets (xs ys : List (Nat × Nat)) : Bool :=
  xs.any fun x => ys.any fun y =>
    decide (0 < x.2) && decide (0 < y.2) && decide (x.1 < y.1 + y.2) && decide (y.1 < x.1 + x.2)

def PStore.spans (p : PStore) : List (Nat × Nat) := p.writes.map fun w => (w.1, w.2.length)

/-- The whole lines that some bytes lie in. -/
def wholeLines (spans : List (Nat × Nat)) : List (Nat × Nat) :=
  spans.map fun x => (x.1 / 128 * 128, (x.1 + x.2 + 127) / 128 * 128 - x.1 / 128 * 128)

/-- Whether some byte of an access lies in a line that a sink tag holds: the access waits at the home slice (R174). -/
def State.tagHazard (s : State) (spans : List (Nat × Nat)) : Bool :=
  s.packets.any fun p => p.2.tag && p.2.phase == .accepted && meets [(p.2.line * 128, 128)] spans

/-- Fields of a near region entry (R235). -/
def rgnBase (e : BitVec 256) : Nat := (e.extractLsb' 7 45).toNat * 128
def rgnLen (e : BitVec 256) : Nat := (e.extractLsb' 64 40).toNat * 128

/-- Word i of a near command (R238). -/
def nearWord (c : BitVec 512) (i : Nat) : Nat := (c.extractLsb' (32 * i) 32).toNat

/-- The physical footprints of a near command: read and write (R238). -/
def NearCmd.reads (n : NearCmd) : List (Nat × Nat) :=
  [(rgnBase n.rrgn + nearWord n.cmd 1 * 128, nearWord n.cmd 2 * 128)]
def NearCmd.writes (n : NearCmd) : List (Nat × Nat) :=
  [(rgnBase n.wrgn + nearWord n.cmd 3 * 128, nearWord n.cmd 4 * 128)]

/-- Whether an access reaches the write footprint of a near command that has started: the home slice holds it (R241). -/
def State.nearHeld (s : State) (spans : List (Nat × Nat)) : Bool :=
  s.near.any fun p => p.2.started && meets p.2.writes (wholeLines spans)

/-- Whether an access to physical bytes waits at the home slice: a sink tag or a started near command holds a line of it
(R174, R241). -/
def State.lineHeld (s : State) (spans : List (Nat × Nat)) : Bool := s.tagHazard spans || s.nearHeld spans

/-- The addresses that a walk reads from a table at a level on (R105). -/
def walkReads (s : State) (va : Nat) : (tbl : Nat) → List (Nat × Nat) → List Nat
  | _, [] => []
  | tbl, (shift, bits) :: rest =>
    let pa := tbl + 8 * (va / 2 ^ shift % 2 ^ bits)
    let e : Pte := BitVec.ofNat 64 (leNat (s.physRead pa 8))
    pa :: if s.ownPa tbl && e.valid && e.fld 10 2 == 3 then walkReads s va (descTable e) rest else []

/-- What an access reads of the page tables: nothing where a TLB holds its page (R105, R108). -/
def State.walkSpans (s : State) (core : Option Nat) (c va : Nat) : List (Nat × Nat) :=
  if (s.tlbHit core c va).isSome then []
  else
    (match s.descHit core c va with
      | some e => walkReads s va (descTable e.desc) (walkFields e.level)
      | none => walkReads s va (s.ctxAt c).root (walkFields 1)).map fun pa => (pa, 8)

/-- Whether the walk for an access waits at a home slice, which holds every arrival for the line of an entry (R174, R241). -/
def State.walkHeld (s : State) (core : Option Nat) (c : Nat) (vas : List Nat) : Bool :=
  ((s.packets.any fun p => p.2.tag && p.2.phase == .accepted) || s.near.any fun p => p.2.started)
    && vas.any fun va => s.lineHeld (s.walkSpans core c va)

/-- A store of the same core, or of the device, that stands before a store in the queue and shares a byte with it (R130, R133). -/
def State.storeBlocked (s : State) (k : Nat) (p : PStore) : Bool :=
  s.stores.any fun q => q.1 < k && q.2.core == p.core && meets q.2.spans p.spans

/-- A retired store is performed (R123, R133), unless an earlier one to its bytes is not, or its home slice holds a line of it
(R174, R241). -/
def State.performStore (s : State) (k : Nat) : State :=
  match tget? s.stores k with
  | none => s
  | some p => if s.storeBlocked k p || s.lineHeld p.spans then s else { s.store p.writes with stores := tdel s.stores k }

/-- A store of the device itself: where its home slice holds a line of it, or an earlier one to its bytes is held, it is performed once
the line is free (R174, R241). -/
def State.devStore (s : State) (pa : Nat) (bs : List Byte) : State :=
  let p : PStore := ⟨0, .A, none, false, [(pa, bs)]⟩
  if s.lineHeld p.spans || s.storeBlocked s.next p then { s with stores := s.stores ++ [(s.next, p)], next := s.next + 1 }
  else s.store [(pa, bs)]

/-- Every retired store is performed, the oldest first: what a release waits for, cumulatively (R131, R132). No sink tag and no near
command holds a line of a core's store: a packet is accepted, and a command starts, after the stores to its lines (R174, R241). -/
def State.drainAll (s : State) : State :=
  s.stores.foldl (fun (t : State) e =>
    if t.storeBlocked e.1 e.2 || t.lineHeld e.2.spans then { t with stores := t.stores ++ [e] } else t.store e.2.writes)
    { s with stores := [] }

end Sys2Proof.Machine
end

