-- ==== Sys2Proof/Machine/Diverge.lean ====
section
/-! DEFINITION. Divergence (R13 to R16), parked lanes and stopped slots (R20, R21), barriers' participants and completion
(R11, R70, R72), and the end of lanes, slots, groups and blocks. -/

namespace Sys2Proof.Machine

/-! ## The divergence stack (R14) -/

/-- Index of the most recent live entry of a slot, counted from the bottom. -/
def lastLive (sel : SlotId) (st : List StackEntry) : Option Nat :=
  (List.range st.length).reverse.find? fun i =>
    match st[i]? with
    | some e => !e.dead && e.slot == sel
    | none => false

/-- The most recent live entry of a slot. -/
def Group.topEntry (g : Group) (sel : SlotId) : Option (Nat × StackEntry) :=
  match lastLive sel g.stack with
  | some i => (g.stack[i]?).map fun e => (i, e)
  | none => none

/-- The pointer falls past every dead entry at the top (R14). -/
def dropDead (st : List StackEntry) : List StackEntry := (st.reverse.dropWhile fun e => e.dead).reverse

/-- Mark an entry dead (R14). -/
def Group.killEntry (g : Group) (i : Nat) : Group :=
  { g with stack := dropDead (g.stack.modify i fun e => { e with dead := true }) }

/-- Live entries a slot pushed (R196). -/
def Group.liveCount (g : Group) (sel : SlotId) : Nat := (g.stack.filter fun e => !e.dead && e.slot == sel).length

/-- The 128 bits of an entry (R14). -/
def StackEntry.bits (e : StackEntry) : Nat :=
  e.mask.toNat + e.resume.toNat * 2 ^ 32 + e.join.toNat * 2 ^ 64 + (if e.dead then 2 ^ 95 else 0)
    + (match e.outer with | some o => o.toNat | none => 2 ^ 30 - 1) * 2 ^ 96 + (if e.phase then 2 ^ 126 else 0)
    + (if e.slot = .B then 2 ^ 127 else 0)

/-- Virtual address of entry `i` of a group's stack: STACK + (k × (GROUPS + 1) + g) × STACKCAP × 16 + 16 i (R14). -/
def State.stackVa (s : State) (g : Group) (i : Nat) : Nat :=
  let l := s.lncAt g.launch
  l.stackBase + ((s.blkAt g.block).recIdx * l.groups + g.num) * l.stackCap * 16 + 16 * i

/-- Write an entry to memory where it translates to this package (R14). -/
def State.writeEntry (s : State) (g : Group) (i : Nat) (e : StackEntry) : State :=
  match translate s (some g.core) g.ctx (s.stackVa g i) .store with
  | .ok x => if s.ownPa x.pa then s.devStore x.pa (leBytes 16 e.bits) else s
  | .error _ => s

/-- Rewrite in memory the entries the group holds from a list of indices (R15, R68). -/
def State.writeEntries (s : State) (g : Group) (is : List Nat) : State :=
  is.foldl (fun t i => match g.stack[i]? with | some e => t.writeEntry g i e | none => t) s

/-! ## Empty slots (R16) -/

/-- A slot with no lane takes up its most recent live entry, as often as it takes (R16). -/
def Group.takeUp (sel : SlotId) : Nat → Group → Group
  | 0, g => g
  | n + 1, g =>
    if (g.slot sel).mask ≠ 0#32 then g
    else
      match g.topEntry sel with
      | none => g
      | some (i, e) =>
        if e.phase = false then
          takeUp sel n
            (Group.setSlot { g with stack := g.stack.modify i fun e => { e with phase := true, mask := 0#32 } } sel
              { (g.slot sel).anew with mask := e.mask, offset := e.resume, pcur := 0#2, pjoin := some e.join, chip := true })
        else
          takeUp sel n
            ((g.killEntry i).setSlot sel
              { (g.slot sel).anew with mask := e.mask, offset := nextOffset e.join, pcur := 0#2, pjoin := e.outer, chip := false })

/-- The deferred causes of a slot that becomes free pass to the other (R266). -/
def Group.freeSlot (g : Group) (sel : SlotId) : Group :=
  let o := g.slot (otherSlot sel)
  (g.setSlot (otherSlot sel) { o with deferred := o.deferred ++ (g.slot sel).deferred }).setSlot sel Slot.free

/-- A group FUSED with slot B as its only live slot moves it to slot A (R15). -/
def Group.settleA (g : Group) : Group :=
  if g.fusion = .fused ∧ g.a.live = false ∧ g.b.live = true then g.moveBtoA else g

/-- A PARKED group with one live slot left and no parked flag becomes FUSED (R21). -/
def Group.unparkAlone (g : Group) : Group :=
  if g.fusion = .parked ∧ !(g.a.live ∧ g.b.live) ∧ !(g.a.live ∧ g.a.parked) ∧ !(g.b.live ∧ g.b.parked) then
    Group.settleA { g with fusion := .fused }
  else g

/-- A SPLIT group continues at the offset after the split join under one slot (R15, R16). -/
def Group.fuseAlone (g : Group) (sel : SlotId) : Group :=
  let t := g.slot sel
  let g1 := g.setSlot sel { t with offset := nextOffset t.offset, pcur := 0#2, pjoin := g.outerJoin, atJoin := false,
                                   crossed := true }
  Group.settleA { g1 with splitJoin := none, outerJoin := none, fusion := .fused }

/-- What happens when a slot may have lost its last lane (R16); a take-up may bring the slots of a PARKED group together (R21). -/
def Group.afterEmpty (g : Group) (sel : SlotId) : Group :=
  if (g.slot sel).live = false || (g.slot sel).mask != 0#32 then g
  else
    let g := g.takeUp sel (2 * g.stack.length + 1)
    if (g.slot sel).mask ≠ 0#32 then g.fuseParked
    else
      let o := otherSlot sel
      match g.fusion with
      | .fused => (g.freeSlot sel).settleA
      | .parked => (g.freeSlot sel).unparkAlone
      | .split =>
        let g := g.freeSlot sel
        if (g.slot o).live ∧ (g.slot o).atJoin then g.fuseAlone o else g

/-- Lanes leave every mask: slots, entries, and the group (R16). -/
def Group.exitLanes (g : Group) (m : Lanes) : Group :=
  let ta : Slot := { g.a with mask := g.a.mask &&& ~~~ m }
  let tb : Slot := { g.b with mask := g.b.mask &&& ~~~ m }
  let st := g.stack.map fun (e : StackEntry) => { e with mask := e.mask &&& ~~~ m }
  let g : Group := { g with a := ta, b := tb, stack := st, alive := g.alive &&& ~~~ m }
  (g.afterEmpty .A).afterEmpty .B

/-! ## The end of a group and of a block -/

/-- A launch whose blocks have all ended, with no near command or sunk packet left, is completed by the scheduler (R186).
DEDUCED (log 33), safe. -/
def State.launchDone (s : State) (l : Nat) : State :=
  let x := s.lncAt l
  if x.state = .running ∧ x.ended = x.count ∧ (s.near.any fun p => p.2.launch == l) = false
      ∧ (s.packets.any fun p => p.2.launch == l) = false then
    s.push (.launchComplete l)
  else s

/-- Whether engine jobs of a block are left. -/
def State.blockBusy (s : State) (b : Nat) : Bool :=
  let c := s.coreAt (s.blkAt b).core
  (c.copyQ.any fun p => p.2.block == b) || (c.mxQ ++ c.followQ).any fun m => m.block == b

/-- A block with no group left ends; its last engine job is performed first (R16, R186). -/
def State.blockEnd (s : State) (b : Nat) : State :=
  let x := s.blkAt b
  if (tget? s.blocks b).isNone || !x.groups.isEmpty || s.blockBusy b then s
  else
    let s := s.dropBlock b
    let l := s.lncAt x.launch
    (s.setLncAt x.launch { l with ended := l.ended + 1 }).launchDone x.launch

/-- A group whose lanes have all exited ends; the block ends with its last group (R16). Its stores are performed (R186). A
deferred cause left kills the context (R266). -/
def State.endGroup (s : State) (k : Nat) : State :=
  let g := s.grpAt k
  if g.alive ≠ 0#32 then s
  else
    match g.a.deferred ++ g.b.deferred with
    | d :: _ =>
      s.kill g.ctx (s.mkRecord g .A d.trap false false 0#4)
    | [] =>
      let s := s.drainAll
      let b := s.blkAt g.block
      let s : State := { s with groups := tdel s.groups k, ages := tdel s.ages k }
      let s := (s.trimSpare g.core).trimSpare (annexPartner g.core)
      let s := s.setBlkAt g.block { b with groups := b.groups.filter fun x => x != k }
      (s.blockEnd g.block).completeBars

/-- A cause an engine raises after the instruction that started the work (R264 class D): the issuing slot takes it at its next
instruction, or the other slot where that one is free; when the group has ended the context is killed (R266). -/
def State.deferTo (s : State) (k : Nat) (sel : SlotId) (block : Nat) (d : Deferred) : State :=
  match tget? s.groups k with
  | some g =>
    let x := if (g.slot sel).live then sel else otherSlot sel
    s.setGrpAt k (g.setSlot x { g.slot x with deferred := (g.slot x).deferred ++ [d] })
  | none =>
    let b := s.blkAt block
    let g : Group := { Group.blank with ctx := b.ctx, launch := b.launch, block := block, core := b.core, num := d.num, gtag := d.gtag }
    s.kill b.ctx (s.mkRecord g sel d.trap false false 0#4)

/-! ## Parked lanes and stopped slots (R20) -/

/-- The checkpoint a slot hands to lanes that leave it, restricted to them (R196). -/
def Checkpoint.restrict (c : Checkpoint) (m : Lanes) : Checkpoint := { c with lanes := c.lanes &&& m }

/-- Whether faulting lanes park in the other slot (R20). -/
def State.canPark (s : State) : Bool := (s.grp.slot (otherSlot s.sel)).live == false && s.grp.fusion == .fused

/-- The faulting lanes leave the slot for the other one, at the slot's offset with a plane cursor (R20). R20 and R268 do not say whether
lanes that park from inside the trap routine are still in it: here the parked slot has in_trap 0, the slot they leave keeps its own,
and where all its lanes park in_trap is lost. DESIGN CHOICE (log 83), unsafe. -/
def Group.park (g : Group) (sel : SlotId) (F : Lanes) (cur : BitVec 2) : Group :=
  let sl := g.slot sel
  let kept : Slot := { sl with mask := sl.mask &&& ~~~ F, wasParked := false }
  let parked : Slot :=
    { Slot.free with live := true, offset := sl.offset, mask := F, pcur := cur, pjoin := sl.pjoin, parked := true,
                     wasParked := true, crossed := sl.crossed, ck := sl.ck.restrict F, inTrap := false }
  { (g.setSlot sel kept).setSlot (otherSlot sel) parked with fusion := .parked }

/-- A per-lane fault of the pass about to issue, whose plane cursor is `cur`: the faulting lanes park in a free slot of a FUSED
group and the others stay; otherwise the whole slot stops, none of its accesses performed. `t` is the state in which the other
lanes' accesses have been performed, or are outstanding when `adv` is false: then S waits for them where it is. The record goes
to the fault queue; `time` is when the cause was raised, where that was before (R267). -/
def State.laneFaultAt (s t : State) (cur : BitVec 2) (F : Lanes) (c : Cause) (va : Nat) (src : Src) (level : BitVec 4)
    (adv : Bool) (time : Option DWord := none) : State :=
  let g := s.grp
  let sl := s.slot
  if s.canPark then
    let r := s.mkRecord (g.setSlot s.sel { sl with pcur := cur }) s.sel
      { cause := c, mask := F, va := va, src := src, time := time } true false level
    let u := t.setGrp (t.grp.park s.sel F cur)
    let u :=
      if u.slot.mask = 0#32 then u.setGrp (u.grp.afterEmpty s.sel) else if adv then u.advanceFrom s.passPlane else u
    (u.countRecord g.ctx).postRecord g.ctx r (.parked s.gid (otherSlot s.sel))
  else
    let sl' := { sl with pcur := cur, stopped := true, paid := [], left := sl.mask }
    let r := s.mkRecord (g.setSlot s.sel sl') s.sel { cause := c, mask := F, va := va, src := src, time := time } true true level
    ((s.setSlot sl').countRecord g.ctx).postRecord g.ctx r (.parked s.gid s.sel)

/-- A per-lane fault of the pass about to issue. -/
def State.laneFault (s t : State) (F : Lanes) (c : Cause) (va : Nat) (src : Src) (level : BitVec 4) (adv : Bool) : State :=
  s.laneFaultAt t s.passCur F c va src level adv

/-- A fetch or stack fault stops the whole slot at its instruction (R110, R14, class W). -/
def State.slotFault (s : State) (c : Cause) (va : Nat) (src : Src) : State :=
  let g := s.grp
  let sl' := { s.slot with stopped := true, joinRead := false }
  let r := s.mkRecord (g.setSlot s.sel sl') s.sel { cause := c, mask := sl'.mask, va := va, src := src } true true 0#4
  ((s.setSlot sl').countRecord g.ctx).postRecord g.ctx r (.parked s.gid s.sel)

/-- Resume a slot: its parked or stopped flag clears and it replays (R20, R272). A slot that has fused or moved since is the
other one. -/
def Group.resume (g : Group) (sel : SlotId) : Group :=
  let sel := if (g.slot sel).live then sel else otherSlot sel
  ((g.setSlot sel { g.slot sel with parked := false, stopped := false }).unparkAlone).fuseParked

end Sys2Proof.Machine
end

