-- ==== Sys2Proof/Machine/Order.lean ====
section
/-! DEFINITION. What orders memory: L1 copies (R99), stores that are performed after they retire (R115, R123, R130), the acquire
and the release (R102, R130 to R132), token buckets (R283 to R285), and the footprints of engine jobs and near commands with
the waits they cause (R137, R210, R241). -/

namespace Sys2Proof.Machine

/-! ## Caches (R99 to R101) -/

/-- Drop keys of a map. -/
def tdrop {κ α : Type} (t : Map κ α) (p : κ → Bool) : Map κ α := t.filter fun e => !p e.1

/-- A core's L1 without a sector. -/
def Core.l1Drop (c : Core) (sec : Nat) : Core := { c with l1 := tdrop c.l1 fun k => k == sec }

/-- Bytes stored at an address change the copy of a sector; a store of the whole sector clears its poison (R99, R103). -/
def Copy.storeAt (x : Copy) (at' : Nat) (bs : List Byte) : Copy :=
  { x with bytes := (x.bytes.take at' ++ bs ++ x.bytes.drop (at' + bs.length)).take 64 }

/-- Bytes stored to a sector that L1 holds change the copy; otherwise L1 is as it was (R99). No access crosses a sector. -/
def Core.l1Store (c : Core) (pa : Nat) (bs : List Byte) : Core :=
  { c with l1 := tmod c.l1 (pa / 64) fun x => x.storeAt (pa % 64) bs }

/-- Copies of sectors that one instruction's writes store whole are no longer poisoned (R103). -/
def Core.l1Mend (c : Core) (ws : List Write) : Core :=
  { c with l1 := tmap c.l1 fun k (x : Copy) => if x.poison && coversSector ws k then { x with poison := false } else x }

/-- Every line of L1 that a job, or a near command, writes is dropped in the core that issued it (R137, R241). -/
def Core.l1DropRange (c : Core) (pa n : Nat) : Core :=
  { c with l1 := tdrop c.l1 fun k => decide (pa / 128 ≤ k / 2) && decide (k / 2 * 128 < pa + n) }

/-- Lines L1 holds: 256 KiB (R7, R99). -/
def l1Lines : Nat := 2048

/-- L1 takes a copy of a sector where it has none; without room for the line, the line of lowest priority filled first leaves
(R99). The spec gives no number of sets: L1 is one set. DESIGN CHOICE (log 12), unsafe. -/
def Core.l1Fill (c : Core) (sec : Nat) (x : Copy) : Core :=
  if (tget? c.l1 sec).isSome then c
  else
    let lines := (c.l1.map fun p => p.1 / 2).eraseDups
    if lines.contains (sec / 2) || lines.length < l1Lines then { c with l1 := c.l1 ++ [(sec, x)] }
    else
      let low := c.l1.foldl (fun n p => min n p.2.prio) 2
      let v := ((c.l1.find? fun p => p.2.prio == low).map fun p => p.1 / 2).getD 0
      { c with l1 := (tdrop c.l1 fun k => k / 2 == v) ++ [(sec, x)] }

/-- The replacement priority that a HINT allocates with (R99). -/
def hintPrio : Hint → Nat
  | .default => 1
  | .stream => 0
  | .keepL1 => 2
  | .bypassL1 => 1

/-- Memory as a core's own accesses find it: with the stores of the core's groups that have retired (R130). -/
def State.coreMem (s : State) (core : Nat) : Memory :=
  s.stores.foldl (fun m p => if p.2.core == some core then p.2.writes.foldl (fun (m : Memory) w => writeBytes m (paOff w.1) w.2) m else m)
    s.mem

/-- Whether a retired store of a core that is not performed yet writes the whole of a sector, which is then poisoned no more
(R103). -/
def State.mended (s : State) (core sec : Nat) : Bool :=
  s.stores.any fun p => p.2.core == some core && coversSector (p.2.writes.map fun w => (paOff w.1, w.2)) sec

/-- The copy of a sector that a core's fill brings: its bytes with the core's retired stores, and its poison (R99, R103). -/
def State.copyOf (s : State) (core pa prio : Nat) : Copy :=
  let sec := paOff pa / 64
  { bytes := readBytes (s.coreMem core) (sec * 64) 64, prio := prio, poison := s.badSector sec && !s.mended core sec }

/-! ## Waiting for stores -/

/-- The retired stores of a core that share a byte with an access are performed before it: its groups have them in one order, that
of its L1 (R130, R133). -/
def State.drainFor (s : State) (core : Nat) (spans : List (Nat × Nat)) : State :=
  if s.stores.any fun p => p.2.core == some core && meets p.2.spans spans then s.drainAll else s

/-! ## Acquire and release -/

/-- Whether a scope reaches beyond the core. -/
def scopeWide : Scope → Bool
  | .core => false
  | _ => true

/-- An acquire at QUAD or wider drops the L1 of the issuing core (R102). DESIGN CHOICE (log 41), unsafe. -/
def State.acquire (s : State) (sc : Scope) : State :=
  if scopeWide sc then s.setCoreAt s.grp.core { s.core with l1 := [] } else s

/-- A release: every earlier store is performed before what follows (R130). -/
def State.release (s : State) : State := s.drainAll

/-! ## Token buckets (R283 to R285) -/

def Bucket.unlimited? (b : Bucket) : Bool := b.rate == 0xFFFFFFFF

/-- Whether a request of some sectors fits; one that charges the bucket nothing does (R285). -/
def Bucket.fits (b : Bucket) (n : Int) : Bool := b.unlimited? || n == 0 || n ≤ b.balance
/-- Whether whole-charged work is accepted (R285). -/
def Bucket.open (b : Bucket) : Bool := b.unlimited? || 0 < b.balance
/-- The charge, of a signed 32-bit balance; an unlimited bucket holds none (R283). DEDUCED (log 54), unsafe. -/
def Bucket.charge (b : Bucket) (n : Int) : Bucket :=
  if b.unlimited? then b else { b with balance := max (b.balance - n) (-2 ^ 31) }

/-- A request: its key within the instruction, and the sectors charged to the memory bucket and to the fabric bucket (R284). -/
abbrev Request := Nat × Nat × Nat

/-- The request of some sectors at a physical address: the fabric bucket is charged across a link, and a host access charges
nothing (R284). -/
def State.cost (s : State) (key pa n : Nat) : Request :=
  if isHost pa then (key, 0, 0) else (key, n, if paPkg pa = s.pkgId then 0 else n)

/-- Requests go out in order while they fit; the keys of those that went out, and the buckets after them. -/
def payFrom (m f : Bucket) : List Request → List Nat × Bucket × Bucket
  | [] => ([], m, f)
  | (k, n, w) :: rs =>
    if m.fits n && f.fits w then
      let r := payFrom (m.charge n) (f.charge w) rs
      (k :: r.1, r.2)
    else ([], m, f)

/-- The issuing instruction's requests that are not charged yet are charged as far as they fit; whether all are (R285).
DEDUCED (log 40), unsafe. -/
def State.pay (s : State) (rs : List Request) : Bool × State :=
  let x := s.ctx
  let due := rs.filter fun r => !s.slot.paid.contains r.1
  let r := payFrom x.mem x.fab due
  let t := s.setCtxAt s.grp.ctx { x with mem := r.2.1, fab := r.2.2 }
  (r.1.length == due.length, t.setSlot { t.slot with paid := t.slot.paid ++ r.1 })

/-- Whole-charged work is charged to a context's memory bucket (R285). -/
def State.chargeWhole (s : State) (c n : Nat) : State :=
  s.setCtxAt c { s.ctxAt c with mem := (s.ctxAt c).mem.charge n }

/-! ## Footprints (R210) -/

/-- A copy job that reads global memory and writes its tile. -/
def CopyJob.isLoad (j : CopyJob) : Bool := j.fn == 0 || j.fn == 2 || j.fn == 4
def CopyJob.indexed (j : CopyJob) : Bool := j.fn == 2 || j.fn == 3

/-- The global footprint of a job in virtual addresses: first byte and length of each part. -/
def CopyJob.globalSpans (j : CopyJob) : List (Nat × Nat) :=
  match j.fmode with
  | 0 => (List.range j.rows).map fun r => (j.addr + r * j.stride, j.rowb)
  | 1 => [(j.addr, 2 ^ j.flog)]
  | _ => [(0, 2 ^ 48)]

def State.tileAt (s : State) (b t : Nat) : Tile := (tget? (s.blkAt b).tiles t).getD Tile.blank

def Tile.span (t : Tile) : Nat × Nat := (t.base, t.size)

/-- The scratchpad bytes a job reads, and those it writes. -/
def State.jobScratch (s : State) (j : CopyJob) : List (Nat × Nat) × List (Nat × Nat) :=
  let tile := (s.tileAt j.block j.tile).span
  let ix := if j.indexed then [(j.idx, 4 * j.rows)] else []
  if j.isLoad then (ix, [tile]) else (tile :: ix, [])

/-- Whether an access to global bytes conflicts with a job of its own group that is not complete (R137).
DEDUCED (log 43), safe. -/
def State.jobHazard (s : State) (write : Bool) (spans : List (Nat × Nat)) : Bool :=
  s.core.copyQ.any fun p => p.2.gid == s.gid && (write || !p.2.isLoad) && meets p.2.globalSpans spans

/-- The tiles a matrix command reads, and the one it writes. -/
def MxOp.tiles : MxOp → List Nat × List Nat
  | .mldw t _ fmt => (t :: (if fmt.extractLsb' 46 2 = 1#2 then [(fmt.extractLsb' 40 6).toNat] else []), [])
  | .mma _ t _ _ _ fmt => (t :: (if fmt.extractLsb' 38 2 = 1#2 then [(fmt.extractLsb' 32 6).toNat] else []), [])
  | .accrd _ t _ _ _ _ => ([], [t])
  | _ => ([], [])

/-- Whether an access to scratchpad bytes of the group's block conflicts with a job or a matrix command of its own group
(R137). -/
def State.scratchHazard (s : State) (write : Bool) (spans : List (Nat × Nat)) : Bool :=
  let b := s.grp.block
  (s.core.copyQ.any fun p =>
      let f := s.jobScratch p.2
      p.2.gid == s.gid && (meets f.2 spans || (write && meets f.1 spans)))
    || (s.core.mxQ ++ s.core.followQ).any fun m =>
      let t := m.op.tiles
      let sp (l : List Nat) := l.map fun k => (s.tileAt b k).span
      m.gid == s.gid && (meets (sp t.2) spans || (write && meets (sp t.1) spans))


/-- An access from outside, or a command, waits behind those that wait already: one that is equal to another is another one, and each is
performed (R136, R296). DESIGN CHOICE (log 57), unsafe. -/
def State.hold (s : State) (e : Instr) : State := { s with arrivals := s.arrivals ++ [e] }

/-- A packet waits for its line, once, whoever asks for it; then it waits no longer. -/
def State.holdOnce (s : State) (e : Instr) : State := if s.arrivals.contains e then s else s.hold e
def State.unhold (s : State) (e : Instr) : State := { s with arrivals := s.arrivals.erase e }

/-- A line is free: what waits comes again, in the order of arrival (R174, R241). -/
def State.kickPackets (s : State) : State := { s with agenda := s.agenda ++ s.arrivals, arrivals := [] }

/-- Whether an access to physical bytes conflicts with a near command of its own group, or is held by one that has started
(R241). -/
def State.nearHazard (s : State) (spans : List (Nat × Nat)) : Bool :=
  s.nearHeld spans || s.near.any fun p => p.2.gid == s.gid && (meets p.2.writes spans || meets p.2.reads spans)

end Sys2Proof.Machine
end

