-- ==== Sys2Proof/Machine/Control.lean ====
section
/-! DEFINITION. Control (R63 to R68), barriers (R70 to R75), control registers (R51 to R55, R76), traps and breakpoints (R78),
flashback points (R195), leases (R290, R291), and the events of a waiting JOIN and barrier. -/

namespace Sys2Proof.Machine

/-- the all-zero word (R78) -/
def execNop (s : State) : Host.Outcome State Fault Refusal :=
  issue true (fun t => { cls := .S, lanes := t.passLanes, opds := [], modOk := true }) .done s

/-! ## Targets (R64, R27) -/

/-- What the checks of a branch's target come to. -/
inductive Target where
  | ok (o : Offset)
  | trap (c : Cause)
  /-- the target line's fetch faults -/
  | fault (c : Cause) (va : Nat)
  deriving DecidableEq, Repr

/-- An offset from a line and a slot. -/
def mkOffset (line slot : Nat) : Offset := BitVec.ofNat 30 (line * 8 + slot)

/-- The line that a displacement names (R33). -/
def State.dispLine (s : State) (disp : BitVec 20) : Int := lineOf s.slot.offset + disp.toInt

/-- FETCH_RANGE, then the TGT bit in the target line of the lowest occupied plane; RET has no TGT check. -/
def State.checkTarget (s : State) (tgt : Bool) (line : Int) (slot : Nat) : Target :=
  if line < 0 ∨ s.lnc.lineOk line.toNat = false then .trap .fetchRange
  else if !tgt then .ok (mkOffset line.toNat slot)
  else
    let low := ((s.grp.occupied s.slot.mask).headD 0#2).toNat
    match s.fetchLine s.grp low line.toNat with
    | .error c => .fault c (s.lnc.lineVa low line.toNat)
    | .ok bs => if (lineWord bs).getLsbD slot then .ok (mkOffset line.toNat slot) else .trap .branchTarget

/-- The target of a displacement form. -/
def State.dispTarget (s : State) (x : BrF) : Target := s.checkTarget true (s.dispLine x.disp) x.slot.toNat

/-- The target of a register form. -/
def State.regTarget (s : State) (tgt : Bool) (x : BrF) : Target :=
  let a := s.grp.rdS x.a 0
  if a.extractLsb' 30 2 ≠ 0#2 ∨ 4 < (a.extractLsb' 0 3).toNat then .trap .fetchRange
  else s.checkTarget tgt (a.extractLsb' 3 27).toNat (a.extractLsb' 0 3).toNat

/-- A taken branch: its target's traps and fetch fault, otherwise what follows. -/
def State.take (s : State) (t : Target) (k : Offset → Issue) : Issue :=
  match t with
  | .trap c => .trap { cause := c, mask := s.slot.mask }
  | .fault c va => .stay (s.slotFault c va .fetch)
  | .ok o => k o

/-- The condition set C (R63). -/
def State.condSet (s : State) (x : BrF) : Lanes := if x.cinv then ~~~ s.mreg x.cmask.toNat else s.mreg x.cmask.toNat

/-- A branch that moves the slot when `c` holds and falls through otherwise. -/
def branchIf (r : BrRow) (x : BrF) (c : State → Bool) (tgt : State → Target) (s : State) : Host.Outcome State Fault Refusal :=
  brIssue true r x (fun s => if c s then s.take (tgt s) fun o => .stay (s.moveTo o) else .done s) s

/-- R63 -/
def execBra (x : BrF) (s : State) : Host.Outcome State Fault Refusal :=
  branchIf bBra x (fun _ => true) (fun s => s.dispTarget x) s
/-- C ∩ E is not empty (R63) -/
def execBraAny (x : BrF) (s : State) : Host.Outcome State Fault Refusal :=
  branchIf bCond x (fun s => s.condSet x &&& s.passLanes != 0#32) (fun s => s.dispTarget x) s
/-- E ⊆ C (R63) -/
def execBraAll (x : BrF) (s : State) : Host.Outcome State Fault Refusal :=
  branchIf bCond x (fun s => s.passLanes &&& ~~~ s.condSet x == 0#32) (fun s => s.dispTarget x) s
/-- A ≠ 0 (R63) -/
def execBraNz (x : BrF) (s : State) : Host.Outcome State Fault Refusal :=
  branchIf bNz x (fun s => s.grp.rdS x.a 0 != 0#32) (fun s => s.dispTarget x) s
/-- A = 0 (R63) -/
def execBraZ (x : BrF) (s : State) : Host.Outcome State Fault Refusal :=
  branchIf bNz x (fun s => s.grp.rdS x.a 0 == 0#32) (fun s => s.dispTarget x) s
/-- R63 -/
def execBrx (x : BrF) (s : State) : Host.Outcome State Fault Refusal :=
  branchIf bReg x (fun _ => true) (fun s => s.regTarget true x) s

/-- The link of a call: the next offset, bits 31:30 zero (R64). -/
def State.link (s : State) : Word := (nextOffset s.slot.offset).setWidth 32

/-- R63, R64 -/
def execCall (x : BrF) (s : State) : Host.Outcome State Fault Refusal :=
  brIssue false bCall x (fun s => s.take (s.dispTarget x) fun o => .stay ((s.setS x.d s.link).moveTo o)) s
/-- R63, R64 -/
def execCallx (x : BrF) (s : State) : Host.Outcome State Fault Refusal :=
  brIssue false bCallx x (fun s => s.take (s.regTarget true x) fun o => .stay ((s.setS x.d s.link).moveTo o)) s

/-- The first RET in a trap routine leaves it (R63, R268) -/
def execRet (x : BrF) (s : State) : Host.Outcome State Fault Refusal :=
  brIssue true bReg x (fun s => s.take (s.regTarget false x) fun o => .stay (s.leaveTrap.moveTo o)) s

/-! ## Divergent branches (R13, R66) -/

/-- The join offset of a divergent branch. -/
def State.joinOf (s : State) (x : BrF) : Offset :=
  BitVec.ofInt 30 (s.dispLine x.jdisp * 8 + x.jslot.toNat)

/-- An access to entry `i` of the issuing group's stack (R14): its fault stops the slot; it waits where its line is held
(R174, R241) or its sector is not paid for (R284); then what follows. It is ordered with the group's other stack accesses only
(R68). -/
def State.stackAccess (s : State) (i : Nat) (k : AccKind) (eff : State → Issue) : Issue :=
  let va := s.stackVa s.grp i
  if s.walkHeld (some s.grp.core) s.grp.ctx [va] then .stay s
  else
  match translate s (some s.grp.core) s.grp.ctx va k with
  | .error c => .stay (s.slotFault c va .stack)
  | .ok x =>
    if s.lineHeld [(x.pa, 16)] then .stay s
    else
      let p := s.pay [s.cost (if k = .load then 0 else 1) x.pa 1]
      if p.1 then eff (p.2.tlbFill s.grp.core s.grp.ctx va) else .stay p.2

/-- The entries of a group that changed are written to memory (R14, R15). DESIGN CHOICE (log 17), unsafe. -/
def State.syncStack (s : State) (k : Nat) (old : List StackEntry) : State :=
  let g := s.grpAt k
  s.writeEntries g ((List.range g.stack.length).filter fun i => g.stack[i]? != old[i]?)

/-- A split: S keeps the taken lanes, the other slot becomes live with the others (R13). DEDUCED (log 18), unsafe. -/
def State.split (s : State) (T : Lanes) (join target : Offset) : State :=
  let g := s.grp
  let sl := s.slot
  let N := sl.mask &&& ~~~ T
  let kept : Slot := { sl with mask := T, pjoin := some join, ck := { sl.ck with preSplit := true } }
  let new : Slot :=
    { Slot.free with live := true, mask := N, offset := nextOffset sl.offset, pjoin := some join, crossed := sl.crossed,
                     ck := { sl.ck.restrict N with count := 0, preSplit := true } }
  let g1 : Group :=
    { (g.setSlot s.sel kept).setSlot (otherSlot s.sel) new with
      outerJoin := sl.pjoin, splitJoin := some join, fusion := .split }
  (s.setGrp g1).moveTo target

/-- A push: the not-taken lanes wait in an entry (R13, R14). -/
def State.pushEntry (s : State) (T : Lanes) (join target : Offset) : State :=
  let g := s.grp
  let sl := s.slot
  let e : StackEntry :=
    { slot := s.sel, phase := false, outer := sl.pjoin, dead := false, join := join, resume := nextOffset sl.offset,
      mask := sl.mask &&& ~~~ T }
  let t := s.setGrp { g with stack := g.stack ++ [e] }
  let t := t.writeEntry t.grp g.stack.length e
  (t.setSlot { t.slot with mask := T, pjoin := some join, chip := true }).moveTo target

/-- R66, R13: lanes of other planes, where it stands in a pass of a non-uniform slot, go on with those not taken (log 69) -/
def execDbra (x : BrF) (s : State) : Host.Outcome State Fault Refusal :=
  brIssue false bDbra x (fun s =>
    let E := s.passLanes
    let T := s.condSet x &&& E
    let range : Issue := .trap { cause := .fetchRange, mask := s.slot.mask }
    if T = 0#32 then .done s
    else
      s.take (s.dispTarget x) fun o =>
        if T = E then .stay (s.moveTo o)
        else if (s.grp.slot (otherSlot s.sel)).live = false ∧ s.grp.fusion = .fused then
          if s.fallsOut then range else .stay (s.split T (s.joinOf x) o)
        else if s.lnc.stackCap ≤ s.grp.stack.length then .trap { cause := .divstackOverflow, mask := s.slot.mask }
        else if s.fallsOut then range
        else
          s.stackAccess s.grp.stack.length .store fun t => .stay (t.pushEntry T (s.joinOf x) o)) s

/-! ## JOIN and EXIT (R15, R16, R67, R68) -/

/-- The most recent live entry of the slot, where it matches the JOIN at the slot's offset. -/
def State.matching (s : State) : Option (Nat × StackEntry) :=
  match s.grp.topEntry s.sel with
  | some (i, e) => if e.join = s.slot.offset then some (i, e) else none
  | none => none

/-- The lanes that did not branch run: the slot and the entry exchange their masks (R15). -/
def State.joinSwap (s : State) (i : Nat) (e : StackEntry) : State :=
  let g := s.grp
  let g1 : Group := { g with stack := g.stack.modify i fun e => { e with phase := true, mask := s.slot.mask } }
  let t := (s.setGrp g1).syncStack s.gid g.stack
  (t.setSlot { t.slot with mask := e.mask, crossed := true }).moveTo e.resume

/-- The lanes of the entry come back (R15). -/
def State.joinMerge (s : State) (i : Nat) (e : StackEntry) : State :=
  let g := s.grp
  let t := (s.setGrp (g.killEntry i)).syncStack s.gid g.stack
  t.setSlot { t.slot with mask := t.slot.mask ||| (e.mask &&& g.alive), pjoin := e.outer, chip := false, crossed := true }

/-- R15, R67, R68. DEDUCED (log 19), safe. -/
def execJoin (x : BrF) (s : State) : Host.Outcome State Fault Refusal :=
  brIssue false bJoin x (fun s =>
    let g := s.grp
    let sl := s.slot
    let other := g.slot (otherSlot s.sel)
    match s.matching with
    | some (i, e) =>
      if !sl.chip then .stay (s.setSlot { sl with joinRead := true })
      else if e.phase = false ∧ e.mask &&& g.alive ≠ 0#32 then
        s.stackAccess i .store fun t => .stay (t.joinSwap i e)
      else if s.fallsOut then .trap { cause := .fetchRange, mask := s.slot.mask }
      else if i < (g.killEntry i).stack.length then s.stackAccess i .store fun t => .done (t.joinMerge i e)
      else .done (s.joinMerge i e)
    | none =>
      if g.fusion = .split ∧ g.splitJoin = some sl.offset then
        if s.fallsOut then .trap { cause := .fetchRange, mask := s.slot.mask }
        else if !other.live then .stay ((s.setGrp (g.fuseAlone s.sel)).syncStack s.gid g.stack)
        else if other.atJoin then .stay (s.setGrp (g.fuseAt (nextOffset sl.offset) g.outerJoin))
        else .stay (s.setSlot { sl with atJoin := true })
      else .done s) s

/-- R16, R67 -/
def execExit (x : BrF) (s : State) : Host.Outcome State Fault Refusal :=
  brIssue false bExit x (fun s =>
    let E := s.passLanes
    let X := s.condSet x &&& E
    let fin (t : State) : State := (((t.syncStack t.gid s.grp.stack).endGroup t.gid).completeBars)
    if X = 0#32 then .done s
    else if X = s.slot.mask then .stay (fin (s.leaveTrap.setGrp (s.leaveTrap.grp.exitLanes X)))
    else if s.fallsOut then .trap { cause := .fetchRange, mask := s.slot.mask }
    else .stay (fin ((s.setGrp (s.grp.exitLanes X)).advanceFrom s.passPlane))) s

/-- The entry a JOIN waits for has been read: it is held on chip, and the JOIN goes on; or its access faults (R14, R68). -/
def execJoinEntryReadReturn (gid : Nat) (slot : SlotId) (s : State) : Host.Outcome State Fault Refusal :=
  let t : State := { s with gid := gid, sel := slot }
  if t.slot.live = false ∨ t.slot.joinRead = false then .next s
  else
    match t.grp.topEntry slot with
    | none => .next (t.setSlot { t.slot with joinRead := false })
    | some (i, _) =>
      match t.stackAccess i .load fun u => .stay (u.setSlot { u.slot with joinRead := false, chip := true }) with
      | .stay u => .next u
      | _ => .next s

/-! ## Barriers (R71 to R75) -/

/-- The 32-bit token (R71). -/
def barToken (gen : BitVec 24) (bid : BitVec 4) (sc : Scope) : Word := gen ++ bid ++ 0#1 ++ scopeCode sc

/-- The lanes of the slot marked already (R72). -/
def State.marked (s : State) (o : BarOwner) (bid : Nat) : Lanes := (tget? (s.barAt o bid).marks s.gid).getD 0#32 &&& s.passLanes

/-- The arrival: the release, the marks, and the completion of the generation where every participant has arrived (R72). -/
def State.arrive (s : State) (o : BarOwner) (bid : Nat) : State :=
  let t := s.release
  let t := t.setSlot { t.slot with crossed := true }
  let b := t.barAt o bid
  let old := (tget? b.marks s.gid).getD 0#32
  (t.setBar o bid { b with marks := tput b.marks s.gid (old ||| s.passLanes) }).completeBar o bid

/-- An arrival's traps: BAR_SCOPE (R11), BAR_REARRIVE (R72); then what follows. -/
def State.arriveThen (s : State) (sc : Scope) (bid : BitVec 4) (k : BarOwner → Issue) : Issue :=
  match s.barOwner sc with
  | none => .trap { cause := .barScope, mask := s.slot.mask }
  | some o =>
    if s.marked o bid.toNat ≠ 0#32 then .trap { cause := .barRearrive, mask := s.marked o bid.toNat }
    else k o

/-- A wait on a token: past it with the acquire once the generation has changed (R73). -/
def State.waitOn (s : State) (o : BarOwner) (bid : Nat) (sc : Scope) (tok : Word) : Issue :=
  if (s.barAt o bid).gen ≠ tok.extractLsb' 8 24 then .done (s.acquire sc)
  else .wait (s.setSlot { s.slot with meet := some tok, waitUni := s.uni })

/-- R72. DEDUCED (log 20), unsafe. -/
def execBarArrive (x : EngF) (bid : BitVec 4) (s : State) : Host.Outcome State Fault Refusal :=
  engIssue eArrive 1 x (fun s =>
    s.arriveThen x.scope bid fun o =>
      .done ((s.arrive o bid.toNat).setS x.d (barToken (s.barAt o bid.toNat).gen bid x.scope))) s

/-- R73 -/
def execBarWait (x : EngF) (bid : BitVec 4) (s : State) : Host.Outcome State Fault Refusal :=
  engIssue eWait 1 x (fun s =>
    match s.barOwner x.scope with
    | none => .trap { cause := .barScope, mask := s.slot.mask }
    | some o =>
      let tok := s.grp.rdS x.a 0
      if tok.extractLsb' 0 8 ≠ bid ++ 0#1 ++ scopeCode x.scope then .trap { cause := .barToken, mask := s.slot.mask }
      else s.waitOn o bid.toNat x.scope tok) s

/-- R73 -/
def execBarMeet (x : EngF) (bid : BitVec 4) (s : State) : Host.Outcome State Fault Refusal :=
  engIssue eMeet 1 x (fun s =>
    s.arriveThen x.scope bid fun o =>
      (s.arrive o bid.toNat).waitOn o bid.toNat x.scope (barToken (s.barAt o bid.toNat).gen bid x.scope)) s

/-- The generation a slot waits on has completed: the slot proceeds, with the acquire (R73, R75). -/
def execBarWaitProceed (gid : Nat) (slot : SlotId) (s : State) : Host.Outcome State Fault Refusal :=
  let t : State := { s with gid := gid, sel := slot, uni := ((s.grpAt gid).slot slot).waitUni }
  match t.slot.meet with
  | none => .next s
  | some tok =>
    let sc := (scopeOf? (tok.extractLsb' 0 3)).getD .sys
    match t.barOwner sc with
    | none => .next s
    | some o =>
      if (t.barAt o (tok.extractLsb' 4 4).toNat).gen = tok.extractLsb' 8 24 then .next s
      else .next (((t.acquire sc).setSlot { t.slot with meet := none }).advance)

/-! ## Control registers (R51 to R55, R76) -/

/-- The value of a control register: of the lane, where it is held per lane. -/
def State.csr (s : State) (c : Csr) (L : Lane) : DWord :=
  let g := s.grp
  let b := s.blk
  match c with
  | .laneFlags => (sget g.laneFlags L).setWidth 64
  | .trapEn => g.trapEn.setWidth 64
  | .fpMode => g.fpMode.setWidth 64
  | .timebase => s.timebase
  | .staleReturn => s.core.staleReturn.setWidth 64
  | .coreId => BitVec.ofNat 64 (g.core % 80)
  | .quadId => BitVec.ofNat 64 (quadOfCore g.core % 20)
  | .dieId => BitVec.ofNat 64 (g.core / 80)
  | .pkgId => BitVec.ofNat 64 s.pkgId
  | .blockIdX => BitVec.ofNat 64 b.x
  | .blockIdY => BitVec.ofNat 64 b.y
  | .blockIdZ => BitVec.ofNat 64 b.z
  | .gangRank => BitVec.ofNat 64 b.rank
  | .heatClass => BitVec.ofNat 64 s.lnc.heat
  | .annexBytes => BitVec.ofNat 64 (if s.lnc.hot then s.lnc.scratch - 0x100000 else 0)
  | .mxCadence => s.core.mxCadence.setWidth 64
  | .mxToggle => s.core.mxToggle.setWidth 64
  | .mxZeros => s.core.mxZeros.setWidth 64
  | .landingLast => (sget g.landing L).setWidth 64

/-- R76 -/
def execCsrr (x : SysF) (s : State) : Host.Outcome State Fault Refusal :=
  match csrOf x.csr with
  | none => .next (s.takeTrap { cause := .csrNumber, mask := s.slot.mask })
  | some c =>
    sysIssue ⟨csrDst c, csrRegs c⟩ ⟨.none, 1⟩ (csrPerLane c) x (fun s =>
      if csrPerLane c then
        .done (s.setLanes x.d (s.execLanes x.guard x.ginv) fun L => [(s.csr c L).setWidth 32])
      else .done (s.setGrp (s.grp.wrList x.d 0 0 ((words64 (s.csr c 0)).take (csrRegs c))))) s

/-- LANE_FLAGS is cleared where the source has ones, in the executing lanes (R51). -/
def Group.clearFlags (g : Group) (o : Opd) : List Lane → Group
  | [] => g
  | L :: Ls => { g with laneFlags := sput g.laneFlags L (sget g.laneFlags L &&& ~~~ g.rd o 0 L) }.clearFlags o Ls

/-- R76, R51 -/
def execCsrw (x : SysF) (s : State) : Host.Outcome State Fault Refusal :=
  match csrOf x.csr with
  | none => .next (s.takeTrap { cause := .csrNumber, mask := s.slot.mask })
  | some c =>
    sysIssue ⟨.none, 1⟩ ⟨csrSrc c, csrRegs c⟩ (csrPerLane c) x (fun s =>
      let v := s.grp.rdS x.b 0
      let E := s.execLanes x.guard x.ginv
      match c with
      | .laneFlags => .done (s.setGrp (s.grp.clearFlags x.b (lanesOf E)))
      | .trapEn => .done (s.setGrp { s.grp with trapEn := v.extractLsb' 0 8 })
      | .fpMode => .done (s.setGrp { s.grp with fpMode := v.extractLsb' 0 2 })
      | _ => .trap { cause := .csrAccess, mask := s.slot.mask }) s

/-! ## Traps and breakpoints (R78) -/

def sysNone : OpSpec := ⟨.none, 1⟩

/-- R78 -/
def execTrap (x : SysF) (s : State) : Host.Outcome State Fault Refusal :=
  sysIssue sysNone sysNone false x (fun s =>
    .trap { cause := .userTrap, mask := s.slot.mask, info := x.imm16.setWidth 32,
            offset := some (nextOffset s.slot.offset) }) s

/-- R78: with breakpoints enabled the slot halts before it and the debugger is told. DESIGN CHOICE (log 23), unsafe. -/
def execBkpt (x : SysF) (s : State) : Host.Outcome State Fault Refusal :=
  sysIssue sysNone sysNone false x (fun s =>
    if s.ctx.bkpt then
      let r := s.mkRecord s.grp s.sel { cause := .breakpoint, mask := s.slot.mask, info := x.imm16.setWidth 32 } false false 0#4
      let t := (s.setSlot { s.slot with atBkpt := true }).countRecord s.grp.ctx
      .stay { t with porch := { t.porch with debugEvents := t.porch.debugEvents ++ [r] } }
    else .done s) s

/-! ## Flashback points (R195, R196) -/

/-- The registers MASK names. -/
def fbpRegs (a : Opd) (mask : BitVec 8) : List Nat :=
  match a with
  | .v n => ((List.range 8).filter fun k => mask.getLsbD k).map fun k => n.val + k
  | _ => []

/-- The checkpoint that replaces the slot's (R196). -/
def State.checkpoint (s : State) (a : Opd) (mask : BitVec 8) (imm : Word) : Checkpoint :=
  let g := s.grp
  let base := match a with | .v n => n.val | _ => 0
  { fbp := s.slot.offset, recipe := if imm.getLsbD 31 then none else some (imm.extractLsb' 0 30),
    base := base, mask := mask, lanes := s.slot.mask, pjoin := s.slot.pjoin,
    regs := g.v.filter fun p => (fbpRegs a mask).contains (p.1 / 32), s := g.s, m := g.m, xbase := g.xbase,
    xlimit := g.xlimit, xindex := g.xindex, planes := g.planes, count := g.liveCount s.sel, preSplit := false }

/-- R195 -/
def execFbp (x : ImmF) (mask : BitVec 8) (s : State) : Host.Outcome State Fault Refusal :=
  issue false (fun s => { immForm iFbp x s with regOk := (fbpRegs x.a mask).all fun n => n < min 192 s.grp.alloc }) (fun s =>
    if x.imm.getLsbD 31 = false ∧ s.lnc.lineOk (lineOf (x.imm.extractLsb' 0 30)) = false then
      .trap { cause := .fetchRange, mask := s.slot.mask }
    else .done (s.setSlot { s.slot with ck := s.checkpoint x.a mask x.imm, crossed := false })) s

/-! ## Leases (R290 to R292) -/

/-- Quads that hold a resident block of a context. -/
def State.quadsOf (s : State) (c : Nat) : List Nat :=
  s.blocks.foldl (fun l p => if p.2.ctx = c then insertNat (quadOfCore p.2.core) l else l) []

/-- The status and the state of a LEASE (R291). -/
def State.lease (s : State) (level len : Nat) : Word × State :=
  let c := s.grp.ctx
  let q := s.quadsOf c
  let part := s.ctx.part
  let cost := len * q.length * level
  if 1 ≤ s.porch.shed then (2#32, s)
  else if s.boost part < cost then (1#32, s)
  else
    let t := s.endLease c
    let t := t.boostUse part (· + cost)
    let l : Lease := { ctx := some c, part := part, quads := q, level := level, expiry := s.timebase.toNat + len * 1000 }
    let t : State := { t with leases := tput t.leases t.next l, next := t.next + 1 }
    (0#32, t.resetpoints q)

/-- R290 -/
def execLease (x : SysF) (s : State) : Host.Outcome State Fault Refusal :=
  sysIssue ⟨.dstS, 1⟩ ⟨.sOnly, 1⟩ false x (fun s =>
    let level := (s.grp.rdS x.b 0).toNat
    if level = 0 ∨ 3 < level ∨ x.imm16 = 0#16 then .trap { cause := .leaseRange, mask := s.slot.mask }
    else
      let r := s.lease level x.imm16.toNat
      .done (r.2.setS x.d r.1)) s

end Sys2Proof.Machine
end

