-- ==== Sys2Proof/Machine/Alu.lean ====
section
/-! DEFINITION. The integer functions of 32-bit and 64-bit words that the scalar and vector instructions share (R58 to R60,
R79, R82, R84), and the shapes that apply them to operands. -/

namespace Sys2Proof.Machine

/-! ## Arithmetic (R58, R79) -/

/-- Bits 63:32 of the signed product. -/
def mulHiS (a b : Word) : Word := (a.signExtend 64 * b.signExtend 64).extractLsb' 32 32
/-- Bits 63:32 of the unsigned product. -/
def mulHiU (a b : Word) : Word := (a.setWidth 64 * b.setWidth 64).extractLsb' 32 32
def minS (a b : Word) : Word := if a.sle b then a else b
def maxS (a b : Word) : Word := if a.sle b then b else a
def minU (a b : Word) : Word := if a ≤ b then a else b
def maxU (a b : Word) : Word := if a ≤ b then b else a

/-- An integer clamped to the signed 32-bit range. -/
def clampS (i : Int) : Word := BitVec.ofInt 32 (max (-2147483648) (min 2147483647 i))
/-- An integer clamped to the unsigned 32-bit range. -/
def clampU (i : Int) : Word := BitVec.ofInt 32 (max 0 (min 4294967295 i))

def addSatS (a b : Word) : Word := clampS (a.toInt + b.toInt)
def subSatS (a b : Word) : Word := clampS (a.toInt - b.toInt)
def addSatU (a b : Word) : Word := clampU (a.toNat + b.toNat : Int)
def subSatU (a b : Word) : Word := clampU (a.toNat - b.toNat : Int)

def mad (a b c : Word) : Word := a * b + c
/-- sext64(A) × sext64(B) + C. -/
def madwS (a b : Word) (c : DWord) : DWord := a.signExtend 64 * b.signExtend 64 + c
/-- zext64(A) × zext64(B) + C. -/
def madwU (a b : Word) (c : DWord) : DWord := a.setWidth 64 * b.setWidth 64 + c
def absI (a : Word) : Word := if a.slt 0#32 then -a else a
def andn (a b : Word) : Word := a &&& ~~~ b

/-! ## Shifts: the count is the whole of B, unsigned (R59) -/

def shl (a b : Word) : Word := if b.toNat < 32 then a <<< b.toNat else 0#32
def shrU (a b : Word) : Word := if b.toNat < 32 then a >>> b.toNat else 0#32
def shrS (a b : Word) : Word := a.sshiftRight (min b.toNat 31)

/-! ## Conditions (R60) -/

def cEq (a b : Word) : Bool := a == b
def cNe (a b : Word) : Bool := a != b
def cLtS (a b : Word) : Bool := a.slt b
def cLeS (a b : Word) : Bool := a.sle b
def cGtS (a b : Word) : Bool := b.slt a
def cGeS (a b : Word) : Bool := b.sle a
def cLtU (a b : Word) : Bool := a.ult b
def cLeU (a b : Word) : Bool := a.ule b
def cGtU (a b : Word) : Bool := b.ult a
def cGeU (a b : Word) : Bool := b.ule a

def boolWord (c : Bool) : Word := if c then 1#32 else 0#32

/-! ## Dot products and bit fields (R79, R82) -/

/-- Byte `k` of a word. -/
def byteOf (a : Word) (k : Nat) : Byte := a.extractLsb' (8 * k) 8
/-- The word of four bytes, the first lowest. -/
def wordOf4 (b0 b1 b2 b3 : Byte) : Word := b3 ++ b2 ++ b1 ++ b0

def dp4S (a b c : Word) : Word :=
  let p (k : Nat) : Word := (byteOf a k).signExtend 32 * (byteOf b k).signExtend 32
  c + p 0 + p 1 + p 2 + p 3
def dp4U (a b c : Word) : Word :=
  let p (k : Nat) : Word := (byteOf a k).setWidth 32 * (byteOf b k).setWidth 32
  c + p 0 + p 1 + p 2 + p 3

/-- Number of one bits. -/
def popc (a : Word) : Nat := (List.range 32).countP fun i => a.getLsbD i
/-- Leading zero bits; 32 for zero. -/
def clz (a : Word) : Nat := if a = 0#32 then 32 else 31 - Nat.log2 a.toNat
/-- Trailing zero bits; 32 for zero. -/
def ctz (a : Word) : Nat := ((List.range 32).find? fun i => a.getLsbD i).getD 32
/-- Bit k of the result is bit 31 − k. -/
def brev (a : Word) : Word := maskWhere fun k => a.getLsbD (31 - k)

/-- Position and length a bit-field instruction takes from B (R82). -/
def bfPos (b : Word) : Nat := (b.extractLsb' 0 5).toNat
def bfLen (b : Word) : Nat := min (b.extractLsb' 8 6).toNat 32
/-- 2^len − 1. -/
def ones (len : Nat) : Word := BitVec.ofNat 32 (2 ^ len - 1)

def xtrU (a b : Word) : Word := (a >>> bfPos b) &&& ones (bfLen b)
def xtrS (a b : Word) : Word :=
  let n := min (bfLen b) (32 - bfPos b)
  if bfLen b = 0 then 0#32 else ((xtrU a b) <<< (32 - n)).sshiftRight (32 - n)
def insB (a b c : Word) : Word :=
  let m := ones (bfLen b) <<< bfPos b
  (c &&& ~~~ m) ||| ((a <<< bfPos b) &&& m)

/-- Byte of the eight-byte value B:A that a nibble of C picks; bit 3 of the nibble gives 0x00 (R82). -/
def bselByte (a b c : Word) (k : Nat) : Byte :=
  let n := (c.extractLsb' (4 * k) 4).toNat
  if 8 ≤ n then 0#8 else if n < 4 then byteOf a n else byteOf b (n - 4)
def bsel (a b c : Word) : Word := wordOf4 (bselByte a b c 0) (bselByte a b c 1) (bselByte a b c 2) (bselByte a b c 3)
def fun64 (a b c : Word) : Word := ((b ++ a) >>> (c.extractLsb' 0 6).toNat).setWidth 32

/-! ## Division (R84) -/

/-- Quotient, remainder and event of one lane. -/
def divS (n d : Word) : Word × Word × Events :=
  if d = 0#32 then (0xFFFFFFFF#32, n, evDZ)
  else if n = 0x80000000#32 ∧ d = 0xFFFFFFFF#32 then (0x80000000#32, 0#32, evIOV)
  else
    let q := BitVec.ofInt 32 (Int.tdiv n.toInt d.toInt)
    (q, n - q * d, 0#8)
def divU (n d : Word) : Word × Word × Events :=
  if d = 0#32 then (0xFFFFFFFF#32, n, evDZ)
  else
    let q := BitVec.ofNat 32 (n.toNat / d.toNat)
    (q, n - q * d, 0#8)

/-! ## Shapes of a lane's result -/

def lane1 (f : Word → Word) (x : RegF) : LanePure := fun e => [f (e.rd x.a 0)]
def lane2 (f : Word → Word → Word) (x : RegF) : LanePure := fun e => [f (e.rd x.a 0) (e.rd x.b 0)]
def lane3 (f : Word → Word → Word → Word) (x : RegF) : LanePure :=
  fun e => [f (e.rd x.a 0) (e.rd x.b 0) (e.rd x.c 0)]
/-- A pair from two pairs. -/
def lane64 (f : DWord → DWord → DWord) (x : RegF) : LanePure := fun e => words64 (f (e.rd64 x.a) (e.rd64 x.b))
/-- A pair from two registers and a pair. -/
def laneMadw (f : Word → Word → DWord → DWord) (x : RegF) : LanePure :=
  fun e => words64 (f (e.rd x.a 0) (e.rd x.b 0) (e.rd64 x.c))
/-- IMM takes the place of B. -/
def laneImm (f : Word → Word → Word) (x : ImmF) : LanePure := fun e => [f (e.rd x.a 0) x.imm]
/-- The result is IMM. -/
def laneMovImm (x : ImmF) : LanePure := fun _ => [x.imm]
def laneCmp (c : Word → Word → Bool) (x : RegF) : LaneCond := fun e => c (e.rd x.a 0) (e.rd x.b 0)
/-- A division: `sel` picks what is written. -/
def laneDiv (f : Word → Word → Word × Word × Events) (sel : Word → Word → List Word) (x : RegF) : LaneFn := fun e =>
  let r := f (e.rd x.a 0) (e.rd x.b 0)
  (sel r.1 r.2.1, r.2.2)

/-! ## Shapes of a scalar result -/

def scl1 (f : Word → Word) (x : RegF) : State → Word := fun s => f (s.grp.rdS x.a 0)
def scl2 (f : Word → Word → Word) (x : RegF) : State → Word := fun s => f (s.grp.rdS x.a 0) (s.grp.rdS x.b 0)
def scl3 (f : Word → Word → Word → Word) (x : RegF) : State → Word :=
  fun s => f (s.grp.rdS x.a 0) (s.grp.rdS x.b 0) (s.grp.rdS x.c 0)
def sclI (f : Word → Word → Word) (x : ImmF) : State → Word := fun s => f (s.grp.rdS x.a 0) x.imm
def sclCmp (c : Word → Word → Bool) (x : RegF) : State → Word :=
  fun s => boolWord (c (s.grp.rdS x.a 0) (s.grp.rdS x.b 0))

/-- A 64-bit scalar operand. -/
def Group.rdS64 (g : Group) (o : Opd) : DWord := g.rd64 o 0

/-- A class-S instruction of 64-bit pairs. -/
def scl64 (x : RegF) (f : DWord → DWord → DWord) (s : State) : Host.Outcome State Fault Refusal :=
  regIssue rSS64 x (fun s => .done (s.setS64 x.d (f (s.grp.rdS64 x.a) (s.grp.rdS64 x.b)))) s

end Sys2Proof.Machine
end

