-- ==== Sys2Proof/Machine/Float.lean ====
section
/-! DEFINITION. The number formats (R141 to R146), exact values, the one rounding of R147 and R150 with the events of R149, and
the arithmetic of float values (R148, R151 to R155). -/

namespace Sys2Proof.Machine

/-! ## Formats -/

/-- How a format uses its top exponent and what it lacks (R141, R142). -/
inductive FmtKind where
  /-- infinities and NaNs in the all-ones exponent -/
  | ieee
  /-- NaN in the all-ones code only, no infinity (E4M3) -/
  | nanOnly
  /-- finite values only -/
  | finite
  deriving DecidableEq, Repr

/-- A float format: exponent and mantissa bits, bias, kind, and its largest finite and canonical NaN codes. -/
structure Fmt where
  eb : Nat
  mb : Nat
  bias : Nat
  kind : FmtKind
  max : Nat
  nan : Nat
  deriving DecidableEq, Repr

def fp32 : Fmt := ⟨8, 23, 127, .ieee, 0x7F7FFFFF, 0x7FC00000⟩
def fp16 : Fmt := ⟨5, 10, 15, .ieee, 0x7BFF, 0x7E00⟩
def bf16 : Fmt := ⟨8, 7, 127, .ieee, 0x7F7F, 0x7FC0⟩
def e4m3 : Fmt := ⟨4, 3, 7, .nanOnly, 0x7E, 0x7F⟩
def e5m2 : Fmt := ⟨5, 2, 15, .ieee, 0x7B, 0x7E⟩
def e3m2 : Fmt := ⟨3, 2, 3, .finite, 0x1F, 0⟩
def e2m3 : Fmt := ⟨2, 3, 1, .finite, 0x1F, 0⟩
def e2m1 : Fmt := ⟨2, 1, 1, .finite, 0x7, 0⟩
/-- The sums of the matrix array (R146). -/
def fp26 : Fmt := ⟨8, 17, 127, .ieee, 0x1FDFFFF, 0x1FF0000⟩

/-- The sign bit of a format as a number. -/
def Fmt.sign (f : Fmt) : Nat := 2 ^ (f.eb + f.mb)
/-- The exponent of the smallest normal value. -/
def Fmt.emin (f : Fmt) : Int := 1 - f.bias
/-- The exponent of the smallest denormal. -/
def Fmt.qmin (f : Fmt) : Int := f.emin - f.mb
/-- The code of +∞, where the format has one. -/
def Fmt.inf (f : Fmt) : Nat := (2 ^ f.eb - 1) * 2 ^ f.mb

/-! ## Exact values -/

/-- An exact real value or a special: `num neg m e st` is ± m × 2^e, and with `st` a little more than m × 2^e and less than
(m + 1) × 2^e in magnitude. -/
inductive Val where
  | nan
  | inf (neg : Bool)
  | num (neg : Bool) (m : Nat) (e : Int) (st : Bool)
  deriving DecidableEq, Repr

/-- A value as an operand: whether it is a signalling NaN goes with it. -/
structure FSrc where
  v : Val
  sn : Bool
  deriving DecidableEq, Repr

/-- An exact result with the events of forming it. -/
structure Exact where
  v : Val
  ev : Events
  deriving DecidableEq, Repr

def Val.isNan : Val → Bool
  | .nan => true
  | _ => false
def Val.isInf : Val → Bool
  | .inf _ => true
  | _ => false
def Val.isZero : Val → Bool
  | .num _ m _ st => m == 0 && !st
  | _ => false
def Val.sign : Val → Bool
  | .nan => false
  | .inf n => n
  | .num n _ _ _ => n
def Val.negate : Val → Val
  | .nan => .nan
  | .inf n => .inf !n
  | .num n m e st => .num (!n) m e st

/-- The value of a code (R141, R142). -/
def unpack (f : Fmt) (c : Nat) : FSrc :=
  let neg := c / f.sign % 2 == 1
  let ex := c / 2 ^ f.mb % 2 ^ f.eb
  let fr := c % 2 ^ f.mb
  if f.kind = .ieee ∧ ex = 2 ^ f.eb - 1 then
    if fr = 0 then ⟨.inf neg, false⟩ else ⟨.nan, fr / 2 ^ (f.mb - 1) == 0⟩
  else if f.kind = .nanOnly ∧ ex = 2 ^ f.eb - 1 ∧ fr = 2 ^ f.mb - 1 then ⟨.nan, false⟩
  else if ex = 0 then ⟨.num neg fr f.qmin false, false⟩
  else ⟨.num neg (2 ^ f.mb + fr) (f.qmin + ex - 1) false, false⟩

/-- An FP32 register as an operand. -/
def unp32 (w : Word) : FSrc := unpack fp32 w.toNat

/-! ## Rounding (R147) -/

/-- Bits of a number. -/
def bitLen (m : Nat) : Nat := if m = 0 then 0 else Nat.log2 m + 1

/-- Round ± (m × 2^e, and a little more with `st`) to a multiple of 2^q under a mode: the multiple, and whether it differs. A
sticky value always has q ≥ e + 2. -/
def roundAt (mode : Nat) (neg : Bool) (m : Nat) (e : Int) (st : Bool) (q : Int) : Nat × Bool :=
  if q ≤ e then (m * 2 ^ (e - q).toNat, st)
  else
    let k := (q - e).toNat
    let hi := m / 2 ^ k
    let rem := m % 2 ^ k
    let half := 2 ^ (k - 1)
    let inexact := rem != 0 || st
    let up :=
      if mode = 0 then half < rem || (rem == half && (st || hi % 2 == 1))
      else if mode = 2 then inexact && !neg
      else if mode = 3 then inexact && neg
      else false
    (if up then hi + 1 else hi, inexact)

/-- Whether R147 delivers infinity on overflow. -/
def overToInf (mode : Nat) (neg : Bool) : Bool := mode == 0 || (mode == 2 && !neg) || (mode == 3 && neg)

/-- A code with a sign. -/
def Fmt.signed (f : Fmt) (neg : Bool) (c : Nat) : Nat := if neg then f.sign + c else c

/-- What a destination receives where R147 delivers ±∞ (R160); `sat` is CLAMP 3. -/
def Fmt.deliverInf (f : Fmt) (sat neg : Bool) : Nat × Events :=
  match f.kind with
  | .ieee => if sat then (f.signed neg f.max, evQSAT) else (f.signed neg f.inf, 0#8)
  | .nanOnly => if sat then (f.signed neg f.max, evQSAT) else (f.nan, 0#8)
  | .finite => (f.signed neg f.max, evQSAT)

/-- What a destination receives for an infinite source (R160). -/
def Fmt.ofInf (f : Fmt) (sat neg : Bool) : Nat × Events :=
  match f.kind with
  | .nanOnly => if sat then (f.signed neg f.max, evQSAT) else (f.nan, evNV)
  | _ => f.deliverInf sat neg

/-- What a destination receives for a NaN (R148, R160). -/
def Fmt.ofNan (f : Fmt) : Nat × Events :=
  match f.kind with
  | .finite => (0, evNV)
  | _ => (f.nan, 0#8)

/-- One rounding of a finite value into a format, with the events of R149. `tinyOnDelivery` judges UF by the delivered value, as
R163 does, and not by the rounding with unbounded exponent. -/
def roundNum (f : Fmt) (mode : Nat) (sat tinyOnDelivery : Bool) (neg : Bool) (m : Nat) (e : Int) (st : Bool) : Nat × Events :=
  if m = 0 ∧ st = false then (f.signed neg 0, 0#8)
  else
    let qu := e + bitLen m - (f.mb + 1)
    let q := max qu f.qmin
    let r := roundAt mode neg m e st q
    let ru := roundAt mode neg m e st qu
    let code := (q - f.qmin).toNat * 2 ^ f.mb + r.1
    if f.max < code then
      if overToInf mode neg then
        let d := f.deliverInf sat neg
        (d.1, d.2 ||| evOF ||| evNX)
      else (f.signed neg f.max, evOF ||| evNX)
    else
      let tiny : Bool := if tinyOnDelivery then decide (code < 2 ^ f.mb) else decide (qu + bitLen ru.1 - 1 < f.emin)
      (f.signed neg code, (if r.2 then evNX else 0#8) ||| (if r.2 && tiny then evUF else 0#8))

/-- Round an exact result into a format with a scale by a power of two (R150). -/
def roundVal (f : Fmt) (mode : Nat) (sat : Bool) (scale : Int) (x : Exact) : Nat × Events :=
  let r : Nat × Events :=
    match x.v with
    | .nan => f.ofNan
    | .inf n => f.ofInf sat n
    | .num n m e st => roundNum f mode sat false n m (e + scale) st
  (r.1, r.2 ||| x.ev)

/-- CLAMP 1 bounds a code to [0, 1], CLAMP 2 to [−1, 1]; NaN gives +0 and −0 stays (R150). -/
def clampCode (f : Fmt) (clamp : BitVec 2) (c : Nat) : Nat :=
  let one := f.bias * 2 ^ f.mb
  let mag := c % f.sign
  let neg := c / f.sign % 2 == 1
  if clamp = 1#2 ∨ clamp = 2#2 then
    if f.inf < mag then 0
    else if neg then (if clamp = 1#2 then (if mag = 0 then c else 0) else f.signed true (min mag one))
    else min mag one
  else c

/-- The steps of R150 after the exact result: the scale and the rounding together, then the clamp. -/
def finish (f : Fmt) (mode : Nat) (scale : BitVec 5) (clamp : BitVec 2) (x : Exact) : Nat × Events :=
  let r := roundVal f mode (clamp == 3#2) scale.toInt x
  (clampCode f clamp r.1, r.2)

/-! ## Arithmetic of exact values (R147, R148) -/

/-- The events of signalling NaNs among the operands. -/
def snEv (xs : List FSrc) : Events := if xs.any FSrc.sn then evNV else 0#8

def Val.int (v : Val) (q : Int) : Int :=
  match v with
  | .num n m e _ => let a : Int := m * 2 ^ (e - q).toNat; if n then -a else a
  | _ => 0
def Val.exp (v : Val) : Option Int :=
  match v with
  | .num _ m e _ => if m = 0 then none else some e
  | _ => none

/-- The exact sum of finite values. An exact zero has the sign its operands share, otherwise + or, in RDN, − (R147). -/
def sumNums (mode : Nat) (vs : List Val) : Val :=
  let q : Int := (vs.filterMap Val.exp).foldl min 1000
  let t := vs.foldl (fun (a : Int) v => a + v.int q) 0
  if t = 0 then
    if vs.all Val.sign then .num true 0 0 false
    else if vs.all fun v => !v.sign then .num false 0 0 false
    else .num (mode == 3) 0 0 false
  else .num (t < 0) t.natAbs q false

/-- The sum of values none of which is NaN: infinities of both signs are invalid (R148). -/
def sumVals (mode : Nat) (vs : List Val) : Exact :=
  let p := vs.any fun v => v == .inf false
  let n := vs.any fun v => v == .inf true
  if p && n then ⟨.nan, evNV⟩ else if p then ⟨.inf false, 0#8⟩ else if n then ⟨.inf true, 0#8⟩ else ⟨sumNums mode vs, 0#8⟩

/-- Whether a product is 0 × ∞. -/
def badMul (a b : Val) : Bool := (a.isZero && b.isInf) || (a.isInf && b.isZero)

/-- The exact product of two values that are not NaN and not 0 × ∞. -/
def mulVal (a b : Val) : Val :=
  match a, b with
  | .num n m e _, .num n' m' e' _ => .num (n ^^ n') (m * m') (e + e') false
  | _, _ => .inf (a.sign ^^ b.sign)

def exAdd (mode : Nat) (a b : FSrc) : Exact :=
  if a.v.isNan || b.v.isNan then ⟨.nan, snEv [a, b]⟩ else sumVals mode [a.v, b.v]
def exSub (mode : Nat) (a b : FSrc) : Exact := exAdd mode a { b with v := b.v.negate }
def exMul (a b : FSrc) : Exact :=
  if a.v.isNan || b.v.isNan then ⟨.nan, snEv [a, b]⟩
  else if badMul a.v b.v then ⟨.nan, evNV⟩
  else ⟨mulVal a.v b.v, 0#8⟩

/-- A sum of products and an addend: any 0 × ∞ is invalid, whatever the addend (R148). DEDUCED (log 58), unsafe. -/
def exDot (mode : Nat) (ps : List (FSrc × FSrc)) (c : FSrc) : Exact :=
  let all := ps.flatMap (fun p => [p.1, p.2]) ++ [c]
  let bad : Events := if ps.any fun p => badMul p.1.v p.2.v then evNV else 0#8
  if bad != 0#8 || all.any fun x => x.v.isNan then ⟨.nan, snEv all ||| bad⟩
  else sumVals mode (ps.map (fun p => mulVal p.1.v p.2.v) ++ [c.v])
def exFma (mode : Nat) (a b c : FSrc) : Exact := exDot mode [(a, b)] c

/-- The exact quotient: 64 bits and a sticky (R155). -/
def exDiv (a b : FSrc) : Exact :=
  if a.v.isNan || b.v.isNan then ⟨.nan, snEv [a, b]⟩
  else
    let s := a.v.sign ^^ b.v.sign
    match a.v, b.v with
    | .num _ m e _, .num _ m' e' _ =>
      if m' = 0 then (if m = 0 then ⟨.nan, evNV⟩ else ⟨.inf s, evFDZ⟩)
      else
        let k := 64 + bitLen m'
        ⟨.num s (m * 2 ^ k / m') (e - e' - k) (m * 2 ^ k % m' != 0), 0#8⟩
    | .inf _, .inf _ => ⟨.nan, evNV⟩
    | .inf _, _ => ⟨.inf s, 0#8⟩
    | _, _ => ⟨.num s 0 0 false, 0#8⟩

/-- The integer square root, a bit at a time from bit `k - 1`. -/
def isqrtFrom (n : Nat) : Nat → Nat → Nat
  | 0, r => r
  | k + 1, r => if (r + 2 ^ k) * (r + 2 ^ k) ≤ n then isqrtFrom n k (r + 2 ^ k) else isqrtFrom n k r
def isqrt (n : Nat) : Nat := isqrtFrom n (bitLen n / 2 + 1) 0

/-- The exact square root: the root of m × 2^e with at least 64 bits, and a sticky (R155). -/
def exSqrt (a : FSrc) : Exact :=
  match a.v with
  | .nan => ⟨.nan, snEv [a]⟩
  | .inf n => if n then ⟨.nan, evNV⟩ else ⟨.inf false, 0#8⟩
  | .num n m e _ =>
    if m = 0 then ⟨.num n 0 0 false, 0#8⟩
    else if n then ⟨.nan, evNV⟩
    else
      let k : Nat := 128 + (if e % 2 = 0 then 0 else 1)
      let w := m * 2 ^ k
      let r := isqrt w
      ⟨.num false r ((e - k) / 2) (r * r != w), 0#8⟩

/-- A value times a power of two (R151): an exponent beyond ±1000 acts as ±1000. -/
def exLdexp (a : FSrc) (b : Int) : Exact :=
  match a.v with
  | .num n m e st => ⟨.num n m (e + max (-1000) (min 1000 b)) st, 0#8⟩
  | v => ⟨v, snEv [a]⟩

/-! ## Integral values (R151, R160) -/

/-- A finite value rounded to an integer's magnitude. -/
def roundInt (mode : Nat) (neg : Bool) (m : Nat) (e : Int) (st : Bool) : Nat × Bool := roundAt mode neg m e st 0

/-- VRND: integral value under a mode, without NX or UF. -/
def exRnd (mode : Nat) (a : FSrc) : Exact :=
  match a.v with
  | .num n m e st => if 0 ≤ e then ⟨a.v, 0#8⟩ else ⟨.num n (roundInt mode n m e st).1 0 false, 0#8⟩
  | v => ⟨v, snEv [a]⟩

/-- A float to an integer in [lo, hi]; beyond it the bound with NV, NaN gives 0 with NV (R160). -/
def toInteger (lo hi : Int) (mode : Nat) (scale : Int) (a : FSrc) : Int × Events :=
  match a.v with
  | .nan => (0, evNV)
  | .inf n => (if n then lo else hi, evNV)
  | .num n m e st =>
    let r := roundInt mode n m (e + scale) st
    let i : Int := if n then -(r.1 : Int) else r.1
    if i < lo then (lo, evNV) else if hi < i then (hi, evNV) else (i, if r.2 then evNX else 0#8)

/-- An integer as an exact value. -/
def ofInteger (i : Int) : Exact := ⟨.num (i < 0) i.natAbs 0 false, 0#8⟩

/-! ## Order (R153, R154) -/

/-- Compare two finite or infinite values: −1, 0 or 1. -/
def cmpVal (a b : Val) : Int :=
  let rank (v : Val) : Int := match v with | .inf n => if n then -1 else 1 | _ => 0
  if rank a ≠ rank b then (if rank a < rank b then -1 else 1)
  else if rank a ≠ 0 then 0
  else
    let q : Int := ([a, b].filterMap Val.exp).foldl min 1000
    let x := a.int q
    let y := b.int q
    if x < y then -1 else if x = y then 0 else 1

/-- VMIN and VMAX on codes of a format (R154). -/
def minMax (f : Fmt) (isMax : Bool) (a b : Nat) : Nat × Events :=
  let x := unpack f a
  let y := unpack f b
  let ev := snEv [x, y]
  if x.v.isNan && y.v.isNan then (f.nan, ev)
  else if x.v.isNan then (b, ev)
  else if y.v.isNan then (a, ev)
  else
    let c := cmpVal x.v y.v
    if c = 0 then (if (x.v.sign != isMax) then a else b, 0#8)
    else (if (c < 0) != isMax then a else b, 0#8)

/-! ## FP32 operations on registers -/

def mode2 (rm : BitVec 2) : Nat := rm.toNat

/-- Rounding selected by RMS: 0 uses FP_MODE, 1 to 4 select RNE, RTZ, RUP and RDN (R158). -/
def rmsMode (rms : BitVec 3) (rm : BitVec 2) : Nat := if rms = 0#3 then rm.toNat else rms.toNat - 1

def w32 (r : Nat × Events) : Word × Events := (BitVec.ofNat 32 r.1, r.2)

/-- One FP32 addition, subtraction or multiplication, rounded once with no scale or clamp (R90, R162). -/
def fAdd (mode : Nat) (a b : Word) : Word × Events := w32 (roundVal fp32 mode false 0 (exAdd mode (unp32 a) (unp32 b)))
def fSub (mode : Nat) (a b : Word) : Word × Events := w32 (roundVal fp32 mode false 0 (exSub mode (unp32 a) (unp32 b)))
def fMul (mode : Nat) (a b : Word) : Word × Events := w32 (roundVal fp32 mode false 0 (exMul (unp32 a) (unp32 b)))
def fMin (a b : Word) : Word × Events := w32 (minMax fp32 false a.toNat b.toNat)
def fMax (a b : Word) : Word × Events := w32 (minMax fp32 true a.toNat b.toNat)

end Sys2Proof.Machine
end

