-- ==== Sys2Proof/Machine/Access.lean ====
section
/-! DEFINITION. How a memory instruction reaches global memory, the scratchpads and the constant and read-only paths: address
formation and its traps (R93, R96 to R98), translation and per-lane faults (R106, R124, R129), the charge of its requests
(R284, R285), the accesses (R114 to R119, R133), and the responses of other packages and of the host (R45, R294, R295). -/

namespace Sys2Proof.Machine

/-! ## The form's checks (R113, R118) -/

/-- The lanes of a memory instruction that are still to be performed: the executing lanes less those complete already. -/
def State.memLanes (s : State) (guard : BitVec 3) (ginv : Bool) : Lanes := s.execLanes guard ginv &&& ~~~ s.slot.doneL

/-- The issue checks of a memory-form instruction; `tw` is the width of T. -/
def memForm (r : MemRow) (tw : Nat) (x : MemF) (s : State) : Form :=
  { cls := r.cls, lanes := match r.cls with | .V => s.memLanes x.guard x.ginv | .S => s.passLanes,
    opds := [(⟨r.d, sizeRegs x.size⟩, x.d), (⟨r.a, if r.aPair then 2 else 1⟩, x.a), (⟨r.s, sizeRegs x.size⟩, x.s),
             (⟨r.t, tw⟩, x.t)],
    modOk := r.cls == .V || noGuard x.guard x.ginv }

/-- Issue a memory-form instruction. -/
def memIssue (r : MemRow) (tw : Nat) (x : MemF) (eff : State → Issue) (s : State) : Host.Outcome State Fault Refusal :=
  issue (r.cls == .V) (memForm r tw x) eff s

/-! ## Addresses -/

/-- The signed offset of the form. -/
def memOff (x : MemF) : Int := x.offset.toInt

/-- Global address of a lane, modulo 2^64 (R32). -/
def State.va (s : State) (x : MemF) (L : Lane) : Nat := (s.grp.rd64 x.a L + BitVec.ofInt 64 (memOff x)).toNat
/-- Scratchpad or constant offset of a lane, modulo 2^32 (R96, R98). -/
def State.lowOff (s : State) (x : MemF) (L : Lane) : Nat := (s.grp.rd x.a 0 L + BitVec.ofInt 32 (memOff x)).toNat

/-- The lanes of `E` that a check refuses. -/
def badLanes (E : Lanes) (ok : Lane → Bool) : Lanes := E &&& maskWhere fun L => !ok L

/-- The first whole-instruction trap among checks in order (R37, R124). -/
def firstTrap (E : Lanes) : List (Cause × (Lane → Bool)) → Option Trap
  | [] => none
  | (c, ok) :: rest => if badLanes E ok != 0#32 then some { cause := c, mask := badLanes E ok } else firstTrap E rest

/-- VA_RANGE, then MISALIGNED (R93). -/
def globalTrap (x : MemF) (E : Lanes) (s : State) : Option Trap :=
  firstTrap E [(.vaRange, fun L => s.va x L < 2 ^ 48), (.misaligned, fun L => s.va x L % sizeBytes x.size == 0)]

/-! ## Register data -/

/-- The words a loaded value gives (R114). -/
def loadWords (sz : Size) (sx : Bool) (bs : List Byte) : List Word :=
  let n := leNat bs
  match sz with
  | .b8 => [if sx then (BitVec.ofNat 8 n).signExtend 32 else BitVec.ofNat 32 n]
  | .b16 => [if sx then (BitVec.ofNat 16 n).signExtend 32 else BitVec.ofNat 32 n]
  | .b32 => [BitVec.ofNat 32 n]
  | .b64 => [BitVec.ofNat 32 n, BitVec.ofNat 32 (n / 2 ^ 32)]
  | .b128 => [BitVec.ofNat 32 n, BitVec.ofNat 32 (n / 2 ^ 32), BitVec.ofNat 32 (n / 2 ^ 64), BitVec.ofNat 32 (n / 2 ^ 96)]

/-- The low SIZE bytes of a data operand in a lane (R115). -/
def State.storeData (s : State) (o : Opd) (sz : Size) (L : Lane) : List Byte :=
  let n := (List.range (sizeRegs sz)).foldr (fun j a => (s.grp.rd o j L).toNat + 2 ^ 32 * a) 0
  leBytes (sizeBytes sz) n

/-- A data operand of an atomic in a lane, as 64 bits. -/
def State.atomOpd (s : State) (o : Opd) (sz : Size) (L : Lane) : DWord :=
  if sz = .b64 then s.grp.rd64 o L else (s.grp.rd o 0 L).setWidth 64

/-- First register entry a destination names in a lane, if it names any. -/
def Group.dstEntry (g : Group) (o : Opd) (L : Lane) : Option Nat :=
  match o with
  | .v n => some n.val
  | .vx k => some (g.vxEntry k L)
  | _ => none

/-- Write words from an entry on, in a lane. -/
def Group.setEntries (g : Group) (e : Nat) (L : Lane) : List Word → Group
  | [] => g
  | w :: ws => (g.setEntry e L w).setEntries (e + 1) L ws

/-! ## Atomics (R118) -/

/-- FP32 addition of an atomic: RNE, no events (R118). -/
def atomAddF32 (o x : Word) : Word := (fAdd 0 o x).1

/-- The new value of a 32-bit location from the old one, the operand and the compare value. -/
def atomNew32 (fn : Nat) (o x t : Word) : Word :=
  match fn with
  | 0x00 => o + x
  | 0x02 => minS o x
  | 0x03 => maxS o x
  | 0x04 => minU o x
  | 0x05 => maxU o x
  | 0x06 => o &&& x
  | 0x07 => o ||| x
  | 0x08 => o ^^^ x
  | 0x0B => if o = t then x else o
  | 0x0D => atomAddF32 o x
  | 0x0E => if x ≤ o then 0#32 else o + 1#32
  | 0x0F => if o = 0#32 ∨ x < o then x else o - 1#32
  | _ => x

/-- The new value of a location: functions 0x01, 0x0A and 0x0C are of 64 bits. -/
def atomNew (fn : Nat) (o x t : DWord) : DWord :=
  match fn with
  | 0x01 => o + x
  | 0x0A => x
  | 0x0C => if o = t then x else o
  | _ => (atomNew32 fn (o.setWidth 32) (x.setWidth 32) (t.setWidth 32)).setWidth 64

/-- The functions the host window performs (R120). -/
def hostAtom (fn : Nat) : Bool := fn == 0 || fn == 1 || (9 ≤ fn && fn ≤ 0x0C)

/-- One lane's atomic on a store of bytes: the old value, and the new bytes (R119). -/
def atomBytes (fn : Nat) (sz : Size) (old : List Byte) (x t : DWord) : List Byte :=
  leBytes (sizeBytes sz) (atomNew fn (BitVec.ofNat 64 (leNat old)) x t).toNat

/-! ## A lane's access (R106, R124) -/

/-- Whether an address lies on an SO page. -/
def onSO (s : State) (core : Option Nat) (c va : Nat) : Bool :=
  match leafOf s core c va with | some e => e.1.fld 1 2 == 1 | none => false

/-- How an instruction reads: whether L1 may supply the value, and whether a miss fills it (R99). -/
def l1Use (x : Xlat) (hint : Hint) : Bool := x.kind != 1 && hint != .bypassL1 && !isHost x.pa

/-- Whether L1 holds the sector of an address. -/
def Core.l1Has (c : Core) (pa : Nat) : Bool := (tget? c.l1 (pa / 64)).isSome

/-- Poison of the sector an access of a core reads, at the level that supplies it: the copy, where there is one, otherwise its home,
after the core's earlier stores to it (R103, R130). -/
def poisonOf (s : State) (core : Nat) (copy : Option Copy) (pa : Nat) : Bool :=
  match copy with
  | some x => x.poison
  | none => s.ownPa pa && s.poisoned pa && !s.mended core (paOff pa / 64)

/-- The per-lane check of a load or atomic after translation (R103). -/
def poisonCheck (s : State) (useL1 : Bool) (x : Xlat) : Except Cause Xlat :=
  if poisonOf s s.grp.core (if useL1 then tget? s.core.l1 (x.pa / 64) else none) x.pa then .error .poison else .ok x

/-- A translation by the issuing group's core. -/
def State.xlate (s : State) (va : Nat) (k : AccKind) : Except Cause Xlat := translate s (some s.grp.core) s.grp.ctx va k

/-- A global access of one lane: its translation, or its fault. `hint` decides whether L1 supplies a load. -/
def laneXlat (s : State) (k : AccKind) (hint : Hint) (fn : Option Nat) (va : Nat) : Except Cause Xlat :=
  match s.xlate va k with
  | .error e => .error e
  | .ok x =>
    match k, fn with
    | .store, _ => .ok x
    | .atomic, some f => if isHost x.pa && !hostAtom f then .error .atomicKind else poisonCheck s false x
    | _, _ => poisonCheck s (l1Use x hint) x

/-- The lanes that fault: those whose access fails, and above a failing lane of an SO page every lane of an SO page (R124). -/
def faultLanes (s : State) (E : Lanes) (va : Lane → Nat) (acc : Lane → Except Cause Xlat) : Lanes :=
  let bad (L : Lane) : Bool := match acc L with | .error _ => true | .ok _ => false
  let so (L : Lane) : Bool := onSO s (some s.grp.core) s.grp.ctx (va L)
  E &&& maskWhere fun L => bad L || (so L && (lanesOf E).any fun K => decide (K < L) && bad K && so K)

/-- The lowest faulting lane's cause and address. -/
def faultOf (F : Lanes) (va : Lane → Nat) (acc : Lane → Except Cause Xlat) : Cause × Nat :=
  match (lanesOf F).find? fun L => match acc L with | .error _ => true | .ok _ => false with
  | some L => (match acc L with | .error c => c | .ok _ => .pageAbsent, va L)
  | none => (.pageAbsent, 0)

/-! ## Requests and their charge (R284) -/

/-- Lanes with their translations. -/
abbrev LaneXlats := List (Lane × Xlat)

/-- The requests of the lanes on SO pages: each lane alone. -/
def soRequests (s : State) (xs : LaneXlats) : List Request :=
  (xs.filter fun p => p.2.kind == 1).map fun p => s.cost (2 ^ 60 + p.1) p.2.pa 1

/-- The requests of a pass: one for each line with the sectors it touches, an SO lane alone. -/
def lineRequests (s : State) (xs : LaneXlats) : List Request :=
  let rest := xs.filter fun p => p.2.kind != 1
  let lines := rest.foldl (fun l p => insertNat (p.2.pa / 128) l) []
  let secs := rest.foldl (fun l p => insertNat (p.2.pa / 64) l) []
  soRequests s xs ++ lines.map fun k => s.cost k (k * 128) (secs.filter fun q => q / 2 == k).length

/-- The requests of an atomic: one for each location, an SO lane alone (R119). -/
def atomRequests (s : State) (xs : LaneXlats) : List Request :=
  let rest := xs.filter fun p => p.2.kind != 1
  soRequests s xs ++ (rest.foldl (fun l p => insertNat p.2.pa l) []).map fun pa => s.cost (2 ^ 61 + pa) pa 1

/-! ## Walks that are waited for (R105) -/

/-- The walks an access waits for, one a page, where the model leaves walks in flight or a home slice holds
a table's line: `none` when it may go on. -/
def State.awaitWalks (s : State) (vas : List Nat) : Option State :=
  let mine (w : Walk) : Bool := w.gid == s.gid && w.slot == s.sel
  let miss := vas.filter fun a => (s.tlbHit (some s.grp.core) s.grp.ctx a).isNone
  if s.walkHeld (some s.grp.core) s.grp.ctx miss then some s
  else if !s.walkAsync || miss.isEmpty then none
  else if s.walks.any fun p => mine p.2 then
    if s.walks.all fun p => !mine p.2 || p.2.ended then none else some s
  else
    some (((miss.map (· / 65536)).eraseDups).foldl (fun (t : State) p =>
      { t with walks := tput t.walks t.next ⟨t.grp.ctx, t.gid, t.sel, p * 65536, false⟩, next := t.next + 1 }) s)

/-- The walks of the slot's instruction are over, and the pages it reached stay in the TLBs. -/
def State.endWalks (s : State) (vas : List Nat) : State :=
  State.tlbFills { s with walks := s.walks.filter fun p => !(p.2.gid == s.gid && p.2.slot == s.sel) } s.grp.core s.grp.ctx vas

/-! ## Accesses of this package -/

/-- The bytes a load reads: a copy's where one supplies it, otherwise memory's. -/
def State.loadBytes (s : State) (copy : Option Copy) (pa n : Nat) : List Byte :=
  match copy with
  | some x => (x.bytes.drop (pa % 64)).take n
  | none => s.physRead pa n

/-- The copy that L1 supplies a load of the issuing group with (R99). -/
def State.l1Copy (s : State) (x : Xlat) (hint : Hint) : Option Copy :=
  if l1Use x hint then tget? s.core.l1 (x.pa / 64) else none

/-- A core's load has read a sector at its home: L2 holds it, and L1 takes the copy with its HINT's priority, or gives up an older
one where the load does not allocate (R99, R133). -/
def State.fillL1 (s : State) (core pa : Nat) (prio : Option Nat) : State :=
  let s := s.touch pa
  let c := (s.coreAt core).l1Drop (pa / 64)
  s.setCoreAt core (match prio with | some p => c.l1Fill (pa / 64) (s.copyOf core pa p) | none => c)

/-- The priority a load's fill takes, if it allocates (R99). -/
def fillPrio (x : Xlat) (hint : Hint) : Option Nat := if l1Use x hint then some (hintPrio hint) else none

/-- What a load of a lane of this package leaves in the caches: nothing where L1 supplied it. -/
def State.loadFill (s : State) (x : Xlat) (hint : Hint) : State :=
  if (s.l1Copy x hint).isSome then s else s.fillL1 s.grp.core x.pa (fillPrio x hint)

/-- One lane's atomic at its home: the old bytes, and the state after it. -/
def State.atomAt (s : State) (fn : Nat) (sz : Size) (pa : Nat) (x t : DWord) : List Byte × State :=
  let old := s.physRead pa (sizeBytes sz)
  (old, s.store [(pa, atomBytes fn sz old x t)])

/-- Atomics of lanes in ascending order; the old bytes of each (R119). -/
def State.atomsAt (s : State) (fn : Nat) (sz : Size) : List (Nat × DWord × DWord) → List (List Byte) × State
  | [] => ([], s)
  | (pa, x, t) :: rest =>
    let r := s.atomAt fn sz pa x t
    let q := r.2.atomsAt fn sz rest
    (r.1 :: q.1, q.2)

/-! ## Requests outside the core -/

/-- The number the next request, store or packet takes. -/
def State.fresh (s : State) : Nat × State := (s.next, { s with next := s.next + 1 })

/-- The slot waits for a request. -/
def State.addOut (s : State) (o : Out) : State :=
  let s1 : State := { s with outs := tput s.outs s.next o, next := s.next + 1 }
  s1.setSlot { s1.slot with pending := s1.slot.pending ++ [s.next] }

/-- What a request of the issuing slot carries. -/
def State.mkOut (s : State) (sz : Size) (kind : ReqKind) (lanes : List LaneRet) (host : Bool) (above : Lanes)
    (fill : Option Nat) (acq : Option Scope) : Out :=
  { gid := s.gid, core := s.grp.core, tagKey := s.grp.tagKey, gtag := s.grp.gtag, uni := s.uni, size := sz, kind := kind,
    lanes := lanes, host := host, above := above, fill := fill, acquire := acq }

/-- The scope of an acquire. -/
def acqScope (o : Order) (sc : Scope) : Option Scope := if o = .acq ∨ o = .ar then some sc else none
/-- Whether an access is a release. -/
def isRel (o : Order) : Bool := o == .rel || o == .ar

/-- An acquire after an access, and a release before it. -/
def State.acquireIf (s : State) (o : Option Scope) : State := match o with | some sc => s.acquire sc | none => s
def State.releaseIf (s : State) (r : Bool) : State := if r then s.release else s

/-! ## Which lanes go now (R20, R129) -/

/-- The lanes of a pass that are performed or requested now; the others follow when the responses of these have arrived. SO lanes go
one at a time in ascending order: up to the first whose home is elsewhere (R129). This package's own stores and atomics wait for the
responses of the others, since one of those may stop the whole slot, and then none of the pass may have been performed (R20); a load
may be made again (R125). An SO lane below the first far one goes before it all the same, as R129 orders, and stands where that one's
response stops the slot. DEDUCED (log 71), unsafe. -/
def State.lanesNow (s : State) (write : Bool) (G : Lanes) (xl : Lane → Xlat) : Lanes :=
  let far (L : Lane) : Bool := !s.ownPa (xl L).pa
  let so (L : Lane) : Bool := (xl L).kind == 1
  let Ls := lanesOf G
  let stop := Ls.find? fun L => so L && far L
  let waits : Bool := write && Ls.any far
  let soNow (L : Lane) : Bool := match stop with | some J => L ≤ J | none => !waits
  G &&& maskWhere fun L => if so L then soNow L else far L || !waits

/-- Lanes complete now, where others are outstanding or left. -/
def State.markDone (s : State) (ls : List Lane) : State :=
  s.setSlot { s.slot with doneL := s.slot.doneL ||| maskWhere fun L => ls.contains L }

/-- Nothing of the pass at hand is outstanding or left. -/
def Slot.passOver (t : Slot) : Bool := t.pending.isEmpty && t.left == 0#32

/-- A lane has received a value; it is written when the pass is over (R20). -/
def State.stage (s : State) (L : Lane) (entry : Option Nat) (ws : List Word) : State :=
  s.setSlot { s.slot with got := s.slot.got ++ [⟨L, entry, ws⟩] }

/-- The values received are written to the registers, whose power units wake (R50). -/
def State.commit (s : State) : State :=
  let got := s.slot.got
  if got.isEmpty then s
  else
    let put (g : Group) (x : Got) : Group := match x.entry with | some e => g.setEntries e x.lane x.words | none => g
    let es := got.flatMap fun x => match x.entry with | some e => (List.range x.words.length).map fun j => e + j | none => []
    let t := s.setGrp (got.foldl put s.grp)
    (t.wakeEntries t.grp es).setSlot { t.slot with got := [] }

/-- Values of lanes are written at once where the pass is over with them, and kept until then otherwise. -/
def State.deliverLanes (s : State) (whole : Bool) (o : Opd) (f : Lane → List Word) (ls : List Lane) : State :=
  if whole then s.setGrp (s.grp.wrLanes o f ls)
  else (ls.foldl (fun (t : State) L => t.stage L (s.grp.dstEntry o L) (f L)) s).markDone ls

/-- What the access of a pass comes to once its lanes of now are performed or requested: `F` fault. -/
def passResult (s1 t : State) (F : Lanes) (f : Cause × Nat) : Issue :=
  let whole := t.slot.passOver
  let t := if whole then t.commit else t
  if F = 0#32 then (if whole then .done t else .wait t) else .wait (s1.laneFault t F f.1 f.2 .instr 0#4 whole)

/-- The requests of lanes that leave the core: of a lane that meets poison below it too (R103, R284). -/
def sentLanes (s : State) (k : AccKind) (va : Lane → Nat) (acc : Lane → Except Cause Xlat) (Ls : List Lane) : LaneXlats :=
  Ls.filterMap fun L =>
    match acc L with
    | .ok r => some (L, r)
    | .error _ => match s.xlate (va L) k with | .ok r => some (L, r) | .error _ => none

/-- The lanes of a mask that meet poison. -/
def poisonLanes (F : Lanes) (acc : Lane → Except Cause Xlat) : Lanes :=
  F &&& maskWhere fun L => match acc L with | .error .poison => true | _ => false

/-- The accesses of a pass's lanes: their waits, faults (R20, R124) and charge (R285); then `perform`, which makes the accesses of
this package's lanes of now and issues the requests of the others. Its flag says that the pass is over with them. -/
def passAccess (x : MemF) (k : AccKind) (va : State → Lane → Nat) (acc : State → Lane → Except Cause Xlat)
    (reqs : State → LaneXlats → List Request) (perform : State → Bool → Lanes → (Lane → Xlat) → State) (s : State) : Issue :=
  let E := s.memLanes x.guard x.ginv
  let vas := (lanesOf E).map (va s)
  match s.awaitWalks vas with
  | some t => .wait t
  | none =>
    let n := sizeBytes x.size
    let xl (L : Lane) : Xlat := match acc s L with | .ok r => r | .error _ => ⟨0, 0, false⟩
    let F := faultLanes s E (va s) (acc s)
    let G := E &&& ~~~ F
    let spans := (lanesOf G).map fun L => ((xl L).pa, n)
    let write : Bool := k != .load && k != .roLoad
    if s.jobHazard write (vas.map fun a => (a, n)) || s.nearHazard spans || s.tagHazard spans then .wait s
    else
      let s1 := s.endWalks vas
      let f := faultOf F (va s) (acc s)
      let stops : Bool := F != 0#32 && !s.canPark
      let now := if stops then 0#32 else s.lanesNow write G xl
      let p := s1.pay (reqs s (sentLanes s k (va s) (acc s) (lanesOf (now ||| poisonLanes F (acc s)))))
      if p.1 = false then .wait p.2
      else if stops then .wait (p.2.laneFault p.2 F f.1 f.2 .instr 0#4 false)
      else
          let whole := now == G && s.slot.got.isEmpty && (lanesOf G).all fun L => s.ownPa (xl L).pa
          let t := perform (p.2.setSlot { p.2.slot with left := G &&& ~~~ now }) whole now xl
          passResult s1 t F f

/-- A global access of the pass about to issue: its traps, then the accesses. -/
def globalAccess (x : MemF) (k : AccKind) (fn : Option Nat) (reqs : State → LaneXlats → List Request)
    (perform : State → Bool → Lanes → (Lane → Xlat) → State) (s : State) : Issue :=
  match globalTrap x (s.memLanes x.guard x.ginv) s with
  | some t => .trap t
  | none =>
    passAccess x k (fun s L => s.va x L) (fun s L => laneXlat s k x.hint fn (s.va x L)) reqs perform s

/-! ## Loads, stores and atomics of the global space -/

/-- The spans of physical bytes of some lanes. -/
def spansOf (ls : List Lane) (pa : Lane → Nat) (n : Nat) : List (Nat × Nat) := ls.map fun L => (pa L, n)

/-- Earlier stores that must be performed before an access: all of them before an access ordered as SO or a release, otherwise
those to its bytes (R128 to R130). -/
def State.orderBefore (s : State) (so rel : Bool) (spans : List (Nat × Nat)) : State :=
  if so || rel then s.drainAll else s.drainFor s.grp.core spans

/-- Whether some lane lies on an SO page. -/
def anySO (G : Lanes) (xl : Lane → Xlat) : Bool := (lanesOf G).any fun L => (xl L).kind == 1

/-- A request's lanes. -/
def State.rets (s : State) (va : Lane → Nat) (o : Opd) (xl : Lane → Xlat) (ls : List Lane) : List LaneRet :=
  ls.map fun L => ⟨L, va L, (xl L).pa, s.grp.dstEntry o L⟩

/-- The requests of the lanes whose home is another package or the host, each with its own response (R294, R295). -/
def State.addFar (s : State) (ls : List (List Lane)) (mk : List Lane → Out) : State :=
  ls.foldl (fun (t : State) l => t.addOut (mk l)) s

/-- Lanes of a mask whose home is another package or the host: each alone, or for an atomic those of one location together, but on SO
pages (R119). -/
def State.farLanes (s : State) (G : Lanes) (xl : Lane → Xlat) : List Lane := (lanesOf G).filter fun L => !s.ownPa (xl L).pa
def State.farAlone (s : State) (G : Lanes) (xl : Lane → Xlat) : List (List Lane) := (s.farLanes G xl).map fun L => [L]
def State.farJoined (s : State) (G : Lanes) (xl : Lane → Xlat) : List (List Lane) :=
  let so := (s.farLanes G xl).filter fun L => (xl L).kind == 1
  let rest := (s.farLanes G xl).filter fun L => (xl L).kind != 1
  so.map (fun L => [L]) ++ ((rest.map fun L => (xl L).pa).eraseDups).map fun a => rest.filter fun L => (xl L).pa == a

/-- The lanes left of SO pages, above a lane that is on one (R124). -/
def State.soAbove (s : State) (xl : Lane → Xlat) (ls : List Lane) : Lanes :=
  if ls.any fun L => (xl L).kind == 1 then s.slot.left &&& maskWhere fun L => (xl L).kind == 1 else 0#32

/-- Whether a request goes to the host window. -/
def toHost (xl : Lane → Xlat) (ls : List Lane) : Bool := ls.any fun L => isHost (xl L).pa

/-- Lanes of a mask whose home is this package. -/
def State.ownLanes (s : State) (G : Lanes) (xl : Lane → Xlat) : List Lane := (lanesOf G).filter fun L => s.ownPa (xl L).pa

/-- Perform a load's good lanes (R114): those of this package now, or left in flight where the model defers loads, which it does not
with SO lanes. DESIGN CHOICE (log 9), unsafe. -/
def performLoad (x : MemF) (sx : Bool) (s : State) (whole : Bool) (G : Lanes) (xl : Lane → Xlat) : State :=
  let n := sizeBytes x.size
  let so := anySO G xl
  let s := s.orderBefore so false (spansOf (lanesOf G) (fun L => (xl L).pa) n)
  let acq := acqScope x.order x.scope
  let own := s.ownLanes G xl
  let out (host : Bool) (fill : Option Nat) (ls : List Lane) : Out :=
    s.mkOut x.size (.load sx) (s.rets (s.va x) x.d xl ls) host (s.soAbove xl ls) fill acq
  let t :=
    if s.deferLoads && !so && !own.isEmpty then s.addOut (out false (if own.all fun L => l1Use (xl L) x.hint then
      some (hintPrio x.hint) else none) own)
    else
      let vals := fun L => loadWords x.size sx (s.loadBytes (s.l1Copy (xl L) x.hint) (xl L).pa n)
      own.foldl (fun (t : State) L => t.loadFill (xl L) x.hint) (s.deliverLanes whole x.d vals own)
  (t.addFar (s.farAlone G xl) fun ls => out (toHost xl ls) none ls).acquireIf acq

/-- L1 after a store: the copy is updated, or dropped with HINT 3 or on an SO page (R99). -/
def State.storeL1 (s : State) (hint : Hint) (x : Xlat) (bs : List Byte) : State :=
  s.setCoreAt s.grp.core (if l1Use x hint then s.core.l1Store x.pa bs else s.core.l1Drop (x.pa / 64))

/-- Stores of this package reach memory, or retire and are performed later where the model defers them, which it does not with SO
lanes (R123). -/
def State.putStores (s : State) (so uo : Bool) (ws : List Write) : State :=
  if ws.isEmpty then s
  else if s.deferStores && !so then
    { s with stores := s.stores ++ [(s.next, ⟨s.gid, s.sel, some s.grp.core, uo, ws⟩)], next := s.next + 1 }
  else (s.drainFor s.grp.core (ws.map fun w => (w.1, w.2.length))).store ws

/-- Perform a store's good lanes (R115): in ascending order, so that the highest lane's bytes stand. -/
def performStores (x : MemF) (s : State) (whole : Bool) (G : Lanes) (xl : Lane → Xlat) : State :=
  let so := anySO G xl
  let s := s.orderBefore so (isRel x.order) []
  let own := s.ownLanes G xl
  let data (L : Lane) := s.storeData x.s x.size L
  let ws := own.map fun L => ((xl L).pa, data L)
  let t := (lanesOf G).foldl (fun (t : State) L => t.storeL1 x.hint (xl L) (data L)) s
  let t := t.setCoreAt t.grp.core (t.core.l1Mend ((lanesOf G).map fun L => ((xl L).pa, data L)))
  let t := t.putStores so (own.any fun L => (xl L).kind == 2) ws
  let t := t.addFar (s.farAlone G xl) fun ls =>
    s.mkOut x.size (.store (ls.map data)) (s.rets (s.va x) .zero xl ls) (toHost xl ls) (s.soAbove xl ls) none none
  if whole then t else t.markDone own

/-- Perform an atomic's good lanes (R118, R119). -/
def performAtomics (fn : Nat) (x : MemF) (s : State) (whole : Bool) (G : Lanes) (xl : Lane → Xlat) : State :=
  let so := anySO G xl
  let s := s.orderBefore so (isRel x.order) (spansOf (lanesOf G) (fun L => (xl L).pa) (sizeBytes x.size))
  let own := s.ownLanes G xl
  let acq := acqScope x.order x.scope
  let ops (L : Lane) := (s.atomOpd x.s x.size L, s.atomOpd x.t x.size L)
  let r := s.atomsAt fn x.size (own.map fun L => ((xl L).pa, (ops L).1, (ops L).2))
  let olds := own.zip r.1
  let old (L : Lane) : List Byte := (tget? olds L).getD []
  let t := r.2.deliverLanes whole x.d (fun L => loadWords x.size false (old L)) own
  let t := (lanesOf G).foldl (fun (t : State) L => t.setCoreAt t.grp.core (t.core.l1Drop ((xl L).pa / 64))) t
  (t.addFar (s.farJoined G xl) fun ls =>
    s.mkOut x.size (.atom fn (ls.map ops)) (s.rets (s.va x) x.d xl ls) (toHost xl ls) (s.soAbove xl ls) none acq).acquireIf acq

end Sys2Proof.Machine
end

