-- ==== Sys2Proof/Machine/Mem.lean ====
section
/-! DEFINITION. The memory instructions (R113 to R122): global loads and stores, atomics, the scratchpads, the constant and the
read-only paths, fences, prefetch and residency; and the events that complete accesses left in flight. -/

namespace Sys2Proof.Machine

/-! ## Global loads, stores and atomics (R114, R115, R118) -/

/-- R114 -/
def execLdG (x : MemF) (sx : Bool) (s : State) : Host.Outcome State Fault Refusal :=
  memIssue mLoad 1 x (globalAccess x .load none lineLoads (performLoad x sx)) s
where
  /-- A load that L1 answers asks for nothing (R284). -/
  lineLoads (s : State) (xs : LaneXlats) : List Request := lineRequests s (xs.filter fun p => (s.l1Copy p.2 x.hint).isNone)

/-- R115 -/
def execStG (x : MemF) (s : State) : Host.Outcome State Fault Refusal :=
  memIssue mStore 1 x (globalAccess x .store none lineRequests (performStores x)) s

/-! ## Scratchpads (R96, R97, R116) -/

/-- Annex scratchpad bytes of a launch's blocks (R51, R190). -/
def Launch.annexBytes (l : Launch) : Nat := if l.hot then l.scratch - 0x100000 else 0

/-- Whether an access lies in one range of a block of the launch (R96). -/
def Launch.scratchOk (l : Launch) (off n : Nat) : Bool :=
  off + n ≤ min l.scratch 0x100000 || (0x100000 ≤ off && off + n ≤ 0x100000 + l.annexBytes)

/-- The block of a rank in the issuing gang, while it is resident. -/
def State.gangBlock (s : State) (r : Nat) : Option Nat :=
  (s.blocks.find? fun p => p.2.launch == s.grp.launch && p.2.gang == s.blk.gang && p.2.rank == r).map Prod.fst

def Block.read (b : Block) (off n : Nat) : List Byte := (List.range n).map fun i => sget b.scratch (off + i)

def putBytes (m : Sparse 8) (off : Nat) : List Byte → Sparse 8
  | [] => m
  | b :: bs => putBytes (sput m off b) (off + 1) bs

/-- Store writes of one instruction into a block's scratchpad; a sector written whole loses its poison (R103). -/
def Block.write (b : Block) (ws : List Write) : Block :=
  { b with scratch := ws.foldl (fun (m : Sparse 8) w => putBytes m w.1 w.2) b.scratch,
           scratchPoison := b.scratchPoison.filter fun k => !coversSector ws k }

/-- Where a scratchpad access of a lane goes: none when the block of that rank is no longer resident. -/
abbrev LaneTarget := Lane → Option Nat

/-- A scratchpad access: its traps, the waits of R137, POISON, then the accesses (R96, R97, R116, R118). `rank` is the lane's
gang rank for the remote space. -/
def scratchAccess (x : MemF) (rank : Option (State → Lane → Nat)) (write reads : Bool)
    (perform : State → Lanes → LaneTarget → State) (s : State) : Issue :=
  let E := s.memLanes x.guard x.ginv
  let n := sizeBytes x.size
  let rk (L : Lane) : Nat := match rank with | some f => f s L | none => 0
  let off (L : Lane) := s.lowOff x L
  let tgt (L : Lane) : Option Nat := match rank with | some _ => s.gangBlock (rk L) | none => some s.grp.block
  match firstTrap E [(.remoteRank, fun L => rank.isNone || rk L < 2 ^ s.lnc.gangLog),
      (.misaligned, fun L => off L % n == 0), (.scratchRange, fun L => s.lnc.scratchOk (off L) n)] with
  | some t => .trap t
  | none =>
    let mine := (lanesOf E).filter fun L => tgt L == some s.grp.block
    if s.scratchHazard write (mine.map fun L => (off L, n)) then .wait s
    else
      let F := E &&& maskWhere fun L =>
        reads && (match tgt L with | some b => (s.blkAt b).scratchPoison.contains (off L / 64) | none => false)
      let va := off (((lanesOf F).head?).getD 0)
      if F = 0#32 then .done (perform s E tgt)
      else if s.canPark then .wait (s.laneFault (perform s (E &&& ~~~ F) tgt) F .poison va .instr 0#4 true)
      else .wait (s.laneFault s F .poison va .instr 0#4 true)

/-- The n-th free value of a state. -/
def State.freeBytes (s : State) (i n : Nat) : List Byte :=
  (leBytes 4 (Config.freeValue (s.free + 4 * i)).toNat ++ leBytes 4 (Config.freeValue (s.free + 4 * i + 1)).toNat
    ++ leBytes 4 (Config.freeValue (s.free + 4 * i + 2)).toNat
    ++ leBytes 4 (Config.freeValue (s.free + 4 * i + 3)).toNat).take n

/-- The bytes a lane reads: an absent block's are not stated, and are free values. -/
def State.scratchBytes (s : State) (tgt : LaneTarget) (off n : Nat) (L : Lane) : List Byte :=
  match tgt L with
  | some b => (s.blkAt b).read off n
  | none => s.freeBytes L n

/-- Free values are used up where some lane's block is absent. -/
def State.useFree (s : State) (tgt : LaneTarget) (Ls : List Lane) : State :=
  if Ls.any fun L => (tgt L).isNone then { s with free := s.free + 128 } else s

/-- The order scope of a scratchpad access: a remote one acts at DIE at least (R116). -/
def scratchScope (remote : Bool) (sc : Scope) : Scope :=
  if remote && (sc == .core || sc == .quad) then .die else sc

def scratchLoad (x : MemF) (sx remote : Bool) (s : State) (G : Lanes) (tgt : LaneTarget) : State :=
  let n := sizeBytes x.size
  let t := s.setLanes x.d G fun L => loadWords x.size sx (s.scratchBytes tgt (s.lowOff x L) n L)
  (t.useFree tgt (lanesOf G)).acquireIf (acqScope x.order (scratchScope remote x.scope))

/-- The blocks that some lanes store to, each with its writes in lane order. -/
def scratchWrites (Ls : List Lane) (tgt : LaneTarget) (w : Lane → Write) (b : Nat) : List Write :=
  (Ls.filter fun L => tgt L == some b).map w

def State.scratchStoreAll (s : State) (Ls : List Lane) (tgt : LaneTarget) (w : Lane → Write) : State :=
  let bs := (Ls.filterMap tgt).foldl (fun l b => insertNat b l) []
  bs.foldl (fun (t : State) b => t.setBlkAt b ((t.blkAt b).write (scratchWrites Ls tgt w b))) s

def scratchStore (x : MemF) (s : State) (G : Lanes) (tgt : LaneTarget) : State :=
  (s.releaseIf (isRel x.order)).scratchStoreAll (lanesOf G) tgt fun L => (s.lowOff x L, s.storeData x.s x.size L)

/-- Rank operand T of a remote access (R116). -/
def rankT (x : MemF) (s : State) (L : Lane) : Nat := (s.grp.rd x.t 0 L).toNat

/-- R116 -/
def execLdS (x : MemF) (sx : Bool) (s : State) : Host.Outcome State Fault Refusal :=
  memIssue mLoadS 1 x (scratchAccess x none false true (scratchLoad x sx false)) s
/-- R116 -/
def execStS (x : MemF) (s : State) : Host.Outcome State Fault Refusal :=
  memIssue mStoreS 1 x (scratchAccess x none true false (scratchStore x)) s
/-- R116, R97 -/
def execLdRs (x : MemF) (sx : Bool) (s : State) : Host.Outcome State Fault Refusal :=
  memIssue mLoadRS 1 x (scratchAccess x (some (rankT x)) false true (scratchLoad x sx true)) s
/-- R116, R97 -/
def execStRs (x : MemF) (s : State) : Host.Outcome State Fault Refusal :=
  memIssue mStoreRS 1 x (scratchAccess x (some (rankT x)) true false (scratchStore x)) s

/-- Atomics of lanes in ascending order at the scratchpads they name; the old bytes of each (R119, R120). -/
def scratchAtoms (fn : Nat) (sz : Size) (tgt : LaneTarget) (s0 : State) :
    List (Lane × Nat × DWord × DWord) → State → List (Lane × List Byte) × State
  | [], s => ([], s)
  | (L, off, x, t) :: rest, s =>
    let n := sizeBytes sz
    match tgt L with
    | none => let q := scratchAtoms fn sz tgt s0 rest s; ((L, s0.freeBytes L n) :: q.1, q.2)
    | some b =>
      let old := (s.blkAt b).read off n
      let m := putBytes (s.blkAt b).scratch off (atomBytes fn sz old x t)
      let q := scratchAtoms fn sz tgt s0 rest (s.setBlkAt b { s.blkAt b with scratch := m })
      ((L, old) :: q.1, q.2)

def scratchAtomic (fn : Nat) (x : MemF) (remote : Bool) (s : State) (G : Lanes) (tgt : LaneTarget) : State :=
  let s1 := s.releaseIf (isRel x.order)
  let ops := (lanesOf G).map fun L => (L, s.lowOff x L, s.atomOpd x.s x.size L, s.atomOpd x.t x.size L)
  let r := scratchAtoms fn x.size tgt s1 ops s1
  let t := r.2.setLanes x.d G fun L => loadWords x.size false ((tget? r.1 L).getD [])
  (t.useFree tgt (lanesOf G)).acquireIf (acqScope x.order (scratchScope remote x.scope))

/-- An atomic in the space its word names (R118). -/
def atomic (fn : Nat) (cas : Bool) (sz : Size) (x : MemF) (sp : SpaceX) (s : State) : Host.Outcome State Fault Refusal :=
  memIssue (mAtom cas sz sp) (sizeRegs sz) x (fun s =>
    if sp.space = 0#2 then globalAccess x .atomic (some fn) atomRequests (performAtomics fn x) s
    else
      scratchAccess x (if sp.space = 2#2 then some fun _ _ => sp.rank.toNat else none) true true
        (scratchAtomic fn x (sp.space == 2#2)) s) s

/-- R118 -/
def execAtomAddI32 (x : MemF) (sp : SpaceX) (s : State) : Host.Outcome State Fault Refusal :=
  atomic 0x00 false .b32 x sp s
/-- R118 -/
def execAtomAddB64 (x : MemF) (sp : SpaceX) (s : State) : Host.Outcome State Fault Refusal :=
  atomic 0x01 false .b64 x sp s
/-- R118 -/
def execAtomMinI32 (x : MemF) (sp : SpaceX) (s : State) : Host.Outcome State Fault Refusal :=
  atomic 0x02 false .b32 x sp s
/-- R118 -/
def execAtomMaxI32 (x : MemF) (sp : SpaceX) (s : State) : Host.Outcome State Fault Refusal :=
  atomic 0x03 false .b32 x sp s
/-- R118 -/
def execAtomMinB32 (x : MemF) (sp : SpaceX) (s : State) : Host.Outcome State Fault Refusal :=
  atomic 0x04 false .b32 x sp s
/-- R118 -/
def execAtomMaxB32 (x : MemF) (sp : SpaceX) (s : State) : Host.Outcome State Fault Refusal :=
  atomic 0x05 false .b32 x sp s
/-- R118 -/
def execAtomAndB32 (x : MemF) (sp : SpaceX) (s : State) : Host.Outcome State Fault Refusal :=
  atomic 0x06 false .b32 x sp s
/-- R118 -/
def execAtomOrB32 (x : MemF) (sp : SpaceX) (s : State) : Host.Outcome State Fault Refusal :=
  atomic 0x07 false .b32 x sp s
/-- R118 -/
def execAtomXorB32 (x : MemF) (sp : SpaceX) (s : State) : Host.Outcome State Fault Refusal :=
  atomic 0x08 false .b32 x sp s
/-- R118 -/
def execAtomExchB32 (x : MemF) (sp : SpaceX) (s : State) : Host.Outcome State Fault Refusal :=
  atomic 0x09 false .b32 x sp s
/-- R118 -/
def execAtomExchB64 (x : MemF) (sp : SpaceX) (s : State) : Host.Outcome State Fault Refusal :=
  atomic 0x0A false .b64 x sp s
/-- R118 -/
def execAtomCasB32 (x : MemF) (sp : SpaceX) (s : State) : Host.Outcome State Fault Refusal :=
  atomic 0x0B true .b32 x sp s
/-- R118 -/
def execAtomCasB64 (x : MemF) (sp : SpaceX) (s : State) : Host.Outcome State Fault Refusal :=
  atomic 0x0C true .b64 x sp s
/-- R118 -/
def execAtomAddF32 (x : MemF) (sp : SpaceX) (s : State) : Host.Outcome State Fault Refusal :=
  atomic 0x0D false .b32 x sp s
/-- R118 -/
def execAtomIncB32 (x : MemF) (sp : SpaceX) (s : State) : Host.Outcome State Fault Refusal :=
  atomic 0x0E false .b32 x sp s
/-- R118 -/
def execAtomDecB32 (x : MemF) (sp : SpaceX) (s : State) : Host.Outcome State Fault Refusal :=
  atomic 0x0F false .b32 x sp s

/-! ## The constant and the read-only path (R98, R117, R139) -/

/-- A path's cache: the copies it holds, keyed by launch and sector. -/
abbrev PathCache := Map (Nat × Nat) Copy

/-- The copy a path's cache holds of a sector, for the issuing group's launch. -/
def State.pathCopy (s : State) (c : PathCache) (pa : Nat) : Option Copy := tget? c (s.grp.launch, pa / 64)

/-- The cache holds the sector from then on. -/
def pathFill (s : State) (c : PathCache) (pa : Nat) : PathCache :=
  match s.pathCopy c pa with
  | some _ => c
  | none => c ++ [((s.grp.launch, pa / 64), s.copyOf s.grp.core pa 1)]

/-- A path of a core: its cache, read and written. -/
structure Path where
  get : Core → PathCache
  put : Core → PathCache → Core

def constPath : Path := { get := fun c => c.cc, put := fun c m => { c with cc := m } }
def roPath : Path := { get := fun c => c.ro, put := fun c m => { c with ro := m } }

/-- A path's access of one lane: its translation, or its fault; the cache's copy is judged for poison where there is one (R103). -/
def Path.xlat (p : Path) (s : State) (k : AccKind) (va : Nat) : Except Cause Xlat :=
  match s.xlate va k with
  | .error e => .error e
  | .ok r => if poisonOf s s.grp.core (s.pathCopy (p.get s.core) r.pa) r.pa then .error .poison else .ok r

/-- A load through a path asks for the lines its cache does not hold (R284). -/
def Path.reqs (p : Path) (s : State) (xs : LaneXlats) : List Request :=
  lineRequests s (xs.filter fun r => (s.pathCopy (p.get s.core) r.2.pa).isNone)

/-- A load of this package through a path leaves its sector in the cache; where it was not there its home has given what it holds now, and
the core's L1 gives up an older copy, so that a later load of the slot does not go back behind it (R133). -/
def Path.fill (p : Path) (s : State) (pa : Nat) : State :=
  if (s.pathCopy (p.get s.core) pa).isSome then s
  else
    let t := s.touch pa
    t.setCoreAt s.grp.core ((p.put t.core (pathFill t (p.get t.core) pa)).l1Drop (pa / 64))

/-- Perform the good lanes of a load through a path (R117). -/
def Path.perform (p : Path) (x : MemF) (sx : Bool) (va : State → Lane → Nat) (s : State) (whole : Bool) (G : Lanes)
    (xl : Lane → Xlat) : State :=
  let n := sizeBytes x.size
  let so := anySO G xl
  let s := s.orderBefore so false (spansOf (lanesOf G) (fun L => (xl L).pa) n)
  let own := s.ownLanes G xl
  let vals := fun L => loadWords x.size sx (s.loadBytes (s.pathCopy (p.get s.core) (xl L).pa) (xl L).pa n)
  let t := own.foldl (fun (t : State) L => p.fill t (xl L).pa) (s.deliverLanes whole x.d vals own)
  t.addFar (s.farAlone G xl) fun ls =>
    s.mkOut x.size (.load sx) (s.rets (va s) x.d xl ls) (toHost xl ls) (s.soAbove xl ls) none none

/-- A load through a path. -/
def pathAccess (p : Path) (x : MemF) (sx : Bool) (k : AccKind) (va : State → Lane → Nat) (s : State) : Issue :=
  passAccess x k va (fun s L => p.xlat s k (va s L)) p.reqs (p.perform x sx va) s

/-- Address of a constant-path lane (R98). A launch with CONST = 0 has the bank at address 0, for R184 gives such a launch no
other bank and no trap. DESIGN CHOICE (log 72), unsafe. -/
def State.constVa (s : State) (x : MemF) (L : Lane) : Nat := (s.lnc.const + s.lowOff x L) % 2 ^ 64

/-- R117, R98 -/
def execLdC (x : MemF) (sx : Bool) (s : State) : Host.Outcome State Fault Refusal :=
  memIssue mLoadC 1 x (fun s =>
    match firstTrap (s.memLanes x.guard x.ginv) [(.misaligned, fun L => s.lowOff x L % sizeBytes x.size == 0),
        (.constRange, fun L => s.lowOff x L + sizeBytes x.size ≤ 0x10000)] with
    | some t => .trap t
    | none => pathAccess constPath x sx .load (fun s L => s.constVa x L) s) s

/-- R117 -/
def execLdRo (x : MemF) (sx : Bool) (s : State) : Host.Outcome State Fault Refusal :=
  memIssue mLoadRO 1 x (fun s =>
    match globalTrap x (s.memLanes x.guard x.ginv) s with
    | some t => .trap t
    | none => pathAccess roPath x sx .roLoad (fun s L => s.va x L) s) s

/-! ## Fences (R121, R130) -/

/-- later accesses after the loads and atomics before it (R130) -/
def execFenceAcq (x : MemF) (s : State) : Host.Outcome State Fault Refusal :=
  memIssue (mFence .acq) 1 x (fun s => .done (s.acquire x.scope)) s
/-- later stores and atomics after every access before it (R130) -/
def execFenceRel (x : MemF) (s : State) : Host.Outcome State Fault Refusal :=
  memIssue (mFence .rel) 1 x (fun s => .done s.release) s
/-- both (R130) -/
def execFenceAr (x : MemF) (s : State) : Host.Outcome State Fault Refusal :=
  memIssue (mFence .ar) 1 x (fun s => .done (s.release.acquire x.scope)) s
/-- the core's constant cache and read-only cache are dropped; a store that the group has seen in L1 is performed first, so that
what follows finds it (R139) -/
def execFenceRo (x : MemF) (s : State) : Host.Outcome State Fault Refusal :=
  memIssue mFenceRo 1 x (fun s =>
    let t := s.drainAll
    .done (t.setCoreAt t.grp.core { t.core with cc := [], ro := [] })) s

/-! ## Prefetch (R122) -/

/-- The prefetch of a line: dropped uncharged where its request does not fit a balance (R122, R285). A line of another package, which this
package's caches do not hold, and a line that its home slice holds are asked for and charged, and bring nothing. With HINT 3 a prefetch
to L1 fills L2 only: R122 does not say what that HINT does here. DEDUCED (log 73), unsafe. -/
def prefetchLine (level : BitVec 2) (hint : Hint) (s : State) (r : Xlat) : State :=
  let line := r.pa / 128
  let l1 := level == 0#2 && l1Use r hint
  let want := [line * 2, line * 2 + 1].filter fun k => !(l1 && s.core.l1Has (k * 64))
  let cost := (s.cost 0 (line * 128) want.length).2
  let x := s.ctx
  if want.isEmpty || !(x.mem.fits cost.1 && x.fab.fits cost.2) then s
  else
    let s := s.setCtxAt s.grp.ctx { x with mem := x.mem.charge cost.1, fab := x.fab.charge cost.2 }
    if !s.ownPa r.pa || s.lineHeld [(line * 128, 128)] then s
    else if level = 2#2 then s.mscPut (paOff r.pa / 128) 3#2 0#2 0#2
    else
      want.foldl (fun (t : State) k => if l1 then t.fillL1 t.grp.core (k * 64) (some (hintPrio hint)) else t.touch (k * 64)) s

/-- The prefetches of some lanes, one a line: a lane whose address fails R93 or translation is dropped, and one whose walk would wait
(R122). -/
def prefetchLanes (level : BitVec 2) (hint : Hint) (s : State) (vas : List Nat) : State :=
  (vas.foldl (fun (a : State × List Nat) va =>
    if 2 ^ 48 ≤ va || a.1.walkHeld (some a.1.grp.core) a.1.grp.ctx [va] then a
    else
      match a.1.xlate va .load with
      | .error _ => a
      | .ok r =>
        let t := a.1.tlbFill a.1.grp.core a.1.grp.ctx va
        if a.2.contains (r.pa / 128) then (t, a.2) else (prefetchLine level hint t r, r.pa / 128 :: a.2)) (s, [])).1

/-- R122 -/
def execPfG (x : MemF) (level : BitVec 2) (s : State) : Host.Outcome State Fault Refusal :=
  memIssue mPf 1 x (fun s => .done (prefetchLanes level x.hint s ((lanesOf (s.execLanes x.guard x.ginv)).map (s.va x)))) s

/-! ## Residency (R111, R112) -/

/-- A handle unbinds: its lines are marked by it no more. -/
def State.unbind (s : State) (c h : Nat) : State :=
  { s.setCtxAt c { s.ctxAt c with handles := tdel (s.ctxAt c).handles h } with
    l2 := tmap s.l2 fun _ (x : L2Line) => { x with marks := x.marks.filter fun j => j != (c, h) } }

/-- Bind a handle to a range; the lines that an EVICT of its earlier binding waits for still leave L2 (R112) -/
def execResSet (x : MemF) (h : BitVec 6) (prio : BitVec 2) (s : State) : Host.Outcome State Fault Refusal :=
  memIssue mResSet 1 x (fun s =>
    let base := (s.grp.rd64 x.a 0 + BitVec.ofInt 64 (memOff x)).toNat
    let size := (s.grp.rdS x.s 0).toNat
    if base % 128 ≠ 0 ∨ size % 128 ≠ 0 ∨ size = 0 ∨ 2 ^ 48 < base + size then
      .trap { cause := .resRange, mask := s.slot.mask }
    else
      let waits := ((tget? s.ctx.handles h.toNat).bind Handle.evicting).getD []
      let t := State.unbind { s with evictions := s.evictions ++ waits } s.grp.ctx h.toNat
      .done (t.setCtxAt s.grp.ctx { t.ctx with handles := tput t.ctx.handles h.toNat ⟨base, size, prio.toNat, false, none⟩ })) s

/-- The lines of a bound range rank as priority 0 (R112) -/
def execResDemote (x : MemF) (h : BitVec 6) (s : State) : Host.Outcome State Fault Refusal :=
  memIssue mResH 1 x (fun s =>
    .done (s.setCtxAt s.grp.ctx
      { s.ctx with handles := tmod s.ctx.handles h.toNat fun r => { r with demoted := true } })) s

/-- The lines of a range of a context's virtual addresses that L2 holds. -/
def State.l2Lines (s : State) (c base size : Nat) : List Nat :=
  (s.l2.map Prod.fst).filter (inPieces (s.rangeLines c base size))

/-- Write back and drop the L2 lines of a bound range; the handle unbinds when the last has left. Lines that sink tags hold leave
when their packets complete (R112). -/
def execResEvict (x : MemF) (h : BitVec 6) (s : State) : Host.Outcome State Fault Refusal :=
  memIssue mResH 1 x (fun s =>
    match tget? s.ctx.handles h.toNat with
    | none => .done s
    | some r =>
      let ls := s.l2Lines s.grp.ctx r.base r.size
      let held := ls.filter fun k => s.tagHeld (s.ownLine k)
      let t := (ls.filter fun k => !held.contains k).foldl State.l2Drop s
      let t := t.setCtxAt s.grp.ctx { t.ctx with handles := tput t.ctx.handles h.toNat { r with evicting := some held } }
      .done (t.push (.resEvictDone s.grp.ctx h.toNat))) s

/-- The last line of an evicted range has left L2: the handle unbinds (R112). -/
def execResEvictDone (ctx h : Nat) (s : State) : Host.Outcome State Fault Refusal :=
  match tget? (s.ctxAt ctx).handles h with
  | some r =>
    match r.evicting with
    | some ls => if ls.isEmpty then .next (s.unbind ctx h) else .next s
    | none => .next s
  | none => .next s

/-- A sink tag lets its line go: where an EVICT waits for the line, it leaves L2 (R112). -/
def State.evictLine (s : State) (k : Nat) : State :=
  if s.evictions.contains k
      || s.ctxs.any fun c => c.2.handles.any fun h => (match h.2.evicting with | some ls => ls.contains k | none => false) then s.l2Drop k
  else s

/-! ## Accesses left in flight -/

/-- One lane's response: its bytes, or the cause it faults with. -/
abbrev LaneResp := Except Cause (List Byte)

/-- The pass of the slot's instruction is over where nothing of it is outstanding or left: the values received are written, and the
slot goes on. -/
def State.finishPass (s : State) : State :=
  if s.slot.passOver && !s.slot.stopped && !s.slot.parked then s.commit.advance else s

/-- Whether a request changes memory. -/
def ReqKind.writes : ReqKind → Bool
  | .load _ => false
  | _ => true

/-- Lanes of a request that have their response: their values are kept until the pass is over. -/
def State.receive (s : State) (o : Out) (rs : List (LaneRet × List Byte)) : State :=
  let sx := match o.kind with | .load sx => sx | _ => false
  let keep (t : State) (p : LaneRet × List Byte) : State :=
    match o.kind with
    | .store _ => t
    | _ => t.stage p.1.lane p.1.entry (loadWords o.size sx p.2)
  (rs.foldl keep s).markDone (rs.map fun p => p.1.lane)

/-- Lanes of a request fault with the response (R124): with a lane of an SO page, those above it that were left. They park, or the
slot stops whole; loads of the pass are then made again (R20, R125). -/
def State.respFault (s : State) (o : Out) (F : Lanes) (c : Cause) (va : Nat) : State :=
  if s.slot.stopped then s
  else if s.canPark then
    let F := F ||| (o.above &&& s.slot.left)
    let t := s.setSlot { s.slot with left := s.slot.left &&& ~~~ F }
    let whole := t.slot.passOver
    s.laneFault (if whole then t.commit else t) F c va .instr 0#4 whole
  else
    let t := if o.kind.writes then s else s.setSlot { s.slot with doneL := 0#32, got := [] }
    t.laneFault t F c va .instr 0#4 false

/-- A response reaches its group (R45): the lanes that succeed are complete, the others fault (R124), and the slot goes on once
nothing of its pass is outstanding or left. A response whose tag is no longer current is dropped and counted. -/
def State.respond (s : State) (k : Nat) (o : Out) (resp : List LaneResp) : State :=
  let s : State := { s with outs := tdel s.outs k }
  let g := s.grpAt o.gid
  let live := (tget? s.groups o.gid).isSome && sget (s.coreAt o.core).tags o.tagKey == o.gtag
    && (g.a.pending.contains k || g.b.pending.contains k)
  if !live then
    s.setCoreAt o.core { s.coreAt o.core with staleReturn := (s.coreAt o.core).staleReturn + 1#32 }
  else
    let s : State := { s with gid := o.gid, sel := if g.a.pending.contains k then .A else .B, uni := o.uni }
    let s := s.setSlot { s.slot with pending := s.slot.pending.filter fun j => j != k }
    let rs := o.lanes.zip resp
    let good := rs.filterMap fun p => match p.2 with | .ok bs => some (p.1, bs) | .error _ => none
    let bad := rs.filterMap fun p => match p.2 with | .ok _ => none | .error c => some (p.1, c)
    let s := if s.slot.stopped && !o.kind.writes then s else s.receive o good
    let fill (t : State) (p : LaneRet × List Byte) : State :=
      if !o.kind.writes && t.ownPa p.1.pa then t.fillL1 o.core p.1.pa o.fill else t
    let s := (good.foldl fill s).acquireIf o.acquire
    match bad with
    | [] => s.finishPass
    | p :: _ => s.respFault o (maskWhere fun L => bad.any fun q => q.1.lane == L) p.2 p.1.va

/-- What each lane of a combined atomic receives, from the old value of the location on, in ascending order (R119). -/
def atomOlds (fn : Nat) (sz : Size) : List Byte → List (DWord × DWord) → List (List Byte)
  | _, [] => []
  | old, (x, t) :: rest => old :: atomOlds fn sz (atomBytes fn sz old x t) rest

/-- Each lane's bytes of a response's data, in the order of the request's lanes; an atomic's response has the old value of its
location. -/
def Out.split (o : Out) (data : List Byte) : List (List Byte) :=
  let n := sizeBytes o.size
  match o.kind with
  | .atom fn ops => atomOlds fn o.size ((List.range n).map fun j => data.getD j 0#8) ops
  | _ => (List.range o.lanes.length).map fun i => (List.range n).map fun j => data.getD (i * n + j) 0#8

/-- A response from this package's own memory: what each lane reads when the access is performed. -/
def State.homeResp (s : State) (o : Out) : List LaneResp :=
  o.lanes.map fun r =>
    if s.poisoned r.pa && !s.mended o.core (paOff r.pa / 64) then .error .poison
    else .ok (readBytes (s.coreMem o.core) (paOff r.pa) (sizeBytes o.size))

/-- Whether the home slice holds a line that a request of this package reads: it waits there (R174, R241). -/
def State.outHeld (s : State) (o : Out) : Bool := s.lineHeld (o.lanes.map fun r => (r.pa, sizeBytes o.size))

/-- Whether a request goes to this package's own memory. -/
def State.homeReq (s : State) (o : Out) : Bool := !o.host && o.lanes.all fun r => s.ownPa r.pa

/-- A retired store of this package, or a store or an atomic without return to another one, is performed (R130). -/
def execStorePerformed (k : Nat) (s : State) : Host.Outcome State Fault Refusal :=
  match tget? s.outs k with
  | some o =>
    if o.host || !o.kind.writes || o.lanes.any fun r => r.entry.isSome then .next s
    else .next (s.respond k o (o.lanes.map fun _ => .ok []))
  | none => .next (s.performStore k)

/-- The walks a die's sixteen walkers are at: the first of those that have not ended (R108). -/
def State.walking (s : State) (die : Nat) : List Nat :=
  ((s.walks.filter fun p => !p.2.ended && dieOf (s.grpAt p.2.gid).core == die).take 16).map Prod.fst

/-- A walk ends that one of its die's sixteen walkers is at, where no home slice holds the line of an entry: a valid leaf stays in the TLBs,
and the access that waits goes on (R105, R108, R241). -/
def execPageWalkComplete (k : Nat) (s : State) : Host.Outcome State Fault Refusal :=
  match tget? s.walks k with
  | none => .next s
  | some w =>
    let core := (s.grpAt w.gid).core
    if !(s.walking (dieOf core)).contains k || s.walkHeld (some core) w.ctx [w.va] then .next s
    else .next (State.tlbFill { s with walks := tput s.walks k { w with ended := true } } core w.ctx w.va)

end Sys2Proof.Machine
end

