-- ==== Sys2Proof/Machine/Tiles.lean ====
section
/-! DEFINITION. The tile table (R204 to R208), the checks that copy and matrix instructions share (R205, R310), the format block
(R217 to R220), and the order among the jobs of a block (R137, R215, R216). -/

namespace Sys2Proof.Machine

/-! ## Tile-table entries -/

/-- A transition to EMPTY: it waits for the pins, and toggles PHASE (R206). -/
def Tile.release (t : Tile) : Tile :=
  if t.pins = 0 then { t with state := .empty, phase := !t.phase, relPending := false } else { t with relPending := true }

/-- A job's read of the tile ends. -/
def Tile.unpin (t : Tile) : Tile :=
  let u : Tile := { t with pins := t.pins - 1 }
  if u.pins = 0 && u.relPending then u.release else u

def Tile.pin (t : Tile) : Tile := { t with pins := t.pins + 1 }

/-- READY, and no transition to EMPTY stands. -/
def Tile.isReady (t : Tile) : Bool := t.state == .ready && !t.relPending

/-- Defined and EMPTY: an undefined entry has no move but TDEF's (R206). -/
def Tile.isEmpty (t : Tile) : Bool := t.defd && t.state == .empty

/-- The 128 bits of an entry (R204). -/
def tileStateCode : TileState → Nat
  | .empty => 0 | .filling => 1 | .ready => 2 | .draining => 3
def Tile.bits (t : Tile) : Nat :=
  t.base + t.size * 2 ^ 32 + t.pitch * 2 ^ 64 + tileStateCode t.state * 2 ^ 80 + (if t.phase then 2 ^ 82 else 0)
    + t.owner.toNat * 2 ^ 83 + (if t.defd then 2 ^ 86 else 0) + (if t.err then 2 ^ 87 else 0)

def State.setTile (s : State) (b t : Nat) (x : Tile) : State :=
  s.setBlkAt b { s.blkAt b with tiles := tput (s.blkAt b).tiles t x }
def State.modTile (s : State) (b t : Nat) (f : Tile → Tile) : State := s.setTile b t (f (s.tileAt b t))
def State.modTiles (s : State) (b : Nat) (ts : List Nat) (f : Tile → Tile) : State :=
  ts.foldl (fun (u : State) t => u.modTile b t f) s

/-- The tile an instruction names (R205). -/
def State.tileIx (s : State) (x : EngF) : Nat :=
  (x.tile.toNat + (match x.a with | .s n => (sget s.grp.s n.val).toNat % 64 | _ => 0)) % 64

/-- TILE_RANGE, then TILE_UNDEF (R205). -/
def State.tileCheck (s : State) (undef : Bool) (t : Nat) : Option Cause :=
  if s.lnc.tiles ≤ t then some .tileRange
  else if undef && !(s.tileAt s.grp.block t).defd then some .tileUndef
  else none

/-- The first check that fails. -/
def firstBad : List (Option Cause) → Option Cause
  | [] => none
  | some c :: _ => some c
  | none :: rest => firstBad rest

/-- A check: its cause where the condition does not hold. -/
def must (ok : Bool) (c : Cause) : Option Cause := if ok then none else some c

/-- A precise check of the slot's instruction, then what follows. -/
def State.passing (s : State) (c : Option Cause) (k : Issue) : Issue :=
  match c with
  | some c => .trap { cause := c, mask := s.slot.mask }
  | none => k

/-! ## Tile instructions (R208) -/

/-- R208, R206. R310 does not place R208's RESERVED_FIELD of the register values: here TILE_RANGE comes before it. DESIGN CHOICE (log 85),
unsafe. -/
def execTdef (x : EngF) (pitch : BitVec 12) (owner : BitVec 3) (s : State) : Host.Outcome State Fault Refusal :=
  engIssue eTdef 1 x (fun s =>
    let t := s.tileIx x
    let base := (s.grp.rdS x.b 0).toNat
    let size := (s.grp.rdS x.c 0).toNat
    let old := s.tileAt s.grp.block t
    let bad : Option Cause :=
      firstBad [s.tileCheck false t,
        must (size == 0 || (base % 256 == 0 && size % 256 == 0 && pitch != 0#12 && !(4 ≤ owner.toNat && owner.toNat ≤ 6)))
          .reservedField,
        must (size == 0 || s.lnc.scratchOk base size) .tileBounds,
        must (old.state == .empty) .tileState]
    let new : Tile :=
      if size = 0 then { old with defd := false }
      else { err := false, defd := true, owner := owner, phase := false, state := .empty, pitch := pitch.toNat * 16, size := size,
             base := base, pins := 0, relPending := false }
    s.passing bad (.done (s.setTile s.grp.block t new))) s

/-- The tile a TREL names: the one it read when it first came to issue, where it waits (R310). -/
def State.relTile (s : State) (x : EngF) : Nat := match s.slot.eng with | some (.tile t _) => t | _ => s.tileIx x

/-- What a TREL or a TREL.PUB waits for (R206). -/
def Tile.canRelease (t : Tile) (pub : Bool) : Bool := if pub then t.isEmpty else t.isReady

/-- The slot waits for a tile's state, with the index it has read (R310). -/
def State.awaitTile (s : State) (t : Nat) (pub : Bool) : Issue := .wait (s.setSlot { s.slot with eng := some (.tile t pub) })

/-- READY → EMPTY (R206, R208). DEDUCED (log 34), unsafe. -/
def execTrel (x : EngF) (s : State) : Host.Outcome State Fault Refusal :=
  engIssue eTrel 1 x (fun s =>
    let t := s.relTile x
    s.passing (if s.slot.eng.isNone then s.tileCheck true t else none)
      (if (s.tileAt s.grp.block t).canRelease false then .done (s.modTile s.grp.block t Tile.release) else s.awaitTile t false)) s

/-- EMPTY → READY, a release at CORE (R206, R208) -/
def execTrelPub (x : EngF) (s : State) : Host.Outcome State Fault Refusal :=
  engIssue eTrel 1 x (fun s =>
    let t := s.relTile x
    s.passing (if s.slot.eng.isNone then s.tileCheck true t else none)
      (if (s.tileAt s.grp.block t).canRelease true then
        .done (s.release.modTile s.grp.block t fun u => { u with state := .ready })
      else s.awaitTile t true)) s

/-- The word TSTATE gives (R208). -/
def Tile.word (t : Tile) : Word :=
  BitVec.ofNat 32 (tileStateCode t.state + (if t.phase then 4 else 0) + (if t.defd then 8 else 0) + (if t.err then 16 else 0)
    + t.owner.toNat * 32)

/-- R208 -/
def execTstate (x : EngF) (s : State) : Host.Outcome State Fault Refusal :=
  engIssue eTstate 1 x (fun s =>
    let t := s.tileIx x
    s.passing (s.tileCheck false t) (.done (s.setS x.d (s.tileAt s.grp.block t).word))) s

/-! ## Formats and the format block (R217 to R220) -/

/-- Bits of an element (R217). -/
def elemBits (f : Nat) : Nat :=
  match f with
  | 0 => 16 | 1 => 16 | 5 => 6 | 6 => 6 | 7 => 4 | 9 => 2 | _ => 8

/-- Rows of a plane load (R218). -/
def kLoad (w : Nat) : Nat :=
  match w with
  | 0 => 128 | 1 => 128 | 7 => 512 | 9 => 1024 | _ => 256

/-- The format pairs of R218. -/
def pairOk (a w : Nat) : Bool :=
  (a == 0 && w == 0) || (a == 1 && w == 1) || ((a == 2 || a == 3) && (w == 2 || w == 3))
    || (4 ≤ a && a ≤ 6 && 4 ≤ w && w ≤ 6) || (a == 7 && w == 7) || (a == 8 && (w == 8 || w == 9))

def isMx (f : Nat) : Bool := 4 ≤ f && f ≤ 7

/-- A format block (R219), its fields. -/
abbrev FmtBlk := BitVec 128

def FmtBlk.fld (b : FmtBlk) (lo n : Nat) : Nat := (b.extractLsb' lo n).toNat
def FmtBlk.afmt (b : FmtBlk) : Nat := FmtBlk.fld b 0 4
def FmtBlk.wfmt (b : FmtBlk) : Nat := FmtBlk.fld b 4 4
def FmtBlk.prom (b : FmtBlk) : Nat := FmtBlk.fld b 8 2
def FmtBlk.satm (b : FmtBlk) : Bool := b.getLsbD 10
def FmtBlk.atype (b : FmtBlk) : Bool := b.getLsbD 11
def FmtBlk.k32 (b : FmtBlk) : Nat := FmtBlk.fld b 12 6
def FmtBlk.astile (b : FmtBlk) : Nat := FmtBlk.fld b 32 6
def FmtBlk.ablk (b : FmtBlk) : Nat := FmtBlk.fld b 38 2
def FmtBlk.wstile (b : FmtBlk) : Nat := FmtBlk.fld b 40 6
def FmtBlk.wblk (b : FmtBlk) : Nat := FmtBlk.fld b 46 2
def FmtBlk.mrows (b : FmtBlk) : Nat := FmtBlk.fld b 64 7

/-- Reserved bits of a block are zero. -/
def FmtBlk.clean (b : FmtBlk) : Bool := FmtBlk.fld b 71 57 == 0 && FmtBlk.fld b 48 16 == 0 && FmtBlk.fld b 18 14 == 0

/-- The checks that give MX_FORMAT (R219). -/
def FmtBlk.good (b : FmtBlk) (mldw : Bool) : Bool :=
  pairOk (FmtBlk.afmt b) (FmtBlk.wfmt b) && 1 ≤ FmtBlk.k32 b && 32 * FmtBlk.k32 b ≤ kLoad (FmtBlk.wfmt b)
    && FmtBlk.atype b == (FmtBlk.afmt b == 8)
    && FmtBlk.wblk b == (if isMx (FmtBlk.wfmt b) then 1 else 0) && FmtBlk.ablk b == (if isMx (FmtBlk.afmt b) then 1 else 0)
    && (FmtBlk.wblk b != 0 || FmtBlk.wstile b == 0) && (FmtBlk.ablk b != 0 || FmtBlk.astile b == 0)
    && (!isMx (FmtBlk.afmt b) || FmtBlk.prom b == 0) && (!mldw || FmtBlk.mrows b == 0)

/-- The scale tile that an MLDW or an MMA checks and waits for (R219). -/
def FmtBlk.scaleTile (b : FmtBlk) (mldw : Bool) : Option Nat :=
  if mldw then (if FmtBlk.wblk b = 1 then some (FmtBlk.wstile b) else none)
  else if FmtBlk.ablk b = 1 then some (FmtBlk.astile b) else none

/-- Whether rows of some bytes fit a tile (R220). -/
def Tile.fits (t : Tile) (rows bytes : Nat) : Bool := bytes ≤ t.pitch && rows * t.pitch ≤ t.size

/-- Whether the operands of an MLDW or an MMA fit their tiles (R220). -/
def State.fmtFits (s : State) (b : FmtBlk) (mldw : Bool) (t : Nat) : Bool :=
  let k := 32 * FmtBlk.k32 b
  let m := FmtBlk.mrows b + 1
  let tile (i : Nat) := s.tileAt s.grp.block i
  let sc (rows bytes : Nat) : Bool := match FmtBlk.scaleTile b mldw with | some i => (tile i).fits rows bytes | none => true
  if mldw then (tile t).fits k (16 * elemBits (FmtBlk.wfmt b)) && sc (k / 32) 128
  else (tile t).fits m (k * elemBits (FmtBlk.afmt b) / 8) && sc m (k / 32)

/-- Four scalar registers as 128 bits, the first lowest. -/
def Group.quad (g : Group) (o : Opd) : BitVec 128 := g.rdS o 3 ++ g.rdS o 2 ++ g.rdS o 1 ++ g.rdS o 0

/-- The tile checks of a format block, where it names a scale tile. -/
def State.fmtTiles (s : State) (b : FmtBlk) (mldw : Bool) : Option Cause :=
  match FmtBlk.scaleTile b mldw with
  | some t => s.tileCheck true t
  | none => none

/-! ## The matrix unit and its queue (R215, R216) -/

/-- The accumulator a command names. -/
def MxOp.acc? : MxOp → Option (BitVec 2)
  | .mldw _ _ _ => none
  | .mma a _ _ _ _ _ => some a
  | .accz a _ _ => some a
  | .accrd a _ _ _ _ _ => some a
  | .accrdReg a _ _ _ _ _ => some a
  | .accst a _ => some a
  | .accstW a _ => some a
  | .accprom a => some a

/-- Whether a block may use the matrix unit of its core: no other block holds it (R215). -/
def Core.unitFree (c : Core) (b : Nat) : Bool := c.mxOwner == none || c.mxOwner == some b

/-- Whether no command of the matrix queue names an accumulator (R222). -/
def Core.accFree (c : Core) (a : Option (BitVec 2)) : Bool := a.isNone || c.mxQ.all fun m => m.op.acc? != a

/-- Engine work of a core is looked at again. -/
def State.kick (s : State) (c : Nat) : State :=
  let x := s.coreAt c
  let evs : List Instr :=
    (x.copyQ.filterMap fun p => if p.2.stopped then none else some (Instr.copyJobComplete c p.1))
      ++ (x.followQ.map fun _ => Instr.followOnEnqueue c) ++ x.mxQ.map fun _ => Instr.matrixCommandExecute c
  { s with agenda := s.agenda ++ evs.filter fun e => !s.agenda.contains e }

/-- The tiles of a command are READY. -/
def State.tilesReady (s : State) (b : Nat) (ts : List Nat) : Bool := ts.all fun t => (s.tileAt b t).isReady

/-- A command joins the matrix queue: it claims the unit and pins the tiles it reads (R206, R215). -/
def State.mxJoin (s : State) (core : Nat) (m : MxCmd) (pins : List Nat) : State :=
  let s := s.modTiles m.block pins Tile.pin
  let c := s.coreAt core
  let m : MxCmd := { m with num := s.next }
  { s.setCoreAt core { c with mxOwner := some m.block, mxQ := c.mxQ ++ [m] } with next := s.next + 1 }

/-! ## Order among the jobs of a block (R137) -/

/-- Scratchpad bytes a matrix command reads and writes. -/
def State.cmdScratch (s : State) (m : MxCmd) : List (Nat × Nat) × List (Nat × Nat) :=
  let sp (l : List Nat) := l.map fun t => (s.tileAt m.block t).span
  (sp m.op.tiles.1, sp m.op.tiles.2)

/-- Two pairs of read and write footprints conflict. -/
def clash (x y : List (Nat × Nat) × List (Nat × Nat)) : Bool := meets x.2 y.2 || meets x.1 y.2 || meets x.2 y.1

/-- Whether a copy job's global footprint conflicts with another's of the same context. -/
def CopyJob.globalClash (i j : CopyJob) : Bool := !(i.isLoad && j.isLoad) && meets i.globalSpans j.globalSpans

/-- log2 of the range that the entry covers at which a walk from a table ends, whether it is a leaf or not (R105). -/
def walkReach (s : State) (va : Nat) : (level tbl : Nat) → List (Nat × Nat) → Nat
  | _, _, [] => 16
  | level, tbl, (shift, bits) :: rest =>
    let pa := tbl + 8 * (va / 2 ^ shift % 2 ^ bits)
    let e : Pte := BitVec.ofNat 64 (leNat (s.physRead pa 8))
    if !s.ownPa tbl || s.poisoned pa || !e.valid || e.fld 10 2 != 3 || level = 4 || !descOk e level then shift
    else walkReach s va (level + 1) (descTable e) rest

/-- Whether a range of virtual pages has an entry of its own in the TLBs or the walkers that a core uses (R108). -/
def State.cachedIn (s : State) (core c va log2 : Nat) : Bool :=
  let lo := va / 2 ^ log2 * 2 ^ log2
  let within (page shift : Nat) : Bool := decide (page * 2 ^ shift < lo + 2 ^ log2) && decide (lo < (page + 1) * 2 ^ shift)
  (((s.coreAt core).tlb ++ (s.quadAt (quadOfCore core)).tlb).any fun e => e.ctx == c && within e.vpage e.log2)
    || s.descs.any fun e => e.die == dieOf core && e.ctx == c && tableReach.any fun r => r.1 == e.level && r.2 ≤ log2 && within e.vpage r.2

/-- log2 of the range around an address that one leaf, or one missing entry, answers for: 64 KiB where the TLBs or the walkers hold
something in it. -/
def State.pageReach (s : State) (core c va : Nat) : Nat :=
  let n :=
    match s.descHit (some core) c va with
    | some e => walkReach s va e.level (descTable e.desc) (walkFields e.level)
    | none => walkReach s va 1 (s.ctxAt c).root (walkFields 1)
  if s.cachedIn core c va n then 16 else n

/-- The physical pieces of virtual spans, at most `n` of them, whatever the pages permit. -/
def physPieces (s : State) (core c : Nat) : Nat → Nat → Nat → List (Nat × Nat)
  | 0, _, _ => []
  | n + 1, va, len =>
    if len = 0 then []
    else
      let size := 2 ^ s.pageReach core c va
      let m := min len (size - va % size)
      let rest := physPieces s core c n (va + m) (len - m)
      match leafOf s (some core) c va with
      | some (e, log2) => (e.fld 16 36 * 2 ^ 16 + va % 2 ^ log2, m) :: rest
      | none => rest

/-- Physical bytes of a copy job's global side by the translation as it stands (R137). -/
def State.jobPhys (s : State) (j : CopyJob) : List (Nat × Nat) :=
  let b := s.blkAt j.block
  j.globalSpans.flatMap fun p => physPieces s b.core b.ctx (p.2 / 65536 + 2) p.1 p.2

/-- Whether a near command's footprints, in lines, conflict with a copy job (R137, R241). -/
def State.nearClash (s : State) (n : NearCmd) (j : CopyJob) : Bool :=
  let g := wholeLines (s.jobPhys j)
  meets n.writes g || (!j.isLoad && meets n.reads g)

/-- Whether an earlier job of its block holds a copy job back. -/
def State.jobBlocked (s : State) (c k : Nat) (j : CopyJob) : Bool :=
  let x := s.coreAt c
  let f := s.jobScratch j
  (x.copyQ.any fun p => p.1 < k && p.2.block == j.block && (clash (s.jobScratch p.2) f || p.2.globalClash j))
    || (x.mxQ.any fun m => m.num < k && m.block == j.block && clash (s.cmdScratch m) f)
    || s.near.any fun p => p.1 < k && p.2.block == j.block && s.nearClash p.2 j

/-- Whether an earlier copy job of its block holds a matrix command back. -/
def State.cmdBlocked (s : State) (c : Nat) (m : MxCmd) : Bool :=
  (s.coreAt c).copyQ.any fun p => p.1 < m.num && p.2.block == m.block && clash (s.jobScratch p.2) (s.cmdScratch m)

/-- The group of a job in its record (R267): the group, or its block's fields with its number and tag once it has ended. -/
def State.jobGroup (s : State) (gid block num : Nat) (gtag : BitVec 6) : Group :=
  match tget? s.groups gid with
  | some g => { g with a := Slot.free, b := Slot.free }
  | none =>
    let b := s.blkAt block
    { Group.blank with ctx := b.ctx, launch := b.launch, block := block, core := b.core, num := num, gtag := gtag }

end Sys2Proof.Machine
end

