-- ==== Sys2Proof/Machine/Copy.lean ====
section
/-! DEFINITION. The copy engine (R209 to R214): the copy instructions, the acceptance of a job that waits, and its rows. -/

namespace Sys2Proof.Machine

/-! ## The job card (R209) -/

/-- Bits of a word. -/
def bitsOf (w : Word) (lo n : Nat) : Nat := (w.extractLsb' lo n).toNat

/-- The job that a card and its instruction name. -/
def State.readCard (s : State) (x : EngF) (fn : Nat) : CopyJob :=
  let w (i : Nat) : Word := s.grp.rdS x.b i
  { gid := s.gid, slot := s.sel, block := s.grp.block, offset := s.slot.offset, gnum := s.grp.num, gtag := s.grp.gtag,
    fn := fn,
    addr := (w 0).toNat + 2 ^ 32 * bitsOf (w 1) 0 16, tile := bitsOf (w 1) 16 6, stride := 16 * bitsOf (w 2) 18 14,
    rows := bitsOf (w 2) 10 8 + 1, rowb := 16 * bitsOf (w 2) 0 10, fmode := bitsOf (w 3) 0 2, flog := bitsOf (w 3) 2 6,
    idx := if fn = 2 ∨ fn = 3 then (s.grp.rdS x.c 0).toNat else 0, fmt := if fn = 4 then s.grp.quad x.c else 0#128,
    acc := x.acc, flags := x.flags, long := false, row := 0, paid := 0, stopped := false }

/-- Reserved bits of a card are zero. -/
def State.cardClean (s : State) (x : EngF) : Bool := bitsOf (s.grp.rdS x.b 1) 22 10 == 0 && bitsOf (s.grp.rdS x.b 3) 8 24 == 0

/-- Whether the follow-on of a CPY.MX is an MLDW (R212). -/
def CopyJob.mldw (j : CopyJob) : Bool := j.flags.getLsbD 3

/-- The fit checks of a card and a follow-on (R209, R211, R212). -/
def State.cardFits (s : State) (j : CopyJob) : Option Cause :=
  let t := s.tileAt j.block j.tile
  let last := j.addr + (j.rows - 1) * j.stride + j.rowb
  firstBad [
    must (t.fits j.rows j.rowb) .cpyCard,
    must (j.fmode != 0 || (!j.indexed && last ≤ 2 ^ 48)) .cpyCard,
    must (j.fmode != 1 || j.addr + 2 ^ j.flog ≤ 2 ^ 48) .cpyCard,
    must (!j.indexed || (j.idx % 4 == 0 && s.lnc.scratchOk j.idx (4 * j.rows))) .cpyCard,
    must (j.fn != 4 || s.fmtFits j.fmt j.mldw j.tile) .mxShape]

/-- The checks of a copy instruction, in the order of R310. DEDUCED (log 28), unsafe. -/
def State.cardCheck (s : State) (x : EngF) (j : CopyJob) : Option Cause :=
  firstBad [
    must (s.cardClean x) .reservedField,
    must (j.fn != 4 || FmtBlk.clean j.fmt) .reservedField,
    s.tileCheck true j.tile,
    (if j.fn = 4 then s.fmtTiles j.fmt j.mldw else none),
    must (j.addr % 16 == 0 && j.rowb != 0 && j.fmode != 3 && (j.fmode != 1 || (7 ≤ j.flog && j.flog ≤ 47))) .cpyCard,
    must (j.fn != 4 || FmtBlk.good j.fmt j.mldw) .mxFormat,
    s.cardFits j]

/-! ## Acceptance (R206, R213, R214) -/

/-- Virtual address of a row (R211). -/
def State.rowVa (s : State) (j : CopyJob) (r : Nat) : Nat :=
  let i := if j.indexed then leNat (srange (s.blkAt j.block).scratch (j.idx + 4 * r) 4) else r
  (j.addr + i * j.stride) % 2 ^ 64

/-- Sectors that some bytes touch. -/
def sectorsOf (a n : Nat) : Nat := (a + n - 1) / 64 - a / 64 + 1

/-- Sectors of global memory that a job touches, row by row (R214). -/
def State.jobSectors (s : State) (j : CopyJob) : Nat :=
  (List.range j.rows).foldl (fun (a : Nat) r => a + sectorsOf (s.rowVa j r) j.rowb) 0

/-- The accumulator that a CPY.MX names: that of a follow-on MMA (R212). -/
def CopyJob.acc? (j : CopyJob) : Option (BitVec 2) := if j.fn = 4 ∧ !j.mldw then some j.acc else none

/-- Whether the engine can accept a job now: its tile's state, room in the queue, for CPY.MX the matrix unit and no earlier command
of the accumulator it names (R222), and the memory bucket for a long job. -/
def State.copyReady (s : State) (j : CopyJob) : Bool :=
  let t := s.tileAt j.block j.tile
  (if j.isLoad then t.isEmpty else t.isReady) && s.core.copyQ.length < 16
    && (j.fn != 4 || s.core.unitFree j.block) && s.core.accFree j.acc?
    && (s.jobSectors j ≤ 64 || s.ctx.mem.open)

/-- A job is accepted: earlier stores are performed before it, its tile changes state, the unit is claimed.
DEDUCED (log 30), unsafe. -/
def State.copyAccept (s : State) (j : CopyJob) : State :=
  let n := s.jobSectors j
  let core := s.grp.core
  let s := s.drainAll
  let s := if 64 < n then s.chargeWhole s.grp.ctx n else s
  let s := s.modTile j.block j.tile fun t => { t with state := if j.isLoad then .filling else .draining }
  let c := s.coreAt core
  let c : Core := { c with copyQ := tput c.copyQ s.next { j with long := decide (64 < n) } }
  let c : Core := if j.fn = 4 then { c with mxOwner := some j.block } else c
  { s.setCoreAt core c with next := s.next + 1 }.kick core

/-- Issue a copy instruction: the checks, then its job is accepted or waits. -/
def copyIssue (r : EngRow) (fn : Nat) (x : EngF) (s : State) : Host.Outcome State Fault Refusal :=
  engIssue r 1 x (fun s =>
    let j := s.readCard x fn
    s.passing (s.cardCheck x j)
      (if s.copyReady j then .done (s.copyAccept j) else .wait (s.setSlot { s.slot with cpy := some j, waitUni := s.uni }))) s

/-- R211 -/
def execCpy (x : EngF) (s : State) : Host.Outcome State Fault Refusal := copyIssue eCpy 0 x s
/-- R211 -/
def execCpySt (x : EngF) (s : State) : Host.Outcome State Fault Refusal := copyIssue eCpy 1 x s
/-- R211 -/
def execCpyGath (x : EngF) (s : State) : Host.Outcome State Fault Refusal := copyIssue eGath 2 x s
/-- R211 -/
def execCpyScat (x : EngF) (s : State) : Host.Outcome State Fault Refusal := copyIssue eGath 3 x s
/-- R211, R212 -/
def execCpyMx (x : EngF) (s : State) : Host.Outcome State Fault Refusal := copyIssue eMx 4 x s

/-- A job that waits is accepted once it can be; a TDEF since its checks has the fit checks made again then (R213, R310). -/
def execCopyJobAccept (gid : Nat) (slot : SlotId) (s : State) : Host.Outcome State Fault Refusal :=
  let t : State := { s with gid := gid, sel := slot, uni := ((s.grpAt gid).slot slot).waitUni }
  match t.slot.cpy with
  | none => .next s
  | some j =>
    let u := t.setSlot { t.slot with cpy := none }
    if !t.copyReady j then .next s
    else
      match t.cardFits j with
      | some c => .next (u.takeTrap { cause := c, mask := u.slot.mask })
      | none => .next (u.copyAccept j).advance

/-! ## Rows (R211, R213) -/

/-- Poison moves with its sector: a destination sector that takes a byte of a poisoned source sector is poisoned, one written
whole from good sectors is not (R103, R211). -/
def movePoison (n : Nat) (bad : Nat → Bool) (dst : Nat) (old : List Nat) : List Nat :=
  (List.range ((dst + n + 63) / 64 - dst / 64)).foldl (fun (l : List Nat) q =>
    let k := dst / 64 + q
    let lo := k * 64 - dst
    let hi := min n ((k + 1) * 64 - dst)
    if (List.range (hi - lo)).any fun i => bad (lo + i) then insertNat k l
    else if dst ≤ k * 64 && (k + 1) * 64 ≤ dst + n then l.filter fun x => x != k
    else l) old

/-- A row's pieces, cut at 64 KiB. -/
def rowPieces (va n : Nat) : List (Nat × Nat) :=
  let m := min n (65536 - va % 65536)
  if m < n then [(va, m), (va + m, n - m)] else [(va, n)]

/-- Free bytes: what another package or the host holds is not part of this state. -/
def freeRun (from' n : Nat) : List Byte := (List.range n).map fun i => (Config.freeValue (from' + i)).setWidth 8

/-- One piece of a load row reaches the scratchpad. What another package or the host holds, and whether a sector of it comes poisoned
(R296), is not part of this state: free values. -/
def State.pieceIn (s : State) (b dst : Nat) (pa n : Nat) : State :=
  let own := s.ownPa pa
  let bs : List Byte := if own then srange (w := 8) s.mem (paOff pa) n else freeRun s.free n
  let bad (i : Nat) : Bool :=
    if own then s.poisoned (pa + i) else (Config.freeValue (s.free + n + ((pa + i) / 64 - pa / 64))).getLsbD 0
  let blk := s.blkAt b
  let blk : Block :=
    { blk with scratch := sputRange blk.scratch dst bs, scratchPoison := movePoison n bad dst blk.scratchPoison }
  let t := s.setBlkAt b blk
  if own then t.touchRange pa n else { t with free := s.free + n + sectorsOf pa n }

/-- One piece of a store row reaches memory; the core's L1 copies of it are dropped. -/
def State.pieceOut (s : State) (core b src : Nat) (pa n : Nat) : State :=
  if !s.ownPa pa then s
  else
    let blk := s.blkAt b
    let bs := srange blk.scratch src n
    let bad (i : Nat) : Bool := blk.scratchPoison.contains ((src + i) / 64)
    let t : State := State.l2Store { s with mem := sputRange (w := 8) s.mem (paOff pa) bs } [(paOff pa, bs)]
    let t := (movePoison n bad (paOff pa) []).foldl State.spoilSector t
    t.setCoreAt core ((t.coreAt core).l1DropRange pa n)

/-- What becomes of a row. -/
inductive RowEnd where
  | moved (s : State)
  | fault (c : Cause) (va : Nat)
  | beyond
  /-- not all of its requests are charged yet, though so many are, or its home slice holds a line of it (R174, R241, R285) -/
  | wait (s : State) (paid : Nat)
  deriving DecidableEq, Repr

/-- Whether a row lies outside its job's footprint (R213); a BOX row never does. -/
def CopyJob.rowBeyond (j : CopyJob) (va : Nat) : Bool :=
  match j.fmode with
  | 0 => false
  | 1 => va < j.addr || j.addr + 2 ^ j.flog < va + j.rowb
  | _ => 2 ^ 48 < va + j.rowb

/-- Bytes cut at the home lines. -/
def linePieces (pa n : Nat) : List (Nat × Nat) :=
  (List.range ((pa + n - 1) / 128 - pa / 128 + 1)).map fun i =>
    let lo := max pa ((pa / 128 + i) * 128)
    (lo, min (pa + n) ((pa / 128 + i + 1) * 128) - lo)

/-- The requests of a row of a short job: one for each home line that it touches. DESIGN CHOICE (log 87), unsafe: R214 does not say what one
request of the copy engine is. -/
def State.rowRequests (s : State) (xs : List (Nat × Nat)) : List Request :=
  (xs.flatMap fun x => linePieces x.1 x.2).map fun x => s.cost 0 x.1 (sectorsOf x.1 x.2)

/-- The bytes of a row move. -/
def State.rowBytes (s : State) (core : Nat) (j : CopyJob) (xs : List (Nat × Nat)) : State :=
  let t := s.tileAt j.block j.tile
  (xs.foldl (fun (a : State × Nat) x =>
    (if j.isLoad then a.1.pieceIn j.block a.2 x.1 x.2 else a.1.pieceOut core j.block a.2 x.1 x.2, a.2 + x.2))
    (s, t.base + j.row * t.pitch)).1

/-- Move the next row of a job, once its requests are charged: those of a short job one by one, as they fit (R214, R285). -/
def State.moveRow (s : State) (core : Nat) (j : CopyJob) : RowEnd :=
  let va := s.rowVa j j.row
  let c := (s.blkAt j.block).ctx
  let ps := (rowPieces va j.rowb).map fun p => (p, translate s (some core) c p.1 (if j.isLoad then .load else .store))
  if j.rowBeyond va then .beyond
  else if s.walkHeld (some core) c ((rowPieces va j.rowb).map Prod.fst) then .wait s j.paid
  else
    match ps.findSome? fun p => match p.2 with | .error e => some (e, p.1.1) | .ok _ => none with
    | some f => .fault f.1 f.2
    | none =>
      let xs : List (Nat × Nat) := ps.filterMap fun p => match p.2 with | .ok x => some (x.pa, p.1.2) | .error _ => none
      let due := if j.long then [] else (s.rowRequests xs).drop j.paid
      let b := s.ctxAt c
      let r := payFrom b.mem b.fab due
      let t := if due.isEmpty then s else s.setCtxAt c { b with mem := r.2.1, fab := r.2.2 }
      if s.lineHeld xs then .wait s j.paid
      else if r.1.length < due.length then .wait t (j.paid + r.1.length)
      else .moved ((t.tlbFills core c ((rowPieces va j.rowb).map Prod.fst)).rowBytes core j xs)

/-- How far a job gets. -/
inductive JobEnd where
  | whole
  | fault (c : Cause) (va : Nat)
  | beyond
  | wait
  deriving DecidableEq, Repr

/-- The rows of a job from its next one on. -/
def State.runRows (core : Nat) : Nat → CopyJob → State → JobEnd × CopyJob × State
  | 0, j, s => (.whole, j, s)
  | n + 1, j, s =>
    match s.moveRow core j with
    | .moved t => State.runRows core n { j with row := j.row + 1, paid := 0 } t
    | .fault c va => (.fault c va, j, s)
    | .beyond => (.beyond, j, s)
    | .wait t p => (.wait, { j with paid := p }, t)

/-! ## The end of a job (R206, R212, R213) -/

/-- The follow-on of a CPY.MX. -/
def CopyJob.follow (j : CopyJob) : MxCmd :=
  { num := 0, gid := j.gid, slot := j.slot, block := j.block, offset := j.offset, gnum := j.gnum, gtag := j.gtag,
    op := if j.mldw then .mldw j.tile (j.flags.getLsbD 2) j.fmt
      else .mma j.acc j.tile (j.flags.getLsbD 0) (j.flags.getLsbD 1) (j.flags.getLsbD 2) j.fmt,
    ret := none }

/-- A job leaves the queue and its core looks at its work again; a block with no group left may end. -/
def State.jobGone (s : State) (core k : Nat) (j : CopyJob) : State :=
  ((s.setCoreAt core { s.coreAt core with copyQ := tdel (s.coreAt core).copyQ k }).kick core).blockEnd j.block

/-- The last byte has landed, or its last write is performed: the tile becomes READY or EMPTY, and a follow-on is held for the
matrix queue (R206, R212). -/
def State.jobWhole (s : State) (core k : Nat) (j : CopyJob) : State :=
  if j.isLoad then
    let s := s.modTile j.block j.tile fun t =>
      { t with state := .ready, err := false, pins := if j.fn = 4 then t.pins + 1 else t.pins }
    let s := if j.fn = 4 then
        s.setCoreAt core { s.coreAt core with followQ := (s.coreAt core).followQ ++ [j.follow] }
      else s
    s.jobGone core k j
  else (s.modTile j.block j.tile fun t => { t with err := false }.release).jobGone core k j

/-- A row left the footprint: the job ends with ERR, and the group takes an engine trap (R213). -/
def State.jobBeyond (s : State) (core k : Nat) (j : CopyJob) : State :=
  let s := s.modTile j.block j.tile fun t => { t with err := true }.release
  let s := s.jobGone core k j
  s.deferTo j.gid j.slot j.block
    { cause := .cpyFootprint, mask := 0#32, src := .copy, offset := j.offset, va := 0, num := j.gnum, gtag := j.gtag, time := s.timebase }

/-- A row faulted: the job stops there until it is resumed, and a record goes to the context's fault queue (R213). -/
def State.jobFault (s : State) (core k : Nat) (j : CopyJob) (c : Cause) (va : Nat) : State :=
  let g := s.jobGroup j.gid j.block j.gnum j.gtag
  let r := s.mkRecord g j.slot { cause := c, mask := 0#32, va := va, src := .copy, offset := some j.offset } true false 0#4
  let s := s.setCoreAt core { s.coreAt core with copyQ := tput (s.coreAt core).copyQ k { j with stopped := true } }
  (s.countRecord g.ctx).postRecord g.ctx r (.job core k)

/-- A job moves its rows, unless it is stopped or an earlier conflicting job of its block is not complete (R137, R206, R213). -/
def execCopyJobComplete (core k : Nat) (s : State) : Host.Outcome State Fault Refusal :=
  match tget? (s.coreAt core).copyQ k with
  | none => .next s
  | some j =>
    if j.stopped || s.jobBlocked core k j then .next s
    else
      let r := State.runRows core (j.rows - j.row) j s
      let t := r.2.2
      match r.1 with
      | .whole => .next (t.jobWhole core k r.2.1)
      | .beyond => .next (t.jobBeyond core k r.2.1)
      | .fault c va => .next (t.jobFault core k r.2.1 c va)
      | .wait => .next (t.setCoreAt core { t.coreAt core with copyQ := tput (t.coreAt core).copyQ k r.2.1 })

/-- Whether a follow-on can join the matrix queue: its scale tile is READY and the unit is its block's (R212, R215). -/
def State.followReady (s : State) (core : Nat) (m : MxCmd) : Bool :=
  let c := s.coreAt core
  c.mxQ.length < 8 && (c.mxOwner == none || c.mxOwner == some m.block) && s.tilesReady m.block (m.op.tiles.1.drop 1)

/-- The follow-ons that remain when the first of a list that satisfies a condition is taken. -/
def takeFirst {α : Type} (p : α → Bool) : List α → Option (α × List α)
  | [] => none
  | a :: as => if p a then some (a, as) else (takeFirst p as).map fun r => (r.1, a :: r.2)

/-- A held follow-on joins the matrix queue (R212). -/
def execFollowOnEnqueue (core : Nat) (s : State) : Host.Outcome State Fault Refusal :=
  match takeFirst (s.followReady core) (s.coreAt core).followQ with
  | none => .next s
  | some (m, rest) =>
    let t := s.setCoreAt core { s.coreAt core with followQ := rest }
    .next ((t.mxJoin core m (m.op.tiles.1.drop 1)).kick core)

end Sys2Proof.Machine
end

