-- ==== Sys2Proof/Machine/Matrix.lean ====
section
/-! DEFINITION. The matrix unit (R215 to R231): its instructions, and the commands of its queue as they execute. -/

namespace Sys2Proof.Machine

/-! ## Elements (R144, R217) -/

/-- `n` codes of `w` bits packed in a number, the first lowest. -/
def unpackCodes (w : Nat) : Nat → Nat → List Nat
  | 0, _ => []
  | n + 1, x => x % 2 ^ w :: unpackCodes w n (x / 2 ^ w)

/-- Codes of a row of a tile. -/
def State.tileCodes (s : State) (b t r bits n : Nat) : List Nat :=
  let x := s.tileAt b t
  unpackCodes bits n (leNat (srange (s.blkAt b).scratch (x.base + r * x.pitch) (n * bits / 8)))

/-- The format of a float element (R217). -/
def mxElemFmt (f : Nat) : Fmt :=
  match f with
  | 0 => bf16 | 1 => fp16 | 3 => e5m2 | 5 => e3m2 | 6 => e2m3 | 7 => e2m1 | _ => e4m3

/-- The value of an integer element: INT8, or TERN 0, +1 and −1 (R143). -/
def intElem (f c : Nat) : Int :=
  if f = 9 then (if c = 1 then 1 else if c = 3 then -1 else 0) else (BitVec.ofNat 8 c).toInt

/-- Whether an activation's code is zero, of either sign (R227). -/
def zeroCode (f c : Nat) : Bool := if f = 8 then c == 0 else c % (mxElemFmt f).sign == 0

/-! ## Status bits (R226) -/

def stOvf : BitVec 5 := 1#5
def stSat : BitVec 5 := 2#5
def stInv : BitVec 5 := 4#5
def stInx : BitVec 5 := 8#5
def stUnf : BitVec 5 := 16#5

/-- The bits of `st` where an event occurred. -/
def onEv (ev e : Events) (st : BitVec 5) : BitVec 5 := if ev &&& e != 0#8 then st else 0#5

/-! ## One element of an accumulator (R223, R224) -/

/-- An accumulator word, its partial, and the status bits set. -/
structure MCell where
  w : Word
  p : Option Int
  st : BitVec 5
  deriving DecidableEq, Repr

/-- One product joins a partial of the 26-bit format; an exact zero adds nothing. -/
def fpAccum (x w : FSrc) (c : MCell) : MCell :=
  let bad := x.v.isNan || w.v.isNan || badMul x.v w.v
  let p : Val := if bad then .nan else mulVal x.v w.v
  if p.isZero then c
  else
    let sum : Exact :=
      match c.p with
      | none => ⟨p, 0#8⟩
      | some q => exAdd 0 (unpack fp26 q.toNat) ⟨p, false⟩
    let r := roundVal fp26 0 false 0 sum
    { c with p := some r.1, st := c.st ||| (if bad then stInv else 0#5) ||| onEv r.2 evNV stInv ||| onEv r.2 evOF stOvf }

/-- A value times a power of two. -/
def Val.scale (v : Val) (k : Int) : Val :=
  match v with
  | .num n m e st => .num n m (e + k) st
  | v => v

/-- Promotion of an FP32 element: `scale` is the exponent of its block scales, none where one of them is NaN. -/
def fpPromote (satm : Bool) (scale : Option Int) (c : MCell) : MCell :=
  match scale, c.p with
  | some _, none => c
  | _, p =>
    let v : Val := match scale, p with | some k, some q => (unpack fp26 q.toNat).v.scale k | _, _ => .nan
    let r := roundVal fp32 0 false 0 (exAdd 0 (unp32 c.w) ⟨v, false⟩)
    let mag := r.1 % fp32.sign
    let sat := satm && mag == fp32.inf
    let st := (if scale.isNone then stInv else 0#5) ||| onEv r.2 evNV stInv ||| onEv r.2 evOF stOvf ||| onEv r.2 evNX stInx
      ||| (if mag != 0 && mag < 2 ^ 23 then onEv r.2 evNX stUnf else 0#5) ||| (if sat then stSat else 0#5)
    { w := BitVec.ofNat 32 (if sat then r.1 - mag + fp32.max else r.1), p := none, st := c.st ||| st }

/-- One product joins an integer partial. -/
def intAccum (x w : Int) (c : MCell) : MCell := { c with p := some (c.p.getD 0 + x * w) }

/-- Promotion of an INT32 element (R224). -/
def intPromote (satm : Bool) (c : MCell) : MCell :=
  let t := c.w.toInt + c.p.getD 0
  let out : Bool := decide (t < -2147483648) || decide (2147483647 < t)
  { w := if satm then clampS t else BitVec.ofInt 32 t, p := none,
    st := c.st ||| (if out then (if satm then stSat else stOvf) else 0#5) }

/-- The products of one element in ascending K, with the promotions that fall among them: `prom k` is the promotion after k. -/
def runElem {α : Type} (acc : α → α → MCell → MCell) (prom : Nat → MCell → MCell) (P : Nat) :
    Nat → Nat → List α → List α → MCell → MCell
  | pc, k, x :: xs, w :: ws, c =>
    let c := acc x w c
    if pc + 1 = P then runElem acc prom P 0 (k + 1) xs ws (prom k c) else runElem acc prom P (pc + 1) (k + 1) xs ws c
  | _, _, _, _, c => c

/-! ## A whole accumulator -/

/-- The partials of `n` elements from `k` on. -/
def partsFrom : Nat → Nat → List (Nat × Int) → List (Option Int)
  | 0, _, _ => []
  | n + 1, k, [] => none :: partsFrom n (k + 1) []
  | n + 1, k, (a, i) :: rest =>
    if a = k then some i :: partsFrom n (k + 1) rest else none :: partsFrom n (k + 1) ((a, i) :: rest)

/-- The cells of an accumulator, element i × 128 + n. -/
def Acc.cells (a : Acc) : List MCell :=
  ((srange a.words 0 16384).zip (partsFrom 16384 0 a.part)).map fun p => ⟨p.1, p.2, 0#5⟩

def partsOf : Nat → List MCell → List (Nat × Int)
  | _, [] => []
  | k, c :: cs => match c.p with | some i => (k, i) :: partsOf (k + 1) cs | none => partsOf (k + 1) cs

/-- An accumulator takes its cells. -/
def Acc.put (a : Acc) (cs : List MCell) : Acc :=
  { a with words := slist 0 (cs.map MCell.w), part := partsOf 0 cs, status := cs.foldl (fun (st : BitVec 5) c => st ||| c.st) a.status }

/-- The promotion of pending partials (R223, R225). -/
def Acc.promote (a : Acc) : Acc :=
  match a.pend with
  | none => a
  | some key =>
    let cs := a.cells.map fun c => if key.1 = 8 then (if c.p.isSome then intPromote key.2.2.2 c else c) else fpPromote key.2.2.2 (some 0) c
    { a.put cs with pcnt := 0, pend := none }

def Core.accAt (c : Core) (a : Nat) : Acc := (tget? c.accs a).getD Acc.blank
def Core.setAcc (c : Core) (a : Nat) (x : Acc) : Core := { c with accs := tput c.accs a x }

/-- Lists cut into rows of `w`. -/
def chunks {α : Type} (w : Nat) : Nat → List α → List (List α)
  | 0, _ => []
  | n + 1, l => l.take w :: chunks w n (l.drop w)

/-- Column `n` of some rows. -/
def column (rows : List (List Nat)) (n : Nat) : List Nat := rows.map fun r => r.getD n 0

/-- The words a weight plane holds as rows of codes. -/
def WPlane.rows (p : WPlane) (K : Nat) : List (List Nat) := (chunks 128 K (srange p.w 0 (K * 128))).map fun r => r.map BitVec.toNat

/-- The interval of promotion (R219). -/
def promInterval (prom : Nat) : Nat := 32 * 2 ^ prom

/-- Streaming of an MMA into an accumulator (R223, R224): `xs` its activation rows, `sx` their scale rows. -/
def Acc.stream (a : Acc) (fmt : FmtBlk) (zero : Bool) (plane : WPlane) (xs sx : List (List Nat)) : Acc :=
  let af := FmtBlk.afmt fmt
  let wf := FmtBlk.wfmt fmt
  let K := 32 * FmtBlk.k32 fmt
  let M := xs.length
  let P := promInterval (FmtBlk.prom fmt)
  let satm := FmtBlk.satm fmt
  let key : FmtKey := (af, wf, FmtBlk.prom fmt, satm)
  let a : Acc :=
    if zero then
      { a with words := a.words.filter fun p => M * 128 ≤ p.1, part := [], pcnt := 0, pend := none }
    else if a.pend.isSome && a.pend != some key then a.promote
    else a
  let wrows := plane.rows K
  let cols := (List.range 128).map (column wrows)
  let wsc (blk n : Nat) : Nat := (sget plane.scales (blk * 128 + n)).toNat
  let anyProm := P ≤ a.pcnt + K
  let scaleOf (i n k : Nat) : Option Int :=
    if isMx wf then
      let x := (sx.getD i []).getD (k / 32) 0
      let w := wsc (k / 32) n
      if x = 255 ∨ w = 255 then none else some (x + w - 254)
    else some 0
  let elem (i n : Nat) (c : MCell) : MCell :=
    if af = 8 then
      runElem intAccum (fun _ => intPromote satm) P a.pcnt 0 ((xs.getD i []).map (intElem 8)) ((cols.getD n []).map (intElem wf)) c
    else
      runElem fpAccum (fun k => fpPromote satm (scaleOf i n k)) P a.pcnt 0 ((xs.getD i []).map (unpack (mxElemFmt af)))
        ((cols.getD n []).map (unpack (mxElemFmt wf))) c
  let idle (c : MCell) : MCell :=
    if anyProm && c.p.isSome then (if af = 8 then intPromote satm c else fpPromote satm (some 0) c) else c
  let cs := a.cells.zipIdx.map fun p => if p.2 / 128 < M then elem (p.2 / 128) (p.2 % 128) p.1 else idle p.1
  let pc := (a.pcnt + K) % P
  { a.put cs with pcnt := pc, pend := if pc = 0 then none else some key, itype := af == 8 }

/-! ## Toggle counts (R231) -/

/-- Bits that differ between two stores, over both; the fuel is the sum of their lengths. -/
def xorCount : Nat → Sparse 16 → Sparse 16 → Nat
  | 0, _, _ => 0
  | _ + 1, [], ys => ys.foldl (fun (n : Nat) p => n + popc (p.2.setWidth 32)) 0
  | _ + 1, xs, [] => xs.foldl (fun (n : Nat) p => n + popc (p.2.setWidth 32)) 0
  | f + 1, (a, x) :: xs, (b, y) :: ys =>
    if a = b then popc ((x ^^^ y).setWidth 32) + xorCount f xs ys
    else if a < b then popc (x.setWidth 32) + xorCount f xs ((b, y) :: ys)
    else popc (y.setWidth 32) + xorCount f ((a, x) :: xs) ys

/-- The rows of an MMA enter one after another. DEDUCED (log 31), unsafe. -/
def Core.enterRows (c : Core) (fmt : FmtBlk) : List (List Nat) → Core
  | [] => c
  | r :: rs =>
    let row : Sparse 16 := slist 0 (r.map (BitVec.ofNat 16))
    let lim := kLoad (FmtBlk.wfmt fmt)
    let old := c.lastRow.filter fun p => p.1 < lim
    let z := r.countP (zeroCode (FmtBlk.afmt fmt))
    { c with togCount := c.togCount + xorCount (row.length + old.length + 1) row old, zeroCount := c.zeroCount + z,
             rowCount := c.rowCount + 1, lastRow := row }.enterRows fmt rs

/-! ## The commands as they execute (R221, R222, R228) -/

/-- Load the shadow plane (R221); whether a reserved TERN code was met. R231 does not say what such a load counts: here the refused weights
count against the old plane, and the lost plane as all zero codes from then on. DESIGN CHOICE (log 86), unsafe. -/
def State.runMldw (s : State) (core : Nat) (m : MxCmd) (t : Nat) (fmt : FmtBlk) : State × Bool :=
  let wf := FmtBlk.wfmt fmt
  let K := 32 * FmtBlk.k32 fmt
  let rows := (List.range K).map fun k => s.tileCodes m.block t k (elemBits wf) 128
  let lost := wf == 9 && rows.any fun r => r.contains 2
  let w : Sparse 16 := slist 0 (rows.flatten.map (BitVec.ofNat 16))
  let sc : Sparse 8 :=
    match FmtBlk.scaleTile fmt true with
    | some st => slist 0 (((List.range (K / 32)).flatMap fun b => s.tileCodes m.block st b 8 128).map (BitVec.ofNat 8))
    | none => []
  let c := s.coreAt core
  let tog := xorCount (w.length + c.shadow.w.length + 1) w c.shadow.w
  let p : WPlane :=
    if lost then { WPlane.blank with mark := .lost }
    else { mark := .loaded, fmt := wf, k32 := FmtBlk.k32 fmt, w := w, scales := sc }
  (s.setCoreAt core { c with shadow := p, togCount := c.togCount + tog }, lost)

/-- Whether a row of activations touches a poisoned sector. -/
def State.rowPoisoned (s : State) (b t r n : Nat) : Bool :=
  let x := s.tileAt b t
  let lo := x.base + r * x.pitch
  (s.blkAt b).scratchPoison.any fun k => lo < (k + 1) * 64 && k * 64 < lo + n

/-- An accumulator of the block is written (R200). -/
def State.dirty (s : State) (b a : Nat) : State :=
  s.setBlkAt b { s.blkAt b with accDirty := (s.blkAt b).accDirty ||| BitVec.ofNat 4 (2 ^ a) }

def State.modAcc (s : State) (core b a : Nat) (f : Acc → Acc) : State :=
  (s.setCoreAt core ((s.coreAt core).setAcc a (f ((s.coreAt core).accAt a)))).dirty b a

/-- An MMA: the swap, the checks of the active plane, then the stream; the cause with which it is discarded (R222). R222 discards it
for a poisoned activation sector and is silent on the activation scales: a poisoned sector of the scale tile does not discard it.
DEDUCED (log 28), unsafe. -/
def State.runMma (s : State) (core : Nat) (m : MxCmd) (a t : Nat) (swap zero : Bool) (fmt : FmtBlk) : State × Option Cause :=
  let c := s.coreAt core
  let c : Core := if swap then { c with active := c.shadow, shadow := c.active } else c
  let s := s.setCoreAt core c
  let af := FmtBlk.afmt fmt
  let K := 32 * FmtBlk.k32 fmt
  let M := FmtBlk.mrows fmt + 1
  if c.active.mark != .loaded then (s, some .mxPlaneLost)
  else if c.active.fmt != FmtBlk.wfmt fmt || c.active.k32 != FmtBlk.k32 fmt then (s, some .mxMismatch)
  else if (List.range M).any fun r => s.rowPoisoned m.block t r (K * elemBits af / 8) then (s, some .poison)
  else
    let xs := (List.range M).map fun r => s.tileCodes m.block t r (elemBits af) K
    let sx :=
      match FmtBlk.scaleTile fmt false with
      | some st => (List.range M).map fun r => s.tileCodes m.block st r 8 (K / 32)
      | none => []
    let s := s.setCoreAt core (c.enterRows fmt xs)
    (s.modAcc core m.block a fun x => x.stream fmt zero c.active xs sx, none)

/-- Bytes of an output element of ACCRD. -/
def outBytes (ofmt : Nat) : Nat := if ofmt = 0 then 4 else if ofmt ≤ 2 then 2 else 1

/-- ACCRD's conversion of a word: its code and the status bits (R228). -/
def accConv (ofmt : Nat) (sat : Bool) (w : Word) : Nat × BitVec 5 :=
  match ofmt with
  | 0 => (w.toNat, 0#5)
  | 5 =>
    let i := max (-128) (min 127 w.toInt)
    ((BitVec.ofInt 8 i).toNat, if i = w.toInt then 0#5 else stSat)
  | _ =>
    let f := match ofmt with | 1 => bf16 | 2 => fp16 | 3 => e4m3 | _ => e5m2
    let v := (unp32 w).v
    let r := roundVal f 0 (sat && !v.isInf) 0 ⟨v, 0#8⟩
    (r.1, onEv r.2 evOF stOvf ||| onEv r.2 evQSAT stSat)

/-- A converted row of an accumulator, and the status bits. -/
def Acc.outRow (a : Acc) (ofmt : Nat) (sat : Bool) (r : Nat) : List (Nat × BitVec 5) :=
  (srange a.words (r * 128) 128).map (accConv ofmt sat)

/-- ACCRD to a tile (R228). R103 speaks of stores: the rows it writes leave the poison of their sectors as it is.
DEDUCED (log 28), unsafe. -/
def State.runAccrd (s : State) (core : Nat) (m : MxCmd) (a t ofmt : Nat) (sat : Bool) (row0 n : Nat) : State :=
  let s := s.modAcc core m.block a Acc.promote
  let x := (s.coreAt core).accAt a
  let rows := (List.range n).map fun r => x.outRow ofmt sat (row0 + r)
  let s := s.modAcc core m.block a fun x =>
    { x with status := rows.flatten.foldl (fun (st : BitVec 5) p => st ||| p.2) x.status }
  let tl := s.tileAt m.block t
  let b := s.blkAt m.block
  let mem := rows.zipIdx.foldl (fun (mem : Sparse 8) p =>
    sputRange mem (tl.base + p.2 * tl.pitch) (p.1.flatMap fun q => leBytes (outBytes ofmt) q.1)) b.scratch
  (s.setBlkAt m.block { b with scratch := mem }).modTile m.block t fun t => { t with state := .ready, err := false }

/-- The words lane L receives from a converted row (R228). -/
def laneWords (ofmt : Nat) (row : List Nat) (L : Lane) : List Word :=
  let n := outBytes ofmt
  let x := (List.range 4).foldr (fun k (a : Nat) => row.getD (4 * L + k) 0 + 2 ^ (8 * n) * a) 0
  (List.range n).map fun j => BitVec.ofNat 32 (x / 2 ^ (32 * j))

/-- A result reaches the slot that waits for it, if its allocation still stands (R45), and wakes the entries `es` it is written to
(R50); the slot goes on. -/
def State.deliver (s : State) (core : Nat) (m : MxCmd) (es : List Nat) (put : Group → Group) : State :=
  match m.ret with
  | none => s
  | some k =>
    let g := s.grpAt m.gid
    let here := g.a.pending.contains k || g.b.pending.contains k
    if (tget? s.groups m.gid).isNone || !here || g.gtag != m.gtag then
      s.setCoreAt core { s.coreAt core with staleReturn := (s.coreAt core).staleReturn + 1#32 }
    else
      let sel : SlotId := if g.a.pending.contains k then .A else .B
      let s : State := { s with gid := m.gid, sel := sel, uni := (g.slot sel).waitUni }
      let s := (s.setGrp (put g)).wakeEntries g es
      let s := s.setSlot { s.slot with pending := s.slot.pending.filter fun j => j != k }
      if s.slot.pending.isEmpty then s.advance else s

/-- ACCRD to registers (R228). -/
def State.runAccrdReg (s : State) (core : Nat) (m : MxCmd) (a d : Nat) (lanes : Lanes) (ofmt : Nat) (sat : Bool) (row0 : Nat) :
    State :=
  let s := s.modAcc core m.block a Acc.promote
  let row := ((s.coreAt core).accAt a).outRow ofmt sat row0
  let s := s.modAcc core m.block a fun x => { x with status := row.foldl (fun (st : BitVec 5) p => st ||| p.2) x.status }
  let codes := row.map Prod.fst
  s.deliver core m ((List.range (outBytes ofmt)).map fun j => d + j) fun g => (lanesOf lanes).foldl (fun (g : Group) L => g.setEntries d L (laneWords ofmt codes L)) g

/-- The status word (R226). -/
def Acc.word (a : Acc) : Word :=
  BitVec.ofNat 32 (a.status.toNat + (if a.itype then 2 ^ 10 else 0) + a.pcnt / 32 % 8 * 2 ^ 11)

/-- The unit is released; the commands that its block has in the queue hold it anew, and a follow-on that has not joined claims it
when it joins (R215). -/
def State.releaseUnit (s : State) (core : Nat) : State :=
  let c := (s.coreAt core).releaseMx
  s.setCoreAt core { c with mxOwner := c.mxQ.head?.map MxCmd.block }

/-- What a command does to the tiles it read: the pins end, and REL releases its tile. -/
def State.endReads (s : State) (m : MxCmd) (rel : Option Nat) : State :=
  let s := s.modTiles m.block m.op.tiles.1 Tile.unpin
  match rel with
  | some t => s.modTile m.block t fun x => if x.isReady then x.release else x
  | none => s

/-- An engine trap of a command (R213, R222). -/
def State.mxTrap (s : State) (m : MxCmd) (c : Cause) : State :=
  s.deferTo m.gid m.slot m.block
    { cause := c, mask := 0#32, src := .matrix, offset := m.offset, va := 0, num := m.gnum, gtag := m.gtag, time := s.timebase }

/-- One command. -/
def State.runCmd (s : State) (core : Nat) (m : MxCmd) : State :=
  match m.op with
  | .mldw t rel fmt =>
    let r := s.runMldw core m t fmt
    let u := r.1.endReads m (if rel then some t else none)
    if r.2 then u.mxTrap m .mxTernCode else u
  | .mma a t swap zero rel fmt =>
    let r := s.runMma core m a.toNat t swap zero fmt
    match r.2 with
    | some c => (r.1.endReads m none).mxTrap m c
    | none => r.1.endReads m (if rel then some t else none)
  | .accz a clr free =>
    let u := s.modAcc core m.block a.toNat fun x =>
      { x with words := [], part := [], pcnt := 0, pend := none, status := if clr then 0#5 else x.status }
    if free then u.releaseUnit core else u
  | .accrd a t ofmt sat row0 n => s.runAccrd core m a.toNat t ofmt.toNat sat row0 n
  | .accrdReg a d lanes ofmt sat row0 => s.runAccrdReg core m a.toNat d lanes ofmt.toNat sat row0
  | .accst a d =>
    let w := ((s.coreAt core).accAt a.toNat).word
    s.deliver core m [] fun g => { g with s := sput g.s d w }
  | .accstW a v => s.setCoreAt core ((s.coreAt core).setAcc a.toNat { (s.coreAt core).accAt a.toNat with status := v })
  | .accprom a => s.modAcc core m.block a.toNat Acc.promote

/-- The engine takes the next queued command, in order, once no earlier conflicting copy job of its block is left (R137, R216).
DESIGN CHOICE (log 32), unsafe. -/
def execMatrixCommandExecute (core : Nat) (s : State) : Host.Outcome State Fault Refusal :=
  match (s.coreAt core).mxQ with
  | [] => .next s
  | m :: rest =>
    if s.cmdBlocked core m then .next s
    else
      let t := s.setCoreAt core { s.coreAt core with mxQ := rest }
      .next (((t.runCmd core m).kick core).blockEnd m.block)

/-- The counts of the window are copied (R231). -/
def execMxWindowEnd (core : Nat) (s : State) : Host.Outcome State Fault Refusal :=
  let c := s.coreAt core
  let cap (n : Nat) : Word := BitVec.ofNat 32 (min n (2 ^ 32 - 1))
  .next (s.setCoreAt core { c with mxToggle := cap c.togCount, mxZeros := cap c.zeroCount, rowsLast := c.rowCount, togCount := 0,
                                   zeroCount := 0, rowCount := 0 })

/-! ## The instructions -/

/-- Whether the matrix queue takes a command now: room, the unit (R215, R216), READY tiles, an EMPTY destination (R206), and no
earlier command of the accumulator it names (R222). DEDUCED (log 29), unsafe. -/
def State.mxReady (s : State) (op : MxOp) : Bool :=
  let b := s.grp.block
  s.core.mxQ.length < 8 && s.core.unitFree b && s.tilesReady b op.tiles.1
    && op.tiles.2.all (fun t => (s.tileAt b t).isEmpty) && s.core.accFree op.acc?

/-- Whether a matrix or tile instruction that waits can go on (R191, R206). -/
def State.engGo (s : State) : Bool :=
  match s.slot.eng with
  | none => true
  | some (.mx op) => s.mxReady op
  | some (.tile t pub) => (s.tileAt s.grp.block t).canRelease pub

/-- A command is accepted: earlier stores are performed, its destination tile is FILLING; with `ret` its slot waits for the
result, otherwise it goes on. -/
def State.mxAccept (s : State) (op : MxOp) (ret : Bool) : Issue :=
  let k := s.next
  let g := s.grp
  let m : MxCmd :=
    { num := 0, gid := s.gid, slot := s.sel, block := g.block, offset := s.slot.offset, gnum := g.num, gtag := g.gtag, op := op,
      ret := if ret then some k else none }
  let t := s.drainAll.modTiles g.block op.tiles.2 fun t => { t with state := .filling }
  let t := (t.mxJoin g.core m op.tiles.1).kick g.core
  if ret then .wait (t.setSlot { t.slot with pending := t.slot.pending ++ [k], eng := none, waitUni := s.uni }) else .done t

/-- The fit checks of a command, which are made again at its acceptance (R310). -/
def State.mxFits (s : State) (op : MxOp) : Option Cause :=
  match op with
  | .mldw t _ fmt => must (s.fmtFits fmt true t) .mxShape
  | .mma _ t _ _ _ fmt => must (s.fmtFits fmt false t) .mxShape
  | .accrd _ t o _ row0 n =>
    must (row0 + n ≤ 128 && (s.tileAt s.grp.block t).fits n (128 * outBytes o.toNat)) .mxShape
  | _ => none

/-- A command joins the queue, or its instruction waits with what it has read (R310). -/
def State.mxIssue (s : State) (op : MxOp) (ret : Bool) : Issue :=
  if s.mxReady op then s.passing (s.mxFits op) (s.mxAccept op ret) else .wait (s.setSlot { s.slot with eng := some (.mx op) })

/-- A matrix instruction: its checks when it first comes to issue, then its command joins the queue; one that waits goes on with
the command it has (R310). -/
def State.mxGo (s : State) (first : Option Cause) (op : MxOp) (ret : Bool) : Issue :=
  match s.slot.eng with
  | some (.mx op) => s.mxIssue op ret
  | _ => s.passing first (s.mxIssue op ret)

/-- The checks of MLDW and MMA, in the order of R310. -/
def State.mxCheck (s : State) (mldw : Bool) (t : Nat) (fmt : FmtBlk) : Option Cause :=
  firstBad [must (FmtBlk.clean fmt) .reservedField, s.tileCheck true t, s.fmtTiles fmt mldw,
    must (FmtBlk.good fmt mldw) .mxFormat, must (s.fmtFits fmt mldw t) .mxShape]

/-- R221 -/
def execMldw (x : EngF) (s : State) : Host.Outcome State Fault Refusal :=
  engIssue eMldw 1 x (fun s =>
    let t := s.tileIx x
    let fmt := s.grp.quad x.c
    s.mxGo (s.mxCheck true t fmt) (.mldw t (x.flags.getLsbD 2) fmt) false) s

/-- R222 -/
def execMma (x : EngF) (s : State) : Host.Outcome State Fault Refusal :=
  engIssue eMma 1 x (fun s =>
    let t := s.tileIx x
    let fmt := s.grp.quad x.c
    s.mxGo (s.mxCheck false t fmt) (.mma x.acc t (x.flags.getLsbD 0) (x.flags.getLsbD 1) (x.flags.getLsbD 2) fmt) false) s

/-- R228 -/
def execAccz (x : EngF) (s : State) : Host.Outcome State Fault Refusal :=
  engIssue eAccz 1 x (fun s => s.mxGo none (.accz x.acc (x.flags.getLsbD 0) (x.flags.getLsbD 1)) false) s

/-- R228 -/
def execAccrd (x : EngF) (ax : AccrdX) (s : State) : Host.Outcome State Fault Refusal :=
  engIssue eAccrd 1 x (fun s =>
    let t := s.tileIx x
    let n := ax.nrows.toNat + 1
    let o := ax.ofmt.toNat
    let op : MxOp := .accrd x.acc t ax.ofmt ax.sat ax.row0.toNat n
    s.mxGo (firstBad [s.tileCheck true t, must (o ≤ 5) .mxFormat, s.mxFits op]) op false) s

/-- Registers of ACCRD's register form (R228). -/
def accrdRegs (ax : AccrdX) : Nat := if ax.ofmt.toNat ≤ 5 then outBytes ax.ofmt.toNat else 1

/-- R228 checks the rows of ACCRD in tile mode; a register form whose ROW0 is 128 or more names no row, and traps MX_SHAPE too.
DEDUCED (log 28), unsafe. -/
def execAccrdReg (x : EngF) (ax : AccrdX) (s : State) : Host.Outcome State Fault Refusal :=
  engIssue eAccrdReg (accrdRegs ax) x (fun s =>
    let d := match x.d with | .v n => n.val | _ => 0
    s.mxGo (firstBad [must (ax.ofmt.toNat ≤ 5) .mxFormat, must (ax.row0.toNat < 128) .mxShape])
      (.accrdReg x.acc d s.passLanes ax.ofmt ax.sat ax.row0.toNat) true) s

/-- R228 -/
def execAccst (x : EngF) (s : State) : Host.Outcome State Fault Refusal :=
  engIssue eAccst 1 x (fun s => s.mxGo none (.accst x.acc (match x.d with | .s n => n.val | _ => 0)) true) s

/-- R228 -/
def execAccstW (x : EngF) (s : State) : Host.Outcome State Fault Refusal :=
  engIssue eAccstW 1 x (fun s => s.mxGo none (.accstW x.acc ((s.grp.rdS x.b 0).extractLsb' 0 5)) false) s

/-- R228 -/
def execAccprom (x : EngF) (s : State) : Host.Outcome State Fault Refusal :=
  engIssue eAccprom 1 x (fun s => s.mxGo none (.accprom x.acc) false) s

end Sys2Proof.Machine
end

