-- ==== Sys2Proof/Machine/Forms.lean ====
section
/-! DEFINITION. What the issue of any word would check (R37 to R40), without running it: the encoding trap that refuses the
word, or the form of its instruction. A sink region's words are checked so at the header (R169). The tables follow Decode. -/

namespace Sys2Proof.Machine

/-- A register-form word. -/
def formReg (r : RegRow) (spOk opOk extra : Bool) (w : IWord) (s : State) : Except Cause Form :=
  decReg r spOk opOk (fun x => regForm r x extra s) w
/-- A conversion to an element format: CLAMP 0 or 3 (R159). -/
def formCvt (r : RegRow) (spOk opOk : Bool) (w : IWord) (s : State) : Except Cause Form :=
  decReg r spOk opOk (fun x => regForm r x (x.clamp == 0#2 || x.clamp == 3#2) s) w
/-- An immediate-form word. -/
def formImm (r : ImmRow) (spOk : ImmF → Bool) (w : IWord) (s : State) : Except Cause Form :=
  decImm r spOk (fun x => immForm r x s) w
/-- FBP: the registers its mask names lie within the allocation (R196). -/
def formFbp (r : ImmRow) (spOk : ImmF → Bool) (w : IWord) (s : State) : Except Cause Form :=
  decImm r spOk (fun x =>
    { immForm r x s with regOk := (fbpRegs x.a (fld w 20 8)).all fun n => n < min 192 s.grp.alloc }) w
/-- A memory-form word. -/
def formMem (r : MemRow) (spOk : MemF → Bool) (tw : Nat) (w : IWord) (s : State) : Except Cause Form :=
  decMem r spOk (fun x => memForm r tw x s) w
/-- A branch-form word. -/
def formBr (r : BrRow) (w : IWord) (s : State) : Except Cause Form := decBr r (fun x => brForm r x s) w
/-- An engine-form word. -/
def formEng (r : EngRow) (spOk : EngF → Bool) (wd : Nat) (w : IWord) (s : State) : Except Cause Form :=
  decEng r spOk (fun x => engForm r wd x s) w
/-- TRAP, BKPT and LEASE. -/
def formSys (dc bc : OpClass) (w : IWord) (s : State) : Except Cause Form :=
  decSys dc bc (fun x => sysForm ⟨dc, 1⟩ ⟨bc, 1⟩ false x s) w
/-- CSRR and CSRW. -/
def formCsr (write : Bool) (w : IWord) (s : State) : Except Cause Form :=
  match csrOf (fld w 48 12) with
  | none => decCsr write (fun x => sysForm sysNone sysNone false x s) w
  | some c =>
    decCsr write (fun x =>
      if write then sysForm sysNone ⟨csrSrc c, csrRegs c⟩ (csrPerLane c) x s
      else sysForm ⟨csrDst c, csrRegs c⟩ sysNone (csrPerLane c) x s) w

/-- The header's registers: each code below 0xC0 is a v register (R165). -/
def hdrCodes (x : SinkF) : List (BitVec 8) :=
  [x.log] ++ [x.in0, x.in1, x.in2, x.in3].take x.nin.toNat ++ [x.out0, x.out1].take x.nout.toNat
def sinkOpds (x : SinkF) : List (OpSpec × Opd) :=
  (hdrCodes x).filterMap fun c => (opdOf c).map fun o => (⟨.srcV, 1⟩, o)
def sinkForm (x : SinkF) (s : State) : Form :=
  { cls := .S, lanes := s.passLanes, opds := (sinkOpds x).filter fun p => (match p.2 with | .v _ => true | _ => false),
    modOk := noGuard x.guard x.ginv }
/-- A SINK header. -/
def formSink (w : IWord) (s : State) : Except Cause Form := decSink (fun x => sinkForm x s) w

/-- Major 0x01: R58, R59. -/
def form01 (fn : Nat) (w : IWord) (s : State) : Except Cause Form :=
  match fn with
  | 0x00 | 0x01 | 0x02 | 0x03 | 0x04 | 0x05 | 0x06 | 0x07 | 0x08 | 0x09 | 0x0A | 0x0B | 0x0C | 0x0D | 0x0E | 0x0F => formReg rSSS (fld w 0 28 == 0#28) true true w s
  | 0x10 | 0x13 | 0x14 => formReg rSS (fld w 0 28 == 0#28) true true w s
  | 0x11 | 0x12 => formReg rSS64 (fld w 0 28 == 0#28) true true w s
  | 0x15 => formReg rSSSS (fld w 0 28 == 0#28) true true w s
  | _ => .error .illegalFunction

/-- Major 0x02: R58, R59. -/
def form02 (fn : Nat) (w : IWord) (s : State) : Except Cause Form :=
  match fn with
  | 0x00 | 0x01 | 0x02 | 0x03 | 0x04 | 0x05 | 0x06 | 0x07 | 0x08 | 0x09 | 0x0A | 0x0B | 0x0C | 0x0D | 0x0E | 0x0F => formImm iSS (fun _ => fld w 0 28 == 0#28) w s
  | 0x10 => formImm iS (fun _ => fld w 0 28 == 0#28) w s
  | _ => .error .illegalFunction

/-- Major 0x03: R60. -/
def form03 (fn : Nat) (w : IWord) (s : State) : Except Cause Form :=
  match fn with
  | 0x00 | 0x01 | 0x02 | 0x03 | 0x04 | 0x05 | 0x06 | 0x07 | 0x08 | 0x09 => formReg rSSS (fld w 0 28 == 0#28) true true w s
  | 0x10 => formReg rSSSS (fld w 0 28 == 0#28) true true w s
  | _ => .error .illegalFunction

/-- Major 0x04: R61. -/
def form04 (fn : Nat) (w : IWord) (s : State) : Except Cause Form :=
  match fn with
  | 0x00 | 0x01 | 0x02 | 0x03 => formReg rMMM (fld w 0 28 == 0#28) true true w s
  | 0x04 | 0x05 => formReg rMM (fld w 0 28 == 0#28) true true w s
  | 0x06 | 0x08 | 0x09 | 0x0A | 0x0B => formReg rSM (fld w 0 28 == 0#28) true true w s
  | 0x07 => formReg rMS (fld w 0 28 == 0#28) true true w s
  | 0x0C => formReg rSMM (fld w 0 28 == 0#28) true true w s
  | _ => .error .illegalFunction

/-- Major 0x05: R64. -/
def form05 (fn : Nat) (w : IWord) (s : State) : Except Cause Form :=
  match fn with
  | 0x00 => formBr bBra w s
  | 0x01 | 0x02 => formBr bCond w s
  | 0x03 | 0x04 => formBr bNz w s
  | 0x05 | 0x08 => formBr bReg w s
  | 0x06 => formBr bCall w s
  | 0x07 => formBr bCallx w s
  | _ => .error .illegalFunction

/-- Major 0x06: R66. -/
def form06 (fn : Nat) (w : IWord) (s : State) : Except Cause Form :=
  match fn with
  | 0x00 => formBr bDbra w s
  | _ => .error .illegalFunction

/-- Major 0x07: R15, R16. -/
def form07 (fn : Nat) (w : IWord) (s : State) : Except Cause Form :=
  match fn with
  | 0x00 => formBr bJoin w s
  | 0x01 => formBr bExit w s
  | _ => .error .illegalFunction

/-- Major 0x20: R79. -/
def form20 (fn : Nat) (w : IWord) (s : State) : Except Cause Form :=
  match fn with
  | 0x00 | 0x01 | 0x02 | 0x03 | 0x04 | 0x05 | 0x06 | 0x07 | 0x08 | 0x0E | 0x0F | 0x10 | 0x11 | 0x14 | 0x15 | 0x16 | 0x17 | 0x19 | 0x1A | 0x1B => formReg rVVV (fld w 0 28 == 0#28) true true w s
  | 0x09 | 0x1E | 0x1F => formReg rVVVV (fld w 0 28 == 0#28) true true w s
  | 0x0A | 0x0B => formReg rMadw (fld w 0 28 == 0#28) true true w s
  | 0x0C | 0x0D => formReg rV64 (fld w 0 28 == 0#28) true true w s
  | 0x12 | 0x13 | 0x18 | 0x1C => formReg rVV (fld w 0 28 == 0#28) true true w s
  | 0x1D => formReg rVVV (fld w 0 25 == 0#25) true true w s
  | _ => .error .illegalFunction

/-- Major 0x21: R79. -/
def form21 (fn : Nat) (w : IWord) (s : State) : Except Cause Form :=
  match fn with
  | 0x00 | 0x01 | 0x02 | 0x03 | 0x04 | 0x05 | 0x06 | 0x07 | 0x08 | 0x0E | 0x0F | 0x10 | 0x11 | 0x14 | 0x15 | 0x16 | 0x17 | 0x19 | 0x1A | 0x1B => formImm iVV (fun _ => fld w 0 28 == 0#28) w s
  | 0x1C => formImm iV (fun _ => fld w 0 28 == 0#28) w s
  | _ => .error .illegalFunction

/-- Major 0x22: R81. -/
def form22 (fn : Nat) (w : IWord) (s : State) : Except Cause Form :=
  match fn with
  | 0x00 | 0x01 | 0x02 | 0x03 | 0x04 | 0x05 | 0x06 | 0x07 | 0x08 | 0x09 => formReg rCmp (fld w 0 26 == 0#26 && combOk (fld w 26 2)) true true w s
  | _ => .error .illegalFunction

/-- Major 0x23: R82. -/
def form23 (fn : Nat) (w : IWord) (s : State) : Except Cause Form :=
  match fn with
  | 0x00 | 0x01 => formReg rVVV (fld w 0 28 == 0#28) true true w s
  | 0x02 | 0x07 | 0x08 => formReg rVVVV (fld w 0 28 == 0#28) true true w s
  | 0x03 | 0x04 | 0x05 | 0x06 => formReg rVV (fld w 0 28 == 0#28) true true w s
  | _ => .error .illegalFunction

/-- Major 0x24: R84. -/
def form24 (fn : Nat) (w : IWord) (s : State) : Except Cause Form :=
  match fn with
  | 0x00 | 0x01 | 0x02 | 0x03 => formReg rVVV (fld w 0 28 == 0#28) true true w s
  | 0x04 | 0x05 => formReg rDivrem (fld w 0 28 == 0#28) true true w s
  | _ => .error .illegalFunction

/-- Major 0x25: R88. -/
def form25 (fn : Nat) (w : IWord) (s : State) : Except Cause Form :=
  match fn with
  | 0x00 => formReg (rLane 0 (laneRead w)) (fld w 0 19 == 0#19 && laneOk 0 (laneRead w)) true true w s
  | 0x01 => formReg (rLane 1 (laneRead w)) (fld w 0 19 == 0#19 && laneOk 1 (laneRead w)) true true w s
  | 0x02 => formReg (rLane 2 (laneRead w)) (fld w 0 19 == 0#19 && laneOk 2 (laneRead w)) true true w s
  | 0x03 => formReg (rLane 3 (laneRead w)) (fld w 0 19 == 0#19 && laneOk 3 (laneRead w)) true true w s
  | 0x04 => formReg (rLane 4 (laneRead w)) (fld w 0 19 == 0#19 && laneOk 4 (laneRead w)) true true w s
  | 0x05 => formReg (rLane 5 (laneRead w)) (fld w 0 19 == 0#19 && laneOk 5 (laneRead w)) true true w s
  | 0x06 => formReg (rLane 6 (laneRead w)) (fld w 0 19 == 0#19 && laneOk 6 (laneRead w)) true true w s
  | 0x07 => formReg (rLane 7 (laneRead w)) (fld w 0 19 == 0#19 && laneOk 7 (laneRead w)) true true w s
  | _ => .error .illegalFunction

/-- Major 0x26: R89, R90. -/
def form26 (fn : Nat) (w : IWord) (s : State) : Except Cause Form :=
  match fn with
  | 0x00 | 0x01 | 0x02 | 0x03 => formReg rPoll (fld w 0 28 == 0#28) true true w s
  | 0x04 | 0x18 => formReg rPeers (fld w 0 28 == 0#28) true true w s
  | 0x08 | 0x09 | 0x0A | 0x0B | 0x0C | 0x0D | 0x0E | 0x0F | 0x10 | 0x11 | 0x12 => formReg rRed (fld w 0 28 == 0#28) true true w s
  | _ => .error .illegalFunction

/-- Major 0x40: R151. -/
def form40 (fn : Nat) (w : IWord) (s : State) : Except Cause Form :=
  match fn with
  | 0x00 | 0x01 | 0x02 => formReg rF2 (fld w 0 28 == 0#28) true true w s
  | 0x04 => formReg rF3 (fld w 0 28 == 0#28) true true w s
  | 0x05 => formReg rFrnd (fld w 0 25 == 0#25 && rmsOk (fld w 25 3)) true true w s
  | 0x06 => formReg rFldexp (fld w 0 28 == 0#28) true true w s
  | 0x07 => formReg rVV (fld w 0 28 == 0#28) true true w s
  | _ => .error .illegalFunction

/-- Major 0x41: R152. -/
def form41 (fn : Nat) (w : IWord) (s : State) : Except Cause Form :=
  match fn with
  | 0x00 | 0x01 | 0x02 => formReg rF2 (fld w 0 27 == 0#27) true true w s
  | 0x04 | 0x08 => formReg rF3 (fld w 0 27 == 0#27) true true w s
  | 0x05 | 0x06 => formReg rFminmax (fld w 0 27 == 0#27) true true w s
  | _ => .error .illegalFunction

/-- Major 0x42: R153, R154. -/
def form42 (fn : Nat) (w : IWord) (s : State) : Except Cause Form :=
  match fn with
  | 0x00 | 0x01 | 0x02 | 0x03 | 0x04 | 0x05 | 0x06 | 0x07 => formReg rFcmp (fld w 0 26 == 0#26 && combOk (fld w 26 2)) true true w s
  | 0x08 | 0x09 => formReg rFminmax (fld w 0 28 == 0#28) true true w s
  | _ => .error .illegalFunction

/-- Major 0x43: R155. -/
def form43 (fn : Nat) (w : IWord) (s : State) : Except Cause Form :=
  match fn with
  | 0x00 => formReg rF2 (fld w 0 28 == 0#28) true true w s
  | 0x01 => formReg rF1 (fld w 0 28 == 0#28) true true w s
  | _ => .error .illegalFunction

/-- Major 0x44: R156. -/
def form44 (fn : Nat) (w : IWord) (s : State) : Except Cause Form :=
  match fn with
  | 0x00 | 0x01 | 0x02 | 0x03 | 0x04 | 0x05 | 0x06 | 0x07 => formReg rF1 (fld w 0 28 == 0#28) true true w s
  | _ => .error .illegalFunction

/-- Major 0x45: R159, R160. -/
def form45 (fn : Nat) (w : IWord) (s : State) : Except Cause Form :=
  match fn with
  | 0x00 | 0x01 => formReg rCvtP (fld w 0 25 == 0#25 && rmsOk (fld w 25 3)) true true w s
  | 0x02 | 0x03 => formReg rCvtNP (fld w 0 25 == 0#25 && rmsOk (fld w 25 3)) true true w s
  | 0x04 | 0x05 => formReg rCvtN (fld w 0 21 == 0#21 && fld w 22 6 == 0#6) true true w s
  | 0x06 | 0x07 => formReg rF2 (fld w 0 25 == 0#25 && rmsOk (fld w 25 3)) true true w s
  | 0x08 => formCvt rCvtE (fld w 0 16 == 0#16 && fld w 21 1 == 0#1 && elemToOk (elemRead w)) true w s
  | 0x09 => formReg (rFromElem (elemRead w)) (fld w 0 16 == 0#16 && fld w 21 1 == 0#1 && elemFromOk (elemRead w)) true true w s
  | 0x0A => formReg rVV (fld w 0 28 == 0#28) true true w s
  | _ => .error .illegalFunction

/-- Major 0x46: R162, R163. -/
def form46 (fn : Nat) (w : IWord) (s : State) : Except Cause Form :=
  match fn with
  | 0x00 | 0x01 => formReg rHad (fld w 0 28 == 0#28) true true w s
  | 0x02 => formReg rHad (fld w 0 15 == 0#15 && quantOk (quantRead w)) (quantScdOk (quantRead w)) true w s
  | _ => .error .illegalFunction

/-- Major 0x47: R151. -/
def form47 (fn : Nat) (w : IWord) (s : State) : Except Cause Form :=
  match fn with
  | 0x00 | 0x01 | 0x02 | 0x03 => formImm iVV (fun _ => fld w 0 28 == 0#28) w s
  | _ => .error .illegalFunction

/-- Major 0x70: R114. -/
def form70 (fn : Nat) (w : IWord) (s : State) : Except Cause Form :=
  match fn with
  | 0x00 => formMem mLoad (fun x => fld w 1 11 == 0#11 && sxOk (w.getLsbD 0) x.size) 1 w s
  | _ => .error .illegalFunction

/-- Major 0x71: R115. -/
def form71 (fn : Nat) (w : IWord) (s : State) : Except Cause Form :=
  match fn with
  | 0x00 => formMem mStore (fun _ => fld w 0 12 == 0#12) 1 w s
  | _ => .error .illegalFunction

/-- Major 0x72: R118. -/
def form72 (fn : Nat) (w : IWord) (s : State) : Except Cause Form :=
  match fn with
  | 0x00 | 0x02 | 0x03 | 0x04 | 0x05 | 0x06 | 0x07 | 0x08 | 0x09 | 0x0D | 0x0E | 0x0F => formMem (mAtom false .b32 (spaceRead w)) (fun _ => fld w 0 6 == 0#6 && spaceOk (spaceRead w)) (sizeRegs .b32) w s
  | 0x01 | 0x0A => formMem (mAtom false .b64 (spaceRead w)) (fun _ => fld w 0 6 == 0#6 && spaceOk (spaceRead w)) (sizeRegs .b64) w s
  | 0x0B => formMem (mAtom true .b32 (spaceRead w)) (fun _ => fld w 0 6 == 0#6 && spaceOk (spaceRead w)) (sizeRegs .b32) w s
  | 0x0C => formMem (mAtom true .b64 (spaceRead w)) (fun _ => fld w 0 6 == 0#6 && spaceOk (spaceRead w)) (sizeRegs .b64) w s
  | _ => .error .illegalFunction

/-- Major 0x73: R116. -/
def form73 (fn : Nat) (w : IWord) (s : State) : Except Cause Form :=
  match fn with
  | 0x00 => formMem mLoadS (fun x => fld w 1 11 == 0#11 && sxOk (w.getLsbD 0) x.size) 1 w s
  | 0x01 => formMem mStoreS (fun _ => fld w 0 12 == 0#12) 1 w s
  | 0x02 => formMem mLoadRS (fun x => fld w 1 11 == 0#11 && sxOk (w.getLsbD 0) x.size) 1 w s
  | 0x03 => formMem mStoreRS (fun _ => fld w 0 12 == 0#12) 1 w s
  | _ => .error .illegalFunction

/-- Major 0x74: R117. -/
def form74 (fn : Nat) (w : IWord) (s : State) : Except Cause Form :=
  match fn with
  | 0x00 => formMem mLoadC (fun x => fld w 1 11 == 0#11 && sxOk (w.getLsbD 0) x.size) 1 w s
  | 0x01 => formMem mLoadRO (fun x => fld w 1 11 == 0#11 && sxOk (w.getLsbD 0) x.size) 1 w s
  | _ => .error .illegalFunction

/-- Major 0x75: R130, R139. -/
def form75 (fn : Nat) (w : IWord) (s : State) : Except Cause Form :=
  match fn with
  | 0x00 =>
    if fld w 38 3 == 1#3 then formMem (mFence .acq) (fun _ => fld w 0 12 == 0#12) 1 w s
    else if fld w 38 3 == 2#3 then formMem (mFence .rel) (fun _ => fld w 0 12 == 0#12) 1 w s
    else if fld w 38 3 == 3#3 then formMem (mFence .ar) (fun _ => fld w 0 12 == 0#12) 1 w s
    else .error .reservedField
  | 0x01 => formMem mFenceRo (fun _ => fld w 0 12 == 0#12) 1 w s
  | _ => .error .illegalFunction

/-- Major 0x76: R122. -/
def form76 (fn : Nat) (w : IWord) (s : State) : Except Cause Form :=
  match fn with
  | 0x00 => formMem mPf (fun _ => fld w 2 10 == 0#10 && levelOk (fld w 0 2)) 1 w s
  | _ => .error .illegalFunction

/-- Major 0x77: R112. -/
def form77 (fn : Nat) (w : IWord) (s : State) : Except Cause Form :=
  match fn with
  | 0x00 => formMem mResSet (fun _ => fld w 0 4 == 0#4) 1 w s
  | 0x01 | 0x02 => formMem mResH (fun _ => fld w 0 6 == 0#6) 1 w s
  | _ => .error .illegalFunction

/-- Major 0x90: R169. -/
def form90 (fn : Nat) (w : IWord) (s : State) : Except Cause Form :=
  match fn with
  | 0x00 => formSink w s
  | _ => .error .illegalFunction

/-- Major 0x91: R69. -/
def form91 (fn : Nat) (w : IWord) (s : State) : Except Cause Form :=
  match fn with
  | 0x00 => formReg rPset (fld w 0 28 == 0#28) true true w s
  | 0x01 => formReg rPget (fld w 0 28 == 0#28) true true w s
  | _ => .error .illegalFunction

/-- Major 0x92: R196. -/
def form92 (fn : Nat) (w : IWord) (s : State) : Except Cause Form :=
  match fn with
  | 0x00 => formFbp iFbp (fun x => fld w 0 20 == 0#20 && fbpOk x.imm) w s
  | _ => .error .illegalFunction

/-- Major 0x93: R46. -/
def form93 (fn : Nat) (w : IWord) (s : State) : Except Cause Form :=
  match fn with
  | 0x00 => formReg rXset (fld w 0 26 == 0#26) true true w s
  | 0x01 | 0x02 => formReg rXidx (fld w 0 26 == 0#26) true true w s
  | 0x03 => formReg rXget (fld w 0 26 == 0#26) true true w s
  | _ => .error .illegalFunction

/-- Major 0xA0: R72, R73. -/
def formA0 (fn : Nat) (w : IWord) (s : State) : Except Cause Form :=
  match fn with
  | 0x00 => formEng eArrive (fun x => fld w 0 25 == 0#25 && bidOk x.scope (fld w 25 4)) 1 w s
  | 0x01 => formEng eWait (fun x => fld w 0 25 == 0#25 && bidOk x.scope (fld w 25 4)) 1 w s
  | 0x02 => formEng eMeet (fun x => fld w 0 25 == 0#25 && bidOk x.scope (fld w 25 4)) 1 w s
  | _ => .error .illegalFunction

/-- Major 0xA1: R192. -/
def formA1 (fn : Nat) (w : IWord) (s : State) : Except Cause Form :=
  match fn with
  | 0x00 => formEng eLaunch (fun _ => fld w 0 29 == 0#29) 1 w s
  | _ => .error .illegalFunction

/-- Major 0xA2: R240. -/
def formA2 (fn : Nat) (w : IWord) (s : State) : Except Cause Form :=
  match fn with
  | 0x00 => formEng eNqpost (fun _ => fld w 0 29 == 0#29) 1 w s
  | 0x01 => formEng eNqpoll (fun _ => fld w 0 29 == 0#29) 1 w s
  | _ => .error .illegalFunction

/-- Major 0xB0: R208, R206. -/
def formB0 (fn : Nat) (w : IWord) (s : State) : Except Cause Form :=
  match fn with
  | 0x00 => formEng eTdef (fun _ => fld w 15 14 == 0#14) 1 w s
  | 0x01 =>
    if w.getLsbD 32 then formEng eTrel (fun x => fld w 0 29 == 0#29 && x.flags.getLsbD 0 == true) 1 w s
    else formEng eTrel (fun x => fld w 0 29 == 0#29 && x.flags.getLsbD 0 == false) 1 w s
  | 0x02 => formEng eTstate (fun _ => fld w 0 29 == 0#29) 1 w s
  | _ => .error .illegalFunction

/-- Major 0xB1: R211, R212. -/
def formB1 (fn : Nat) (w : IWord) (s : State) : Except Cause Form :=
  match fn with
  | 0x00 | 0x01 => formEng eCpy (fun _ => fld w 0 29 == 0#29) 1 w s
  | 0x02 | 0x03 => formEng eGath (fun _ => fld w 0 29 == 0#29) 1 w s
  | 0x04 => formEng eMx (fun x => fld w 0 29 == 0#29 && mxFlagsOk x) 1 w s
  | _ => .error .illegalFunction

/-- Major 0xB2: R221, R222. -/
def formB2 (fn : Nat) (w : IWord) (s : State) : Except Cause Form :=
  match fn with
  | 0x00 => formEng eMldw (fun _ => fld w 0 29 == 0#29) 1 w s
  | 0x01 => formEng eMma (fun _ => fld w 0 29 == 0#29) 1 w s
  | _ => .error .illegalFunction

/-- Major 0xB3: R228. -/
def formB3 (fn : Nat) (w : IWord) (s : State) : Except Cause Form :=
  match fn with
  | 0x00 => formEng eAccz (fun _ => fld w 0 29 == 0#29) 1 w s
  | 0x01 =>
    if w.getLsbD 32 then formEng eAccrdReg (fun x => fld w 4 3 == 0#3 && fld w 23 6 == 0#6 && x.flags.getLsbD 0 == true && accrdRegOk (accrdRead w)) (accrdRegs (accrdRead w)) w s
    else formEng eAccrd (fun x => fld w 4 3 == 0#3 && fld w 23 6 == 0#6 && x.flags.getLsbD 0 == false) 1 w s
  | 0x02 =>
    if w.getLsbD 32 then formEng eAccstW (fun x => fld w 0 29 == 0#29 && x.flags.getLsbD 0 == true) 1 w s
    else formEng eAccst (fun x => fld w 0 29 == 0#29 && x.flags.getLsbD 0 == false) 1 w s
  | 0x03 => formEng eAccprom (fun _ => fld w 0 29 == 0#29) 1 w s
  | _ => .error .illegalFunction

/-- Major 0xE0: R76. -/
def formE0 (fn : Nat) (w : IWord) (s : State) : Except Cause Form :=
  match fn with
  | 0x00 => formCsr false w s
  | 0x01 => formCsr true w s
  | _ => .error .illegalFunction

/-- Major 0xE1: R78. -/
def formE1 (fn : Nat) (w : IWord) (s : State) : Except Cause Form :=
  match fn with
  | 0x00 | 0x01 => formSys .none .none w s
  | _ => .error .illegalFunction

/-- Major 0xE2: R291. -/
def formE2 (fn : Nat) (w : IWord) (s : State) : Except Cause Form :=
  match fn with
  | 0x00 => formSys .dstS .sOnly w s
  | _ => .error .illegalFunction

/-- The encoding trap of a word, or the form its issue checks (R36, R37). -/
def formOf (w : IWord) (s : State) : Except Cause Form :=
  let fn := (fld w 80 8).toNat
  match (fld w 88 8).toNat with
  | 0x00 =>
    if w == 0#96 then .ok { cls := .S, lanes := s.passLanes, opds := [], modOk := true } else .error .reservedField
  | 0x01 => form01 fn w s
  | 0x02 => form02 fn w s
  | 0x03 => form03 fn w s
  | 0x04 => form04 fn w s
  | 0x05 => form05 fn w s
  | 0x06 => form06 fn w s
  | 0x07 => form07 fn w s
  | 0x20 => form20 fn w s
  | 0x21 => form21 fn w s
  | 0x22 => form22 fn w s
  | 0x23 => form23 fn w s
  | 0x24 => form24 fn w s
  | 0x25 => form25 fn w s
  | 0x26 => form26 fn w s
  | 0x40 => form40 fn w s
  | 0x41 => form41 fn w s
  | 0x42 => form42 fn w s
  | 0x43 => form43 fn w s
  | 0x44 => form44 fn w s
  | 0x45 => form45 fn w s
  | 0x46 => form46 fn w s
  | 0x47 => form47 fn w s
  | 0x70 => form70 fn w s
  | 0x71 => form71 fn w s
  | 0x72 => form72 fn w s
  | 0x73 => form73 fn w s
  | 0x74 => form74 fn w s
  | 0x75 => form75 fn w s
  | 0x76 => form76 fn w s
  | 0x77 => form77 fn w s
  | 0x90 => form90 fn w s
  | 0x91 => form91 fn w s
  | 0x92 => form92 fn w s
  | 0x93 => form93 fn w s
  | 0xA0 => formA0 fn w s
  | 0xA1 => formA1 fn w s
  | 0xA2 => formA2 fn w s
  | 0xB0 => formB0 fn w s
  | 0xB1 => formB1 fn w s
  | 0xB2 => formB2 fn w s
  | 0xB3 => formB3 fn w s
  | 0xE0 => formE0 fn w s
  | 0xE1 => formE1 fn w s
  | 0xE2 => formE2 fn w s
  | _ => .error .illegalOpcode

end Sys2Proof.Machine
end

