-- ==== Sys2Proof/Machine/Sfu.lean ====
section
/-! DEFINITION. The special functions (R156, R157): the listed inputs exactly; for any other input one of the FP32 values within
the bound of the exact function value, which of them being left open. The exact value is computed in fixed point, with 700
bits after the point, far beyond any difference that can tell two FP32 values apart. -/

namespace Sys2Proof.Machine

/-- Bits after the point. -/
def sfuBits : Nat := 700

/-- ⌊π × 2^700⌋. -/
def piFix : Nat := 0x3243f6a8885a308d313198a2e03707344a4093822299f31d0082efa98ec4e6c89452821e638d01377be5466cf34e90c6cc0ac29b7c97c50dd3f84d5b5b54709179216d5d98979fb1bd1310ba698dfb5ac2ffd72dbd01adfb

/-- ⌊ln 2 × 2^700⌋. -/
def ln2Fix : Nat := 0xb17217f7d1cf79abc9e3b39803f2f6af40f343267298b62d8a0d175b8baafa2be7b876206debac98559552fb4afa1b10ed2eae35c138214427573b291169b8253e96ca16224ae8c51acbda11317c387eb9ea9bc3b136603

def fixMul (a b : Nat) : Nat := a * b / 2 ^ sfuBits

/-- Σ of an alternating series: each term is the last × r² ÷ (k (k + 1)), for k, k + 2, … -/
def altSeries (r2 : Nat) : Nat → Nat → Bool → Nat → Int → Int
  | 0, _, _, _, acc => acc
  | fuel + 1, k, neg, term, acc =>
    let t := fixMul term r2 / (k * (k + 1))
    altSeries r2 fuel (k + 2) (!neg) t (if neg then acc - t else acc + t)

/-- sin r and cos r for r in [0, π ÷ 2). -/
def sinFix (r : Nat) : Nat := (altSeries (fixMul r r) 90 2 true r r).toNat
def cosFix (r : Nat) : Nat := (altSeries (fixMul r r) 90 1 true (2 ^ sfuBits) (2 ^ sfuBits)).toNat

/-- Σ xⁿ ÷ n!. -/
def expSeries (x : Nat) : Nat → Nat → Nat → Nat → Nat
  | 0, _, _, acc => acc
  | fuel + 1, k, term, acc => let t := fixMul term x / k; expSeries x fuel (k + 1) t (acc + t)
def expFix (x : Nat) : Nat := expSeries x 180 1 (2 ^ sfuBits) (2 ^ sfuBits)

/-- Σ z^(2i + 1) ÷ (2i + 1), the inverse hyperbolic tangent. -/
def atanhSeries (z2 : Nat) : Nat → Nat → Nat → Nat → Nat
  | 0, _, _, acc => acc
  | fuel + 1, k, pow, acc => let p := fixMul pow z2; atanhSeries z2 fuel (k + 2) p (acc + p / k)
def atanhFix (z : Nat) : Nat := atanhSeries (fixMul z z) 240 3 z z

/-- The special functions. -/
inductive Sfn where
  | sinr | cosr | sinpi | cospi | exp2 | log2 | rcp | rsq
  deriving DecidableEq, Repr

/-- Function code in major 0x44 (R156). -/
def Sfn.code : Sfn → Nat
  | .sinr => 0 | .cosr => 1 | .sinpi => 2 | .cospi => 3 | .exp2 => 4 | .log2 => 5 | .rcp => 6 | .rsq => 7

/-- The bound k of R156. -/
def Sfn.bound : Sfn → Nat
  | .sinr => 2
  | .cosr => 2
  | _ => 1

/-- sin or cos of q quarter turns and a rest r. -/
def quarter (cos : Bool) (q r : Nat) : Int :=
  let p := if cos then q + 1 else q
  let v : Int := if p % 2 = 0 then sinFix r else cosFix r
  if p % 4 < 2 then v else -v

/-- The function's exact value at a finite operand ± m × 2^e outside R157's table: a signed number and its exponent. -/
def sfuExact (f : Sfn) (neg : Bool) (m : Nat) (e : Int) : Int × Int :=
  let a := m * 2 ^ (e + sfuBits).toNat
  let odd (v : Int) : Int × Int := (if neg then -v else v, -sfuBits)
  let half := piFix / 2
  let turn := 2 ^ (sfuBits - 1)
  match f with
  | .sinr => odd (quarter false (a / half) (a % half))
  | .cosr => (quarter true (a / half) (a % half), -sfuBits)
  | .sinpi => odd (quarter false (a / turn) (fixMul (a % turn) piFix))
  | .cospi => (quarter true (a / turn) (fixMul (a % turn) piFix), -sfuBits)
  | .exp2 =>
    let x : Int := if neg then -a else a
    let n := x / 2 ^ sfuBits
    (expFix (fixMul (x - n * 2 ^ sfuBits).toNat ln2Fix), n - sfuBits)
  | .log2 =>
    let k := bitLen m - 1
    let l := 2 * atanhFix ((m - 2 ^ k) * 2 ^ sfuBits / (m + 2 ^ k)) * 2 ^ sfuBits / ln2Fix
    ((e + k) * 2 ^ sfuBits + l, -sfuBits)
  | .rcp => let y : Int := 2 ^ sfuBits / m; (if neg then -y else y, -e - sfuBits)
  | .rsq =>
    let d : Nat := if e % 2 = 0 then 0 else 1
    (isqrt (2 ^ (2 * sfuBits) / (m * 2 ^ d)), -((e - d) / 2) - sfuBits)

/-- The FP32 code at a place of the signed order of codes: 0 upward the positive values, below 0 the negative ones from −0. -/
def codeAt (i : Int) : Nat := if 0 ≤ i then i.toNat else 0x80000000 + (-1 - i).toNat

/-- The FP32 codes within k ulp of y = m × 2^e, m positive (R156). -/
def withinBound (k m : Nat) (e : Int) : List Nat :=
  let top : Int := e + bitLen m - 1
  let u : Int := max top (-126) - 23
  let q : Int := min e (min u fp32.qmin)
  let y : Int := m * 2 ^ (e - q).toNat
  let d : Int := k * 2 ^ (u - q).toNat
  let c : Int := (roundNum fp32 1 false false false m e false).1
  ((List.range (4 * k + 5)).map fun (i : Nat) => codeAt (c - (2 * k + 2 : Nat) + i)).filter fun c =>
    let v := (unpack fp32 c).v
    c % 0x80000000 ≤ fp32.max && decide ((v.int q - y).natAbs ≤ d.natAbs)

/-- The signed infinity. -/
def fInf (neg : Bool) : Word := if neg then 0xFF800000#32 else 0x7F800000#32

/-- A result for an input outside R157's table: NX; a value from those within the bound; UF below the smallest normal value. Where no
finite value is within the bound the result overflows to infinity (DEDUCED from R147 and R149). -/
def sfuOther (f : Sfn) (a : Word) (neg : Bool) (m : Nat) (e : Int) : Word × Events :=
  let y := sfuExact f neg m e
  let mag := y.1.natAbs
  let pick := Config.sfuChoice f.code a
  let cs := withinBound f.bound mag y.2
  if cs.isEmpty then (fInf (decide (y.1 < 0)), evNX ||| evOF)
  else
    let c := cs.getD (pick % cs.length) 0
    let r := BitVec.ofNat 32 c ^^^ (if y.1 < 0 then 0x80000000#32 else 0#32)
    (r, evNX ||| (if c % 0x80000000 < 0x00800000 then evUF else 0#8))

/-- Whether ± m × 2^e is an integer; its value. -/
def intOf? (neg : Bool) (m : Nat) (e : Int) : Option Int :=
  let sg (n : Nat) : Int := if neg then -(n : Int) else n
  if 0 ≤ e then some (sg (m * 2 ^ e.toNat))
  else if m % 2 ^ (-e).toNat = 0 then some (sg (m / 2 ^ (-e).toNat)) else none

/-- Where m × 2^e is a power of two, its exponent. -/
def pow2Of? (m : Nat) (e : Int) : Option Int :=
  if m ≠ 0 ∧ m = 2 ^ (bitLen m - 1) then some (e + bitLen m - 1) else none

def fOne : Word := 0x3F800000#32
def fNan : Word := 0x7FC00000#32
def fZero (neg : Bool) : Word := if neg then 0x80000000#32 else 0#32
def fSigned (neg : Bool) (w : Word) : Word := if neg then w ||| 0x80000000#32 else w
/-- The exact value of an integer or a power of two as FP32. -/
def fInt (i : Int) : Word := BitVec.ofNat 32 (roundNum fp32 0 false false (decide (i < 0)) i.natAbs 0 false).1
def fPow2 (n : Int) : Word := BitVec.ofNat 32 (roundNum fp32 0 false false false 1 n false).1

/-- The special function of an FP32 operand (R157, R156). -/
def sfu (f : Sfn) (a : Word) : Word × Events :=
  let s := unp32 a
  match s.v with
  | .nan => (fNan, snEv [s])
  | .inf n =>
    match f with
    | .sinr => (fNan, evNV)
    | .cosr => (fNan, evNV)
    | .sinpi => (fNan, evNV)
    | .cospi => (fNan, evNV)
    | .exp2 => if n then (0#32, 0#8) else (fInf false, 0#8)
    | .log2 => if n then (fNan, evNV) else (fInf false, 0#8)
    | .rcp => (fZero n, 0#8)
    | .rsq => if n then (fNan, evNV) else (0#32, 0#8)
  | .num n m e _ =>
    let zero := m == 0
    match f with
    | .sinr => if zero then (a, 0#8) else sfuOther f a n m e
    | .cosr => if zero then (fOne, 0#8) else sfuOther f a n m e
    | .sinpi =>
      match intOf? n m e, intOf? n (2 * m) e with
      | some _, _ => (fZero n, 0#8)
      | _, some h => (fSigned (h % 4 == 3) fOne, 0#8)
      | _, _ => sfuOther f a n m e
    | .cospi =>
      match intOf? n m e, intOf? n (2 * m) e with
      | some i, _ => (fSigned (i % 2 == 1) fOne, 0#8)
      | _, some _ => (0#32, 0#8)
      | _, _ => sfuOther f a n m e
    | .exp2 =>
      let i := intOf? n m e
      if !n && 128 * 2 ^ 149 ≤ m * 2 ^ (e + 149).toNat then (fInf false, evOF ||| evNX)
      else if n && 150 * 2 ^ 149 < m * 2 ^ (e + 149).toNat then (0#32, evUF ||| evNX)
      else
        match i with
        | some k => if -149 ≤ k then (fPow2 k, 0#8) else sfuOther f a n m e
        | none => sfuOther f a n m e
    | .log2 =>
      if zero then (fInf true, evFDZ)
      else if n then (fNan, evNV)
      else match pow2Of? m e with | some k => (fInt k, 0#8) | none => sfuOther f a n m e
    | .rcp =>
      if zero then (fInf n, evFDZ)
      else
        match pow2Of? m e with
        | some k => if -k ≤ 127 then (fSigned n (fPow2 (-k)), 0#8) else sfuOther f a n m e
        | none => sfuOther f a n m e
    | .rsq =>
      if zero then (fInf n, evFDZ)
      else if n then (fNan, evNV)
      else
        match pow2Of? m e with
        | some k => if k % 2 = 0 then (fPow2 (-(k / 2)), 0#8) else sfuOther f a n m e
        | none => sfuOther f a n m e

end Sys2Proof.Machine
end

