-- ==== Sys2Proof/Machine/Fp.lean ====
section
/-! DEFINITION. The per-lane float instructions (R151 to R157): majors 0x40 to 0x44 and 0x47. -/

namespace Sys2Proof.Machine

/-! ## Sources, and shapes of a lane's result (R150) -/

/-- The absolute value and the negation of a source: sign bit only (R150). -/
def FSrc.mods (abs neg : Bool) (x : FSrc) : FSrc :=
  let v := if abs && x.v.sign then x.v.negate else x.v
  { x with v := if neg then v.negate else v }

/-- The same on a code, which keeps a NaN's code. -/
def modCode (f : Fmt) (abs neg : Bool) (c : Nat) : Nat :=
  let c := if abs then c % f.sign else c
  if neg then (if c / f.sign % 2 = 1 then c - f.sign else c + f.sign) else c

/-- Half `h` of a packed register (R141). -/
def half (w : Word) (h : Nat) : Nat := (w.extractLsb' (16 * h) 16).toNat
def pack (lo hi : Nat) : Word := BitVec.ofNat 16 hi ++ BitVec.ofNat 16 lo

/-- The format TY names (R152). -/
def packFmt (bf : Bool) : Fmt := if bf then bf16 else fp16

def one (r : Nat × Events) : List Word × Events := ([BitVec.ofNat 32 r.1], r.2)

/-- An FP32 source with its modifiers. -/
def LaneEnv.fa (e : LaneEnv) (x : RegF) : FSrc := (unp32 (e.rd x.a 0)).mods x.absa x.nega
def LaneEnv.fb (e : LaneEnv) (x : RegF) : FSrc := (unp32 (e.rd x.b 0)).mods x.absb x.negb
def LaneEnv.fc (e : LaneEnv) (x : RegF) : FSrc := (unp32 (e.rd x.c 0)).mods x.absc x.negc

def laneFp1 (op : FSrc → Exact) (x : RegF) : LaneFn :=
  fun e => one (finish fp32 e.rm.toNat x.scale x.clamp (op (e.fa x)))
def laneFp2 (op : Nat → FSrc → FSrc → Exact) (x : RegF) : LaneFn :=
  fun e => one (finish fp32 e.rm.toNat x.scale x.clamp (op e.rm.toNat (e.fa x) (e.fb x)))
def laneFma (x : RegF) : LaneFn :=
  fun e => one (finish fp32 e.rm.toNat x.scale x.clamp (exFma e.rm.toNat (e.fa x) (e.fb x) (e.fc x)))

/-- IMM, read as FP32, in the place of B. -/
def laneFpImm (op : Nat → FSrc → FSrc → Exact) (x : ImmF) : LaneFn :=
  fun e => one (finish fp32 e.rm.toNat 0#5 0#2 (op e.rm.toNat (unp32 (e.rd x.a 0)) (unp32 x.imm)))

/-- Both halves of a packed operation; the lane's events are the union (R152). -/
def two (r0 r1 : Nat × Events) : List Word × Events := ([pack r0.1 r1.1], r0.2 ||| r1.2)

/-- Half `h` of a packed source. -/
def srcH (f : Fmt) (abs neg : Bool) (w : Word) (h : Nat) : FSrc := (unpack f (half w h)).mods abs neg

def laneP2 (bf : Bool) (op : Nat → FSrc → FSrc → Exact) (x : RegF) : LaneFn := fun e =>
  let f := packFmt bf
  let r (h : Nat) := finish f e.rm.toNat x.scale x.clamp
    (op e.rm.toNat (srcH f x.absa x.nega (e.rd x.a 0) h) (srcH f x.absb x.negb (e.rd x.b 0) h))
  two (r 0) (r 1)
def laneP3 (bf : Bool) (x : RegF) : LaneFn := fun e =>
  let f := packFmt bf
  let r (h : Nat) := finish f e.rm.toNat x.scale x.clamp
    (exFma e.rm.toNat (srcH f x.absa x.nega (e.rd x.a 0) h) (srcH f x.absb x.negb (e.rd x.b 0) h)
      (srcH f x.absc x.negc (e.rd x.c 0) h))
  two (r 0) (r 1)
def laneDot2 (bf : Bool) (x : RegF) : LaneFn := fun e =>
  let f := packFmt bf
  let p (h : Nat) := (srcH f x.absa x.nega (e.rd x.a 0) h, srcH f x.absb x.negb (e.rd x.b 0) h)
  one (finish fp32 e.rm.toNat x.scale x.clamp (exDot e.rm.toNat [p 0, p 1] (e.fc x)))

/-- VMIN and VMAX (R154). -/
def laneMinMax (isMax : Bool) (x : RegF) : LaneFn := fun e =>
  one (minMax fp32 isMax (modCode fp32 x.absa x.nega (e.rd x.a 0).toNat) (modCode fp32 x.absb x.negb (e.rd x.b 0).toNat))
def laneMinMaxP (bf isMax : Bool) (x : RegF) : LaneFn := fun e =>
  let f := packFmt bf
  let r (h : Nat) := minMax f isMax (modCode f x.absa x.nega (half (e.rd x.a 0) h)) (modCode f x.absb x.negb (half (e.rd x.b 0) h))
  two (r 0) (r 1)

/-- The one-hot class of a code (R151). -/
def fclass (w : Word) : Word :=
  let s := unp32 w
  let k : Nat :=
    match s.v with
    | .nan => if s.sn then 8 else 9
    | .inf n => if n then 0 else 7
    | .num n m _ _ => if m = 0 then (if n then 3 else 4) else if m < 2 ^ 23 then (if n then 2 else 5) else (if n then 1 else 6)
  BitVec.ofNat 32 (2 ^ k)

/-- A float condition on two values that are not NaN, and what it is on a NaN; whether every NaN raises NV (R153). -/
def laneFcmp (c : Int → Bool) (onNan quiet : Bool) (x : RegF) (e : LaneEnv) : Bool × Events :=
  let a := e.fa x
  let b := e.fb x
  if a.v.isNan || b.v.isNan then (onNan, if quiet then snEv [a, b] else evNV) else (c (cmpVal a.v b.v), 0#8)

/-! ## FP32 arithmetic (R151) -/

def laneRnd (rms : BitVec 3) (x : RegF) : LaneFn :=
  fun e => one (finish fp32 0 0#5 x.clamp (exRnd (rmsMode rms e.rm) (e.fa x)))
def laneLdexp (x : RegF) : LaneFn :=
  fun e => one (finish fp32 e.rm.toNat x.scale x.clamp (exLdexp (e.fa x) (e.rd x.b 0).toInt))

/-- R151 -/
def execVaddF32 (x : RegF) (s : State) : Host.Outcome State Fault Refusal :=
  vecEv rF2 x (laneFp2 exAdd x) s

/-- R151 -/
def execVsubF32 (x : RegF) (s : State) : Host.Outcome State Fault Refusal :=
  vecEv rF2 x (laneFp2 exSub x) s

/-- R151 -/
def execVmulF32 (x : RegF) (s : State) : Host.Outcome State Fault Refusal :=
  vecEv rF2 x (laneFp2 (fun _ => exMul) x) s

/-- one rounding (R151) -/
def execVfmaF32 (x : RegF) (s : State) : Host.Outcome State Fault Refusal :=
  vecEv rF3 x (laneFma x) s

/-- integral FP32 value under RMS (R151) -/
def execVrndF32 (x : RegF) (rms : BitVec 3) (s : State) : Host.Outcome State Fault Refusal :=
  vecEv rFrnd x (laneRnd rms x) s

/-- a × 2^B (R151) -/
def execVldexpF32 (x : RegF) (s : State) : Host.Outcome State Fault Refusal :=
  vecEv rFldexp x (laneLdexp x) s

/-- one-hot class (R151) -/
def execVclassF32 (x : RegF) (s : State) : Host.Outcome State Fault Refusal :=
  vecPlain rVV x (lane1 fclass x) s

/-- IMM as FP32 (R151) -/
def execVaddF32Imm (x : ImmF) (s : State) : Host.Outcome State Fault Refusal :=
  vecImmEv iVV x (laneFpImm exAdd x) s

/-- IMM as FP32 (R151) -/
def execVsubF32Imm (x : ImmF) (s : State) : Host.Outcome State Fault Refusal :=
  vecImmEv iVV x (laneFpImm exSub x) s

/-- IMM as FP32 (R151) -/
def execVmulF32Imm (x : ImmF) (s : State) : Host.Outcome State Fault Refusal :=
  vecImmEv iVV x (laneFpImm (fun _ => exMul) x) s

/-- IMM as FP32 (R151) -/
def execVsubrF32 (x : ImmF) (s : State) : Host.Outcome State Fault Refusal :=
  vecImmEv iVV x (laneFpImm (fun m a b => exSub m b a) x) s

/-! ## Compare, minimum and maximum (R153, R154) -/

/-- R153 -/
def execVfcmpEqF32 (x : RegF) (comb : BitVec 2) (s : State) : Host.Outcome State Fault Refusal :=
  vecCmpEv rFcmp x comb (laneFcmp (fun c => c == 0) false true x) s

/-- R153 -/
def execVfcmpNeF32 (x : RegF) (comb : BitVec 2) (s : State) : Host.Outcome State Fault Refusal :=
  vecCmpEv rFcmp x comb (laneFcmp (fun c => c != 0) true true x) s

/-- R153 -/
def execVfcmpLtF32 (x : RegF) (comb : BitVec 2) (s : State) : Host.Outcome State Fault Refusal :=
  vecCmpEv rFcmp x comb (laneFcmp (fun c => c < 0) false false x) s

/-- R153 -/
def execVfcmpLeF32 (x : RegF) (comb : BitVec 2) (s : State) : Host.Outcome State Fault Refusal :=
  vecCmpEv rFcmp x comb (laneFcmp (fun c => c ≤ 0) false false x) s

/-- R153 -/
def execVfcmpGtF32 (x : RegF) (comb : BitVec 2) (s : State) : Host.Outcome State Fault Refusal :=
  vecCmpEv rFcmp x comb (laneFcmp (fun c => 0 < c) false false x) s

/-- R153 -/
def execVfcmpGeF32 (x : RegF) (comb : BitVec 2) (s : State) : Host.Outcome State Fault Refusal :=
  vecCmpEv rFcmp x comb (laneFcmp (fun c => 0 ≤ c) false false x) s

/-- R153 -/
def execVfcmpUnF32 (x : RegF) (comb : BitVec 2) (s : State) : Host.Outcome State Fault Refusal :=
  vecCmpEv rFcmp x comb (laneFcmp (fun _ => false) true true x) s

/-- R153 -/
def execVfcmpOrdF32 (x : RegF) (comb : BitVec 2) (s : State) : Host.Outcome State Fault Refusal :=
  vecCmpEv rFcmp x comb (laneFcmp (fun _ => true) false true x) s

/-- R154 -/
def execVminF32 (x : RegF) (s : State) : Host.Outcome State Fault Refusal :=
  vecEv rFminmax x (laneMinMax false x) s

/-- R154 -/
def execVmaxF32 (x : RegF) (s : State) : Host.Outcome State Fault Refusal :=
  vecEv rFminmax x (laneMinMax true x) s

/-! ## Packed arithmetic (R152) -/

/-- per half (R152) -/
def execVaddF16x2 (x : RegF) (bf : Bool) (s : State) : Host.Outcome State Fault Refusal :=
  vecEv rF2 x (laneP2 bf exAdd x) s

/-- per half (R152) -/
def execVsubF16x2 (x : RegF) (bf : Bool) (s : State) : Host.Outcome State Fault Refusal :=
  vecEv rF2 x (laneP2 bf exSub x) s

/-- per half (R152) -/
def execVmulF16x2 (x : RegF) (bf : Bool) (s : State) : Host.Outcome State Fault Refusal :=
  vecEv rF2 x (laneP2 bf (fun _ => exMul) x) s

/-- per half (R152) -/
def execVfmaF16x2 (x : RegF) (bf : Bool) (s : State) : Host.Outcome State Fault Refusal :=
  vecEv rF3 x (laneP3 bf x) s

/-- per half (R152, R154) -/
def execVminF16x2 (x : RegF) (bf : Bool) (s : State) : Host.Outcome State Fault Refusal :=
  vecEv rFminmax x (laneMinMaxP bf false x) s

/-- per half (R152, R154) -/
def execVmaxF16x2 (x : RegF) (bf : Bool) (s : State) : Host.Outcome State Fault Refusal :=
  vecEv rFminmax x (laneMinMaxP bf true x) s

/-- one rounding of the exact sum (R152) -/
def execVdot2F32F16x2 (x : RegF) (bf : Bool) (s : State) : Host.Outcome State Fault Refusal :=
  vecEv rF3 x (laneDot2 bf x) s

/-! ## Division, square root and the special functions (R155 to R157) -/

/-- R155 -/
def execVfdiv (x : RegF) (s : State) : Host.Outcome State Fault Refusal :=
  vecEv rF2 x (laneFp2 (fun _ => exDiv) x) s

/-- R155 -/
def execVfsqrt (x : RegF) (s : State) : Host.Outcome State Fault Refusal :=
  vecEv rF1 x (laneFp1 exSqrt x) s

/-- A special function: N on A before it, then SCALE with one RNE rounding, then CLAMP (R156). -/
def laneSfu (f : Sfn) (x : RegF) : LaneFn := fun e =>
  let r := sfu f (BitVec.ofNat 32 (modCode fp32 x.absa x.nega (e.rd x.a 0).toNat))
  let d := finish fp32 0 x.scale x.clamp ⟨(unp32 r.1).v, r.2⟩
  one d

/-- R156, R157 -/
def execVsinr (x : RegF) (s : State) : Host.Outcome State Fault Refusal :=
  vecEv rF1 x (laneSfu .sinr x) s

/-- R156, R157 -/
def execVcosr (x : RegF) (s : State) : Host.Outcome State Fault Refusal :=
  vecEv rF1 x (laneSfu .cosr x) s

/-- R156, R157 -/
def execVsinpi (x : RegF) (s : State) : Host.Outcome State Fault Refusal :=
  vecEv rF1 x (laneSfu .sinpi x) s

/-- R156, R157 -/
def execVcospi (x : RegF) (s : State) : Host.Outcome State Fault Refusal :=
  vecEv rF1 x (laneSfu .cospi x) s

/-- R156, R157 -/
def execVexp2 (x : RegF) (s : State) : Host.Outcome State Fault Refusal :=
  vecEv rF1 x (laneSfu .exp2 x) s

/-- R156, R157 -/
def execVlog2 (x : RegF) (s : State) : Host.Outcome State Fault Refusal :=
  vecEv rF1 x (laneSfu .log2 x) s

/-- R156, R157 -/
def execVrcp (x : RegF) (s : State) : Host.Outcome State Fault Refusal :=
  vecEv rF1 x (laneSfu .rcp x) s

/-- R156, R157 -/
def execVrsq (x : RegF) (s : State) : Host.Outcome State Fault Refusal :=
  vecEv rF1 x (laneSfu .rsq x) s


end Sys2Proof.Machine
end

