-- ==== Sys2Proof/Machine/Mask.lean ====
section
/-! DEFINITION. The mask instructions (R61): major 0x04. -/

namespace Sys2Proof.Machine

/-- A mask instruction that writes the bits of the active lanes of a mask register (R61). -/
def maskPlain (r : RegRow) (x : RegF) (f : State → Lanes) (s : State) : Host.Outcome State Fault Refusal :=
  regIssue r x (fun s => .done (s.setM x.d s.passLanes (f s))) s

/-- The lanes of mask operand A that are active. -/
def State.maskA (s : State) (x : RegF) : Lanes := s.rdM x.a &&& s.passLanes

/-- mA & mB in the active lanes (R61) -/
def execMand (x : RegF) (s : State) : Host.Outcome State Fault Refusal :=
  maskPlain rMMM x (fun s => s.rdM x.a &&& s.rdM x.b) s

/-- mA | mB in the active lanes (R61) -/
def execMor (x : RegF) (s : State) : Host.Outcome State Fault Refusal :=
  maskPlain rMMM x (fun s => s.rdM x.a ||| s.rdM x.b) s

/-- mA ^ mB in the active lanes (R61) -/
def execMxor (x : RegF) (s : State) : Host.Outcome State Fault Refusal :=
  maskPlain rMMM x (fun s => s.rdM x.a ^^^ s.rdM x.b) s

/-- mA & ~mB in the active lanes (R61) -/
def execMandn (x : RegF) (s : State) : Host.Outcome State Fault Refusal :=
  maskPlain rMMM x (fun s => s.rdM x.a &&& ~~~ s.rdM x.b) s

/-- ~mA in the active lanes (R61) -/
def execMnot (x : RegF) (s : State) : Host.Outcome State Fault Refusal :=
  maskPlain rMM x (fun s => ~~~ s.rdM x.a) s

/-- mA in the active lanes (R61) -/
def execMmov (x : RegF) (s : State) : Host.Outcome State Fault Refusal :=
  maskPlain rMM x (fun s => s.rdM x.a) s

/-- all 32 bits of mA as held (R61) -/
def execMtos (x : RegF) (s : State) : Host.Outcome State Fault Refusal :=
  sclPlain rSM x (fun s => s.rdM x.a) s

/-- the bits of sA in the active lanes (R61) -/
def execStom (x : RegF) (s : State) : Host.Outcome State Fault Refusal :=
  maskPlain rMS x (fun s => s.grp.rdS x.a 0) s

/-- number of active lanes in mA (R61) -/
def execMpopc (x : RegF) (s : State) : Host.Outcome State Fault Refusal :=
  sclPlain rSM x (fun s => BitVec.ofNat 32 (popc (s.maskA x))) s

/-- lowest active lane in mA, or 32 (R61) -/
def execMffs (x : RegF) (s : State) : Host.Outcome State Fault Refusal :=
  sclPlain rSM x (fun s => BitVec.ofNat 32 (ctz (s.maskA x))) s

/-- 1 if some active lane is in mA (R61) -/
def execMany (x : RegF) (s : State) : Host.Outcome State Fault Refusal :=
  sclPlain rSM x (fun s => boolWord (s.maskA x != 0#32)) s

/-- 1 if every active lane is in mA (R61) -/
def execMall (x : RegF) (s : State) : Host.Outcome State Fault Refusal :=
  sclPlain rSM x (fun s => boolWord (s.maskA x == s.passLanes)) s

/-- 1 if mA and mB agree on the active lanes (R61) -/
def execMeq (x : RegF) (s : State) : Host.Outcome State Fault Refusal :=
  sclPlain rSMM x (fun s => boolWord (s.maskA x == s.rdM x.b &&& s.passLanes)) s


end Sys2Proof.Machine
end

