-- ==== Sys2Proof/Machine/Vec.lean ====
section
/-! DEFINITION. The vector integer instructions and compares (R79 to R81): majors 0x20, 0x21 and 0x22. -/

namespace Sys2Proof.Machine

/-- the sum mod 2^32 (R79) -/
def execVaddI32 (x : RegF) (s : State) : Host.Outcome State Fault Refusal :=
  vecPlain rVVV x (lane2 (· + ·) x) s

/-- the difference mod 2^32 (R79) -/
def execVsubI32 (x : RegF) (s : State) : Host.Outcome State Fault Refusal :=
  vecPlain rVVV x (lane2 (· - ·) x) s

/-- signed sum, clamped (R79) -/
def execVaddSatI32 (x : RegF) (s : State) : Host.Outcome State Fault Refusal :=
  vecPlain rVVV x (lane2 addSatS x) s

/-- signed difference, clamped (R79) -/
def execVsubSatI32 (x : RegF) (s : State) : Host.Outcome State Fault Refusal :=
  vecPlain rVVV x (lane2 subSatS x) s

/-- unsigned sum, clamped (R79) -/
def execVaddSatB32 (x : RegF) (s : State) : Host.Outcome State Fault Refusal :=
  vecPlain rVVV x (lane2 addSatU x) s

/-- unsigned difference, clamped to 0 (R79) -/
def execVsubSatB32 (x : RegF) (s : State) : Host.Outcome State Fault Refusal :=
  vecPlain rVVV x (lane2 subSatU x) s

/-- the low 32 bits of the product (R79) -/
def execVmulI32 (x : RegF) (s : State) : Host.Outcome State Fault Refusal :=
  vecPlain rVVV x (lane2 (· * ·) x) s

/-- bits 63:32 of the signed product (R79) -/
def execVmulhiI32 (x : RegF) (s : State) : Host.Outcome State Fault Refusal :=
  vecPlain rVVV x (lane2 mulHiS x) s

/-- bits 63:32 of the unsigned product (R79) -/
def execVmulhiB32 (x : RegF) (s : State) : Host.Outcome State Fault Refusal :=
  vecPlain rVVV x (lane2 mulHiU x) s

/-- low 32 bits of A × B + C (R79) -/
def execVmadI32 (x : RegF) (s : State) : Host.Outcome State Fault Refusal :=
  vecPlain rVVVV x (lane3 mad x) s

/-- signed product plus the C pair (R79) -/
def execVmadwI32 (x : RegF) (s : State) : Host.Outcome State Fault Refusal :=
  vecPlain rMadw x (laneMadw madwS x) s

/-- unsigned product plus the C pair (R79) -/
def execVmadwB32 (x : RegF) (s : State) : Host.Outcome State Fault Refusal :=
  vecPlain rMadw x (laneMadw madwU x) s

/-- 64-bit sum (R79) -/
def execVaddB64 (x : RegF) (s : State) : Host.Outcome State Fault Refusal :=
  vecPlain rV64 x (lane64 (· + ·) x) s

/-- 64-bit difference (R79) -/
def execVsubB64 (x : RegF) (s : State) : Host.Outcome State Fault Refusal :=
  vecPlain rV64 x (lane64 (· - ·) x) s

/-- signed minimum (R79) -/
def execVminI32 (x : RegF) (s : State) : Host.Outcome State Fault Refusal :=
  vecPlain rVVV x (lane2 minS x) s

/-- signed maximum (R79) -/
def execVmaxI32 (x : RegF) (s : State) : Host.Outcome State Fault Refusal :=
  vecPlain rVVV x (lane2 maxS x) s

/-- unsigned minimum (R79) -/
def execVminB32 (x : RegF) (s : State) : Host.Outcome State Fault Refusal :=
  vecPlain rVVV x (lane2 minU x) s

/-- unsigned maximum (R79) -/
def execVmaxB32 (x : RegF) (s : State) : Host.Outcome State Fault Refusal :=
  vecPlain rVVV x (lane2 maxU x) s

/-- |A| mod 2^32 (R79) -/
def execVabsI32 (x : RegF) (s : State) : Host.Outcome State Fault Refusal :=
  vecPlain rVV x (lane1 absI x) s

/-- −A mod 2^32 (R79) -/
def execVnegI32 (x : RegF) (s : State) : Host.Outcome State Fault Refusal :=
  vecPlain rVV x (lane1 (fun a => -a) x) s

/-- A & B (R79) -/
def execVandB32 (x : RegF) (s : State) : Host.Outcome State Fault Refusal :=
  vecPlain rVVV x (lane2 (· &&& ·) x) s

/-- A | B (R79) -/
def execVorB32 (x : RegF) (s : State) : Host.Outcome State Fault Refusal :=
  vecPlain rVVV x (lane2 (· ||| ·) x) s

/-- A ^ B (R79) -/
def execVxorB32 (x : RegF) (s : State) : Host.Outcome State Fault Refusal :=
  vecPlain rVVV x (lane2 (· ^^^ ·) x) s

/-- A & ~B (R79) -/
def execVandnB32 (x : RegF) (s : State) : Host.Outcome State Fault Refusal :=
  vecPlain rVVV x (lane2 andn x) s

/-- ~A (R79) -/
def execVnotB32 (x : RegF) (s : State) : Host.Outcome State Fault Refusal :=
  vecPlain rVV x (lane1 (fun a => ~~~ a) x) s

/-- shift left (R79, R59) -/
def execVshlB32 (x : RegF) (s : State) : Host.Outcome State Fault Refusal :=
  vecPlain rVVV x (lane2 shl x) s

/-- logical shift right (R79, R59) -/
def execVshrB32 (x : RegF) (s : State) : Host.Outcome State Fault Refusal :=
  vecPlain rVVV x (lane2 shrU x) s

/-- arithmetic shift right (R79, R59) -/
def execVshrI32 (x : RegF) (s : State) : Host.Outcome State Fault Refusal :=
  vecPlain rVVV x (lane2 shrS x) s

/-- A (R79) -/
def execVmovB32 (x : RegF) (s : State) : Host.Outcome State Fault Refusal :=
  vecPlain rVV x (lane1 (fun a => a) x) s

/-- The lane of VSEL: A where the mask register's bit is set, otherwise B. -/
def laneSel (x : RegF) (selm : BitVec 3) : LanePure :=
  fun e => [if e.m selm.toNat then e.rd x.a 0 else e.rd x.b 0]

/-- m[SELM][L] chooses A, otherwise B (R79) -/
def execVselB32 (x : RegF) (selm : BitVec 3) (s : State) : Host.Outcome State Fault Refusal :=
  vecPlain rVVV x (laneSel x selm) s

/-- C plus the signed byte products (R79) -/
def execVdp4I8 (x : RegF) (s : State) : Host.Outcome State Fault Refusal :=
  vecPlain rVVVV x (lane3 dp4S x) s

/-- C plus the unsigned byte products (R79) -/
def execVdp4B8 (x : RegF) (s : State) : Host.Outcome State Fault Refusal :=
  vecPlain rVVVV x (lane3 dp4U x) s

/-- the sum mod 2^32, IMM in the place of B (R79) -/
def execVaddI32Imm (x : ImmF) (s : State) : Host.Outcome State Fault Refusal :=
  vecImmPlain iVV x (laneImm (· + ·) x) s

/-- the difference mod 2^32, IMM in the place of B (R79) -/
def execVsubI32Imm (x : ImmF) (s : State) : Host.Outcome State Fault Refusal :=
  vecImmPlain iVV x (laneImm (· - ·) x) s

/-- signed sum, clamped, IMM in the place of B (R79) -/
def execVaddSatI32Imm (x : ImmF) (s : State) : Host.Outcome State Fault Refusal :=
  vecImmPlain iVV x (laneImm addSatS x) s

/-- signed difference, clamped, IMM in the place of B (R79) -/
def execVsubSatI32Imm (x : ImmF) (s : State) : Host.Outcome State Fault Refusal :=
  vecImmPlain iVV x (laneImm subSatS x) s

/-- unsigned sum, clamped, IMM in the place of B (R79) -/
def execVaddSatB32Imm (x : ImmF) (s : State) : Host.Outcome State Fault Refusal :=
  vecImmPlain iVV x (laneImm addSatU x) s

/-- unsigned difference, clamped to 0, IMM in the place of B (R79) -/
def execVsubSatB32Imm (x : ImmF) (s : State) : Host.Outcome State Fault Refusal :=
  vecImmPlain iVV x (laneImm subSatU x) s

/-- the low 32 bits of the product, IMM in the place of B (R79) -/
def execVmulI32Imm (x : ImmF) (s : State) : Host.Outcome State Fault Refusal :=
  vecImmPlain iVV x (laneImm (· * ·) x) s

/-- bits 63:32 of the signed product, IMM in the place of B (R79) -/
def execVmulhiI32Imm (x : ImmF) (s : State) : Host.Outcome State Fault Refusal :=
  vecImmPlain iVV x (laneImm mulHiS x) s

/-- bits 63:32 of the unsigned product, IMM in the place of B (R79) -/
def execVmulhiB32Imm (x : ImmF) (s : State) : Host.Outcome State Fault Refusal :=
  vecImmPlain iVV x (laneImm mulHiU x) s

/-- signed minimum, IMM in the place of B (R79) -/
def execVminI32Imm (x : ImmF) (s : State) : Host.Outcome State Fault Refusal :=
  vecImmPlain iVV x (laneImm minS x) s

/-- signed maximum, IMM in the place of B (R79) -/
def execVmaxI32Imm (x : ImmF) (s : State) : Host.Outcome State Fault Refusal :=
  vecImmPlain iVV x (laneImm maxS x) s

/-- unsigned minimum, IMM in the place of B (R79) -/
def execVminB32Imm (x : ImmF) (s : State) : Host.Outcome State Fault Refusal :=
  vecImmPlain iVV x (laneImm minU x) s

/-- unsigned maximum, IMM in the place of B (R79) -/
def execVmaxB32Imm (x : ImmF) (s : State) : Host.Outcome State Fault Refusal :=
  vecImmPlain iVV x (laneImm maxU x) s

/-- A & B, IMM in the place of B (R79) -/
def execVandB32Imm (x : ImmF) (s : State) : Host.Outcome State Fault Refusal :=
  vecImmPlain iVV x (laneImm (· &&& ·) x) s

/-- A | B, IMM in the place of B (R79) -/
def execVorB32Imm (x : ImmF) (s : State) : Host.Outcome State Fault Refusal :=
  vecImmPlain iVV x (laneImm (· ||| ·) x) s

/-- A ^ B, IMM in the place of B (R79) -/
def execVxorB32Imm (x : ImmF) (s : State) : Host.Outcome State Fault Refusal :=
  vecImmPlain iVV x (laneImm (· ^^^ ·) x) s

/-- A & ~B, IMM in the place of B (R79) -/
def execVandnB32Imm (x : ImmF) (s : State) : Host.Outcome State Fault Refusal :=
  vecImmPlain iVV x (laneImm andn x) s

/-- shift left, IMM in the place of B (R79) -/
def execVshlB32Imm (x : ImmF) (s : State) : Host.Outcome State Fault Refusal :=
  vecImmPlain iVV x (laneImm shl x) s

/-- logical shift right, IMM in the place of B (R79) -/
def execVshrB32Imm (x : ImmF) (s : State) : Host.Outcome State Fault Refusal :=
  vecImmPlain iVV x (laneImm shrU x) s

/-- arithmetic shift right, IMM in the place of B (R79) -/
def execVshrI32Imm (x : ImmF) (s : State) : Host.Outcome State Fault Refusal :=
  vecImmPlain iVV x (laneImm shrS x) s

/-- IMM (R79) -/
def execVmovB32Imm (x : ImmF) (s : State) : Host.Outcome State Fault Refusal :=
  vecImmPlain iV x (laneMovImm x) s

/-- A = B, into a mask (R81) -/
def execVcmpEqB32 (x : RegF) (comb : BitVec 2) (s : State) : Host.Outcome State Fault Refusal :=
  vecCmp rCmp x comb (laneCmp cEq x) s

/-- A ≠ B, into a mask (R81) -/
def execVcmpNeB32 (x : RegF) (comb : BitVec 2) (s : State) : Host.Outcome State Fault Refusal :=
  vecCmp rCmp x comb (laneCmp cNe x) s

/-- signed A < B, into a mask (R81) -/
def execVcmpLtI32 (x : RegF) (comb : BitVec 2) (s : State) : Host.Outcome State Fault Refusal :=
  vecCmp rCmp x comb (laneCmp cLtS x) s

/-- signed A ≤ B, into a mask (R81) -/
def execVcmpLeI32 (x : RegF) (comb : BitVec 2) (s : State) : Host.Outcome State Fault Refusal :=
  vecCmp rCmp x comb (laneCmp cLeS x) s

/-- signed A > B, into a mask (R81) -/
def execVcmpGtI32 (x : RegF) (comb : BitVec 2) (s : State) : Host.Outcome State Fault Refusal :=
  vecCmp rCmp x comb (laneCmp cGtS x) s

/-- signed A ≥ B, into a mask (R81) -/
def execVcmpGeI32 (x : RegF) (comb : BitVec 2) (s : State) : Host.Outcome State Fault Refusal :=
  vecCmp rCmp x comb (laneCmp cGeS x) s

/-- unsigned A < B, into a mask (R81) -/
def execVcmpLtB32 (x : RegF) (comb : BitVec 2) (s : State) : Host.Outcome State Fault Refusal :=
  vecCmp rCmp x comb (laneCmp cLtU x) s

/-- unsigned A ≤ B, into a mask (R81) -/
def execVcmpLeB32 (x : RegF) (comb : BitVec 2) (s : State) : Host.Outcome State Fault Refusal :=
  vecCmp rCmp x comb (laneCmp cLeU x) s

/-- unsigned A > B, into a mask (R81) -/
def execVcmpGtB32 (x : RegF) (comb : BitVec 2) (s : State) : Host.Outcome State Fault Refusal :=
  vecCmp rCmp x comb (laneCmp cGtU x) s

/-- unsigned A ≥ B, into a mask (R81) -/
def execVcmpGeB32 (x : RegF) (comb : BitVec 2) (s : State) : Host.Outcome State Fault Refusal :=
  vecCmp rCmp x comb (laneCmp cGeU x) s


end Sys2Proof.Machine
end

