-- ==== Sys2Proof/Machine/Sink.lean ====
section
/-! DEFINITION. Sinking (R164 to R181): the header's checks of its region, the packets it forms, their levels, their run as one
step at the home line, and their landing. -/

namespace Sys2Proof.Machine

/-! ## The region's words (R166, R168) -/

/-- The word of an instruction that a region may hold. -/
def regionWord (w : IWord) : Except Cause Instr :=
  let fn := (fld w 80 8).toNat
  match (fld w 88 8).toNat with
  | 0x00 => .ok .nop
  | 0x04 => dispatch04 fn w
  | 0x20 => dispatch20 fn w
  | 0x21 => dispatch21 fn w
  | 0x22 => dispatch22 fn w
  | 0x40 => dispatch40 fn w
  | 0x42 => dispatch42 fn w
  | 0x47 => dispatch47 fn w
  | 0x70 => dispatch70 fn w
  | 0x71 => dispatch71 fn w
  | 0x72 => dispatch72 fn w
  | _ => .error .sinkIllegal

/-- Whether a word's major and function are permitted, with the fields of its memory form (R168). -/
def sinkPermits (w : IWord) : Bool :=
  let fn := (fld w 80 8).toNat
  let plain : Bool := fld w 38 3 == 0#3 && fld w 35 3 == 0#3
  match (fld w 88 8).toNat with
  | 0x00 | 0x20 | 0x21 | 0x22 | 0x42 | 0x47 => true
  | 0x04 => fn ≤ 5 || fn == 7
  | 0x40 => fn ≤ 2 || fn == 4
  | 0x70 | 0x71 => plain && fld w 32 3 == 0#3
  | 0x72 => plain && fld w 10 2 == 0#2
  | _ => false

/-- Whether a word is a memory instruction, and whether it is an LD.G without a guard. -/
def isMem (w : IWord) : Bool := let m := (fld w 88 8).toNat; 0x70 ≤ m && m ≤ 0x72
def openLoad (w : IWord) : Bool := fld w 88 8 == 0x70#8 && fld w 77 3 == 0#3 && !w.getLsbD 76

/-- The instruction words of a region: a slot's UNI bit, and its words by plane, a uniform slot's under plane 0. -/
structure RegionSlot where
  uni : Bool
  words : List (Nat × IWord)

/-! ## The header's sets (R165, R167) -/

/-- The v registers of the region's set. -/
def sinkSet (x : SinkF) : List Nat := ((hdrCodes x).map BitVec.toNat).filter fun n => n < 192
def sinkIns (x : SinkF) : List (BitVec 8) := [x.in0, x.in1, x.in2, x.in3].take x.nin.toNat
def sinkOuts (x : SinkF) : List (BitVec 8) := [x.out0, x.out1].take x.nout.toNat

/-- The conditions on the header's registers (R167). -/
def hdrOk (x : SinkF) : Bool :=
  (sinkIns x ++ sinkOuts x).all (fun c => c.toNat < 192 && c != x.log) && (x.log.toNat < 192 || x.log == 0xF5#8)
    && !(x.nout == 2#2 && x.out0 == x.out1)

/-- Whether an operand breaches the restrictions of R167: a vx code, a v code outside the set, an s destination. -/
def sinkBreach (set : List Nat) (dst : Bool) (p : OpSpec × Opd) : Bool :=
  regPos p.1.cls && (match p.2 with
    | .vx _ => true
    | .v n => !((List.range p.1.w).all fun j => set.contains (n.val + j))
    | .s _ => dst
    | _ => false)

def Form.breaches (f : Form) (set : List Nat) : Bool :=
  match f.opds with
  | [] => false
  | d :: rest => sinkBreach set true d || rest.any (sinkBreach set false)

/-! ## The checks at the header (R169) -/

/-- The offsets of `n` instructions after an offset, and where the slot goes on after them. -/
def offsetsAfter : Nat → Offset → List Offset
  | 0, _ => []
  | n + 1, o => nextOffset o :: offsetsAfter n (nextOffset o)

def regionEnd (x : SinkF) (o : Offset) : Offset := (offsetsAfter (x.len.toNat + 1) o).getLastD o

/-- What the check of a region comes to. -/
inductive Region where
  | ok (slots : List RegionSlot) (first : Nat)
  | trap (c : Cause)
  | fault (c : Cause) (va : Nat)

/-- One word: R37 to R40, then R168, then R167, which refuses every vx code. `low` says whether it is the lowest occupied plane's,
whose class R19 judges, and `seen` whether a memory instruction stands before it. -/
def State.sinkWord (s : State) (set : List Nat) (uni low seen : Bool) (w : IWord) : Option Cause :=
  let t : State := { s with uni := uni || !low }
  match formOf w t with
  | .error c => some c
  | .ok f =>
    match ({ f with lanes := 0#32 } : Form).check t with
    | some r => some r.cause
    | none =>
      if !sinkPermits w || (isMem w && !seen && !(uni && openLoad w)) then some .sinkIllegal
      else if f.breaches set then some .sinkOperand
      else none

/-- The first cause among a slot's words, each with its own plane's parity verdict. -/
def State.sinkSlot (s : State) (set : List Nat) (uni low seen : Bool) : List (IWord × Bool) → Option Cause
  | [] => none
  | (w, bad) :: rest =>
    if bad then some .lineParity
    else match s.sinkWord set uni low seen w with | some c => some c | none => s.sinkSlot set uni false seen rest

/-- The words in region order; `seen` is the index of the first load once it has been met. -/
def State.sinkSlots (s : State) (set : List Nat) : Nat → Option Nat → List (RegionSlot × List Bool) → Except Cause (Option Nat)
  | _, seen, [] => .ok seen
  | i, seen, (r, bad) :: rest =>
    match s.sinkSlot set r.uni true seen.isSome ((r.words.map Prod.snd).zip bad) with
    | some c => .error c
    | none =>
      s.sinkSlots set (i + 1) (if seen.isNone && r.words.any fun w => isMem w.2 then some i else seen) rest

/-- The checks of a header and its region, steps 2 to 5. DEDUCED (log 25), unsafe. -/
def State.region (s : State) (x : SinkF) : Region :=
  let o := s.slot.offset
  let h := slotIn o
  let n := x.len.toNat
  if n = 0 ∨ 9 < n ∨ (h ≤ 3 ∧ 9 - h < n) then .trap .sinkLength
  else
    let offs := offsetsAfter n o
    if offs.any fun q => !s.lnc.lineOk (lineOf q) then .trap .fetchRange
    else
      let occ := s.grp.occupied s.slot.mask
      let lines := offs.foldl (fun l q => insertNat (lineOf q) l) []
      let all := lines.flatMap fun l => occ.map fun p => (p, l)
      let read (q : BitVec 2 × Nat) := s.fetchLine s.grp q.1.toNat q.2
      match all.find? fun q => (match read q with | .error _ => true | .ok _ => false) with
      | some q =>
        match read q with
        | .error c => .fault c (s.lnc.lineVa q.1.toNat q.2)
        | .ok _ => .trap .lineParity
      | none =>
        let bytes (q : BitVec 2 × Nat) : List Byte := match read q with | .ok bs => bs | .error _ => []
        if all.any fun q => badParity (lineWord (bytes q)) then .trap .lineParity
        else if all.any fun q => badReserved (lineWord (bytes q)) then .trap .lineReserved
        else
          let low := occ.headD 0#2
          let mk (q : Offset) : RegionSlot × List Bool :=
            let k := slotIn q
            let bs (p : BitVec 2) : List Byte := bytes (p, lineOf q)
            let uni := (lineWord (bs low)).getLsbD (5 + k)
            let ps := if uni then [low] else occ
            (⟨uni, ps.map fun p => (if uni then 0 else p.toNat, slotWord (bs p) k)⟩,
             ps.map fun p => parity (slotWord (bs p) k) != (lineWord (bs p)).getLsbD (26 + k))
          match s.sinkSlots (sinkSet x) 0 none (offs.map mk) with
          | .error c => .trap c
          | .ok none => .trap .sinkIllegal
          | .ok (some f) => if hdrOk x then .ok (offs.map fun q => (mk q).1) f else .trap .sinkOperand

/-! ## Running region instructions on a private register set (R167, R173) -/

/-- A state that holds nothing but a private group, whose instructions neither trap nor leave their line. -/
def sandbox (g : Group) : State :=
  { State.reset with
    groups := [(0, { g with ctx := 0, launch := 0, block := 0, core := 0, alloc := 192, trapEn := 0#8 })]
    ctxs := [(0, Ctx.blank)]
    launches := [(0, { Launch.blank with pkt := BitVec.ofNat 1024 (0xFFFFF * 2 ^ 160) })] }

/-- The private group's one slot, about to make the pass of a plane under some lanes. -/
def State.passOf (t : State) (lanes : Lanes) (uni : Bool) (p : BitVec 2) : State :=
  let u : State := { t with uni := uni, gid := 0, sel := .A }
  u.setGrp { u.grp with a := { Slot.free with live := true, mask := lanes, pcur := p }, b := Slot.free, fusion := .fused }

/-- The state an instruction without memory leaves. -/
def regionRun (i : Instr) (t : State) : Host.Outcome State Fault Refusal :=
  match i with
  | .nop => .next t
  | .mand x => Sys2Proof.Machine.execMand x t
  | .mor x => Sys2Proof.Machine.execMor x t
  | .mxor x => Sys2Proof.Machine.execMxor x t
  | .mandn x => Sys2Proof.Machine.execMandn x t
  | .mnot x => Sys2Proof.Machine.execMnot x t
  | .mmov x => Sys2Proof.Machine.execMmov x t
  | .stom x => Sys2Proof.Machine.execStom x t
  | .vaddI32 x => Sys2Proof.Machine.execVaddI32 x t
  | .vsubI32 x => Sys2Proof.Machine.execVsubI32 x t
  | .vaddSatI32 x => Sys2Proof.Machine.execVaddSatI32 x t
  | .vsubSatI32 x => Sys2Proof.Machine.execVsubSatI32 x t
  | .vaddSatB32 x => Sys2Proof.Machine.execVaddSatB32 x t
  | .vsubSatB32 x => Sys2Proof.Machine.execVsubSatB32 x t
  | .vmulI32 x => Sys2Proof.Machine.execVmulI32 x t
  | .vmulhiI32 x => Sys2Proof.Machine.execVmulhiI32 x t
  | .vmulhiB32 x => Sys2Proof.Machine.execVmulhiB32 x t
  | .vmadI32 x => Sys2Proof.Machine.execVmadI32 x t
  | .vmadwI32 x => Sys2Proof.Machine.execVmadwI32 x t
  | .vmadwB32 x => Sys2Proof.Machine.execVmadwB32 x t
  | .vaddB64 x => Sys2Proof.Machine.execVaddB64 x t
  | .vsubB64 x => Sys2Proof.Machine.execVsubB64 x t
  | .vminI32 x => Sys2Proof.Machine.execVminI32 x t
  | .vmaxI32 x => Sys2Proof.Machine.execVmaxI32 x t
  | .vminB32 x => Sys2Proof.Machine.execVminB32 x t
  | .vmaxB32 x => Sys2Proof.Machine.execVmaxB32 x t
  | .vabsI32 x => Sys2Proof.Machine.execVabsI32 x t
  | .vnegI32 x => Sys2Proof.Machine.execVnegI32 x t
  | .vandB32 x => Sys2Proof.Machine.execVandB32 x t
  | .vorB32 x => Sys2Proof.Machine.execVorB32 x t
  | .vxorB32 x => Sys2Proof.Machine.execVxorB32 x t
  | .vandnB32 x => Sys2Proof.Machine.execVandnB32 x t
  | .vnotB32 x => Sys2Proof.Machine.execVnotB32 x t
  | .vshlB32 x => Sys2Proof.Machine.execVshlB32 x t
  | .vshrB32 x => Sys2Proof.Machine.execVshrB32 x t
  | .vshrI32 x => Sys2Proof.Machine.execVshrI32 x t
  | .vmovB32 x => Sys2Proof.Machine.execVmovB32 x t
  | .vselB32 x selm => Sys2Proof.Machine.execVselB32 x selm t
  | .vdp4I8 x => Sys2Proof.Machine.execVdp4I8 x t
  | .vdp4B8 x => Sys2Proof.Machine.execVdp4B8 x t
  | .vaddI32Imm x => Sys2Proof.Machine.execVaddI32Imm x t
  | .vsubI32Imm x => Sys2Proof.Machine.execVsubI32Imm x t
  | .vaddSatI32Imm x => Sys2Proof.Machine.execVaddSatI32Imm x t
  | .vsubSatI32Imm x => Sys2Proof.Machine.execVsubSatI32Imm x t
  | .vaddSatB32Imm x => Sys2Proof.Machine.execVaddSatB32Imm x t
  | .vsubSatB32Imm x => Sys2Proof.Machine.execVsubSatB32Imm x t
  | .vmulI32Imm x => Sys2Proof.Machine.execVmulI32Imm x t
  | .vmulhiI32Imm x => Sys2Proof.Machine.execVmulhiI32Imm x t
  | .vmulhiB32Imm x => Sys2Proof.Machine.execVmulhiB32Imm x t
  | .vminI32Imm x => Sys2Proof.Machine.execVminI32Imm x t
  | .vmaxI32Imm x => Sys2Proof.Machine.execVmaxI32Imm x t
  | .vminB32Imm x => Sys2Proof.Machine.execVminB32Imm x t
  | .vmaxB32Imm x => Sys2Proof.Machine.execVmaxB32Imm x t
  | .vandB32Imm x => Sys2Proof.Machine.execVandB32Imm x t
  | .vorB32Imm x => Sys2Proof.Machine.execVorB32Imm x t
  | .vxorB32Imm x => Sys2Proof.Machine.execVxorB32Imm x t
  | .vandnB32Imm x => Sys2Proof.Machine.execVandnB32Imm x t
  | .vshlB32Imm x => Sys2Proof.Machine.execVshlB32Imm x t
  | .vshrB32Imm x => Sys2Proof.Machine.execVshrB32Imm x t
  | .vshrI32Imm x => Sys2Proof.Machine.execVshrI32Imm x t
  | .vmovB32Imm x => Sys2Proof.Machine.execVmovB32Imm x t
  | .vcmpEqB32 x comb => Sys2Proof.Machine.execVcmpEqB32 x comb t
  | .vcmpNeB32 x comb => Sys2Proof.Machine.execVcmpNeB32 x comb t
  | .vcmpLtI32 x comb => Sys2Proof.Machine.execVcmpLtI32 x comb t
  | .vcmpLeI32 x comb => Sys2Proof.Machine.execVcmpLeI32 x comb t
  | .vcmpGtI32 x comb => Sys2Proof.Machine.execVcmpGtI32 x comb t
  | .vcmpGeI32 x comb => Sys2Proof.Machine.execVcmpGeI32 x comb t
  | .vcmpLtB32 x comb => Sys2Proof.Machine.execVcmpLtB32 x comb t
  | .vcmpLeB32 x comb => Sys2Proof.Machine.execVcmpLeB32 x comb t
  | .vcmpGtB32 x comb => Sys2Proof.Machine.execVcmpGtB32 x comb t
  | .vcmpGeB32 x comb => Sys2Proof.Machine.execVcmpGeB32 x comb t
  | .vaddF32 x => Sys2Proof.Machine.execVaddF32 x t
  | .vsubF32 x => Sys2Proof.Machine.execVsubF32 x t
  | .vmulF32 x => Sys2Proof.Machine.execVmulF32 x t
  | .vfmaF32 x => Sys2Proof.Machine.execVfmaF32 x t
  | .vaddF32Imm x => Sys2Proof.Machine.execVaddF32Imm x t
  | .vsubF32Imm x => Sys2Proof.Machine.execVsubF32Imm x t
  | .vmulF32Imm x => Sys2Proof.Machine.execVmulF32Imm x t
  | .vsubrF32 x => Sys2Proof.Machine.execVsubrF32 x t
  | .vfcmpEqF32 x comb => Sys2Proof.Machine.execVfcmpEqF32 x comb t
  | .vfcmpNeF32 x comb => Sys2Proof.Machine.execVfcmpNeF32 x comb t
  | .vfcmpLtF32 x comb => Sys2Proof.Machine.execVfcmpLtF32 x comb t
  | .vfcmpLeF32 x comb => Sys2Proof.Machine.execVfcmpLeF32 x comb t
  | .vfcmpGtF32 x comb => Sys2Proof.Machine.execVfcmpGtF32 x comb t
  | .vfcmpGeF32 x comb => Sys2Proof.Machine.execVfcmpGeF32 x comb t
  | .vfcmpUnF32 x comb => Sys2Proof.Machine.execVfcmpUnF32 x comb t
  | .vfcmpOrdF32 x comb => Sys2Proof.Machine.execVfcmpOrdF32 x comb t
  | .vminF32 x => Sys2Proof.Machine.execVminF32 x t
  | .vmaxF32 x => Sys2Proof.Machine.execVmaxF32 x t
  | _ => .next t

/-- The memory form of a region's memory instruction and the kind of its access. -/
def regionMem (i : Instr) : Option (MemF × AccKind) :=
  match i with
  | .ldG x _ => some (x, .load)
  | .stG x => some (x, .store)
  | .atomAddI32 x _ => some (x, .atomic)
  | .atomAddB64 x _ => some (x, .atomic)
  | .atomMinI32 x _ => some (x, .atomic)
  | .atomMaxI32 x _ => some (x, .atomic)
  | .atomMinB32 x _ => some (x, .atomic)
  | .atomMaxB32 x _ => some (x, .atomic)
  | .atomAndB32 x _ => some (x, .atomic)
  | .atomOrB32 x _ => some (x, .atomic)
  | .atomXorB32 x _ => some (x, .atomic)
  | .atomExchB32 x _ => some (x, .atomic)
  | .atomExchB64 x _ => some (x, .atomic)
  | .atomCasB32 x _ => some (x, .atomic)
  | .atomCasB64 x _ => some (x, .atomic)
  | .atomAddF32 x _ => some (x, .atomic)
  | .atomIncB32 x _ => some (x, .atomic)
  | .atomDecB32 x _ => some (x, .atomic)
  | _ => none

/-- A region's run: the private state, the home line's bytes, its sectors stored to and those no longer poisoned, and how it
ended. -/
structure Run where
  t : State
  line : List Byte
  wrote : List Nat
  clear : List Nat
  bad : Option PacketBad

/-- A run about to begin. -/
def Run.start (g : Group) (line : List Byte) : Run := { t := sandbox g, line := line, wrote := [], clear := [], bad := none }

/-- Put bytes into the line. -/
def putLine (line : List Byte) (off : Nat) : List Byte → List Byte
  | [] => line
  | b :: bs => putLine (line.set off b) (off + 1) bs

def getLine (line : List Byte) (off n : Nat) : List Byte := (line.drop off).take n

/-- The permission failure of the lowest lane that has one: R106, then R120's restriction of the host window (R173, R179). -/
def Packet.permBad (p : Packet) (k : AccKind) (fn : Nat) : List Lane → Option Cause
  | [] => none
  | L :: Ls =>
    match permCheck k ((tget? p.pages L).getD (0, 0#64)).2 with
    | some c => some c
    | none => if k == .atomic && isHost (p.line * 128) && !hostAtom fn then some .atomicKind else p.permBad k fn Ls

/-- Why an access of the region fails: R93, then SINK_SPAN, then R106 and poison (R179); the record's address is that of the packet's
lowest lane, and R267 gives R93's causes and SINK_SPAN none. The lane's home line is the virtual line of its first load: an access through another virtual address of the same
physical line is outside it. DEDUCED (log 74), unsafe. -/
def Packet.accessBad (p : Packet) (poison : List Nat) (fn : Nat) (x : MemF) (k : AccKind) (E : Lanes) (t : State) :
    Option PacketBad :=
  let va (L : Lane) : Nat := t.va x L
  let Ls := lanesOf E
  match globalTrap x E t with
  | some r => some { cause := r.cause, va := 0, trap := true }
  | none =>
    if Ls.any fun L => va L / 128 != ((tget? p.pages L).getD (0, 0#64)).1 then some { cause := .sinkSpan, va := 0, trap := true }
    else
      let at' := va ((lanesOf p.lanes).headD 0)
      match p.permBad k fn Ls with
      | some c => some { cause := c, va := at', trap := false }
      | none =>
        if k != .store && Ls.any fun L => poison.contains (va L % 128 / 64) then some { cause := .poison, va := at', trap := false }
        else none

/-- Atomics of lanes in ascending order on the line; the old bytes of each (R119). -/
def lineAtoms (fn : Nat) (sz : Size) : List (Lane × Nat × DWord × DWord) → List Byte → List (Lane × List Byte) × List Byte
  | [], line => ([], line)
  | (L, off, x, t) :: rest, line =>
    let old := getLine line off (sizeBytes sz)
    let q := lineAtoms fn sz rest (putLine line off (atomBytes fn sz old x t))
    ((L, old) :: q.1, q.2)

/-- One memory instruction of the region, for the lanes of a pass. -/
def Packet.access (p : Packet) (poison : List Nat) (w : IWord) (x : MemF) (k : AccKind) (r : Run) : Run :=
  let t := r.t
  let E := t.execLanes x.guard x.ginv
  let fn := (fld w 80 8).toNat
  match p.accessBad (poison.filter fun q => !r.clear.contains q) fn x k E t with
  | some b => { r with bad := some b }
  | none =>
    let Ls := lanesOf E
    let n := sizeBytes x.size
    let off (L : Lane) : Nat := t.va x L % 128
    match k with
    | .store =>
      let ws : List Write := Ls.map fun L => (off L, t.storeData x.s x.size L)
      { r with line := ws.foldl (fun (l : List Byte) q => putLine l q.1 q.2) r.line,
               wrote := r.wrote ++ ws.map fun q => q.1 / 64, clear := r.clear ++ [0, 1].filter (coversSector ws) }
    | .atomic =>
      let q := lineAtoms fn x.size (Ls.map fun L => (L, off L, t.atomOpd x.s x.size L, t.atomOpd x.t x.size L)) r.line
      { r with t := t.setLanes x.d E fun L => loadWords x.size false ((tget? q.1 L).getD []), line := q.2,
               wrote := r.wrote ++ Ls.map fun L => off L / 64 }
    | _ => { r with t := t.setLanes x.d E fun L => loadWords x.size (w.getLsbD 0) (getLine r.line (off L) n) }

/-- Lanes of the private group on a plane. -/
def State.planeLanes (t : State) (lanes : Lanes) (pl : BitVec 2) : Lanes :=
  lanes &&& maskWhere fun L => (t.grpAt 0).planeOf L == pl

/-- One pass of one region instruction. A mask instruction in a non-uniform slot was judged at the header, by the lowest plane the slot
occupied (R19, R169), and acts on its plane's bits alone: here it runs under the lanes of its plane. -/
def Packet.pass (p : Packet) (poison : List Nat) (lanes : Lanes) (uni : Bool) (pl : BitVec 2) (w : IWord) (r : Run) : Run :=
  if r.bad.isSome then r
  else
    let t := if !uni && fld w 88 8 == 4#8 then r.t.passOf (r.t.planeLanes lanes pl) true pl else r.t.passOf lanes uni pl
    match regionWord w with
    | .error _ => r
    | .ok i =>
      match regionMem i with
      | some (x, k) => p.access poison w x k { r with t := t }
      | none => match regionRun i t with | .next u => { r with t := u } | _ => r

/-- The passes of one slot of the region: one for a uniform slot, otherwise one for each plane of the lanes (R173). -/
def Packet.slotRun (p : Packet) (poison : List Nat) (lanes : Lanes) (uni : Bool) (ws : Sparse 96) (r : Run) : Run :=
  if uni then p.pass poison lanes true 0#2 (sget ws 0) r
  else (r.t.grp.occupied lanes).foldl (fun (r : Run) k => p.pass poison lanes false k (sget ws k.toNat) r) r

/-- Slots of the region, one after another. -/
def Packet.runSlots (p : Packet) (poison : List Nat) (lanes : Lanes) : List (Bool × Sparse 96) → Run → Run
  | [], r => r
  | (u, ws) :: rest, r => p.runSlots poison lanes rest (p.slotRun poison lanes u ws r)

/-- The private group of a packet. -/
def Packet.group (p : Packet) : Group :=
  { Group.blank with v := p.regs, s := p.s, m := p.m, planes := p.planes, laneFlags := p.flags, fpMode := p.fpMode,
                     num := p.num }

/-! ## Levels (R171) -/

/-- Packets whose tag is held at a home slice of this package. -/
def State.tagsAt (s : State) (slice : Nat) : List Packet :=
  (tvals s.packets).filter fun p => p.tag && p.phase == .accepted && s.ownPa (p.line * 128) && homeSlice (p.line * 128) == slice

/-- Whether both sectors of a line are valid in L2, or in its station's cache. -/
def State.l2Whole (s : State) (k : Nat) : Bool := match tget? s.l2 k with | some x => x.valid == 3#2 | none => false
def State.mscWhole (s : State) (k : Nat) : Bool := match tget? s.msc k with | some x => x.valid == 3#2 | none => false

/-- The level a packet runs at (R171): where another package's caches decide, either of the two codes is possible.
DESIGN CHOICE (log 27), unsafe. -/
def State.sinkLevel (s : State) (p : Packet) : BitVec 4 :=
  let pa := p.line * 128
  if p.place then 0#4
  else if !s.ownPa pa then (if (Config.freeValue s.free).getLsbD 0 then 5#4 else 4#4)
  else if 8 ≤ ((s.tagsAt (homeSlice pa)).filter fun q => q.code == 1#4).length then 6#4
  else if s.l2Whole (paOff pa / 128) then 1#4
  else if s.mscWhole (paOff pa / 128) then 2#4
  else 3#4

/-! ## The header (R165, R170, R177) -/

/-- What a region does with a slot's lanes at its first load. -/
structure Sunk where
  lanes : Lanes
  va : Lane → Nat
  acc : Lane → Except Cause Xlat

/-- A lane's landing code goes into LOG and LANDING_LAST (R172). -/
def Group.landCode (g : Group) (log : BitVec 8) (code : BitVec 4) (Ls : List Lane) : Group :=
  let g := { g with landing := sputMany g.landing (fun _ => code) Ls }
  if log.toNat < 192 then { g with v := sputMany g.v (fun _ => code.setWidth 32) (Ls.map fun L => log.toNat * 32 + L) } else g

/-- The packet of the lanes of a home line. Where its lanes reach the line through pages of different KIND or SK (R109), the lowest
lane's page decides the level and the order. DEDUCED (log 74), unsafe. -/
def State.mkPacket (s : State) (x : SinkF) (slots : List RegionSlot) (first : Nat) (t : State) (G : Lanes) (va : Lane → Nat)
    (xl : Lane → Xlat) (ro : Bool) (line : Nat) : Packet :=
  let g := s.grp
  let ls := (lanesOf G).filter fun L => (xl L).pa / 128 == line
  let x0 := xl (ls.headD 0)
  let host := isHost (line * 128)
  let inl1 := ro && x0.kind == 2 && s.core.l1Has (line * 128) && s.core.l1Has (line * 128 + 64)
  let place := x.inplace || x0.kind == 1 || !x0.sk || host
  { gid := s.gid, core := g.core, tagKey := g.tagKey, gtag := g.gtag, ctx := g.ctx, launch := g.launch,
    offset := s.slot.offset, hdr := x, words := slots.map fun r => r.words.foldl (fun (m : Sparse 96) w => sput m w.1 w.2) [],
    unis := slots.map RegionSlot.uni, first := first, lanes := maskWhere fun L => ls.contains L, line := line,
    pages := ls.map fun L => (L, va L / 128, ((leafOf s (some g.core) g.ctx (va L)).map Prod.fst).getD 0#64),
    place := place || inl1 || (x.loc && paPkg (line * 128) != s.pkgId), fromL1 := !place && inl1,
    tag := !host && (place || !inl1), rc := x0.kind == 0, phase := .formed, code := 0#4, bad := none, fpMode := g.fpMode,
    regs := t.grp.v, s := g.s, m := t.grp.m, planes := g.planes, flags := t.grp.laneFlags, num := g.num, routine := s.slot.inTrap }

/-- A formed packet leaves the core: for its home slice, or where it needs no sink tag to run at once. -/
def State.releasePacket (s : State) (k : Nat) : State :=
  match tget? s.packets k with
  | none => s
  | some p =>
    if p.tag then s.push (.sinkPacketAccept k)
    else { s with packets := tput s.packets k { p with phase := .accepted } }.push (.sinkPacketExecute k)

/-- A packet leaves the core; the slot waits for it. -/
def State.sendPacket (s : State) (p : Packet) : State :=
  let k := s.next
  let t : State := { s with packets := tput s.packets k p, next := s.next + 1 }
  (t.setSlot { t.slot with pending := t.slot.pending ++ [k], waitUni := t.uni }).releasePacket k

/-- Whether a packet stands behind instructions of its slot that are not complete: it stays in the core until they are (R125, R177). -/
def State.heldAhead (s : State) (k : Nat) : Bool :=
  s.ahead.any fun p => p.2.queue.any fun q => (q.2.slot p.2.sel).pending.contains k

/-- Lanes of the region that have landed already, while the slot stands at its header. -/
def State.landedHere (s : State) : Lanes := s.slot.landedAt s.slot.offset

/-- R164 to R170, R176, R177, R181 -/
def execSink (x : SinkF) (s : State) : Host.Outcome State Fault Refusal :=
  issue false (sinkForm x) (fun s =>
    let fail (c : Cause) : Issue := .trap { cause := c, mask := s.slot.mask }
    match s.region x with
    | .trap c => fail c
    | .fault c va => .stay (s.slotFault c va .fetch)
    | .ok slots first =>
      let E := s.passLanes &&& ~~~ s.landedHere
      let g := s.grp
      let words := slots.map fun r => (r.uni, r.words.foldl (fun (m : Sparse 96) w => sput m w.1 w.2) [])
      let p0 : Packet :=
        { s.mkPacket x slots first s 0#32 (fun _ => 0) (fun _ => ⟨0, 0, false⟩) false 0 with
          regs := g.v.filter fun e => (sinkSet x).contains (e.1 / 32), m := g.m, flags := [] }
      let pre := p0.runSlots [] E (words.take first) (Run.start p0.group [])
      let t := pre.t.passOf E true 0#2
      match regionWord (sget ((words[first]?).getD (true, [])).2 0) with
      | .error c => fail c
      | .ok i =>
        match regionMem i with
        | none => fail .sinkIllegal
        | some (y, _) =>
          let va (L : Lane) : Nat := t.va y L
          let vas := (lanesOf E).map va
          let ro := slots.all fun r => r.words.all fun w => !isMem w.2 || fld w.2 88 8 == 0x70#8
          match globalTrap y E t with
          | some r => .trap r
          | none =>
            if !s.lnc.lineOk (lineOf (regionEnd x s.slot.offset)) then fail .fetchRange
            else
              match s.awaitWalks vas with
              | some u => .stay u
              | none =>
                let acc (L : Lane) : Except Cause Xlat := s.xlate (va L) .load
                let xl (L : Lane) : Xlat := match acc L with | .ok r => r | .error _ => ⟨0, 0, false⟩
                let F := faultLanes s E va acc
                let G := E &&& ~~~ F
                let lines := (lanesOf G).foldl (fun l L => insertNat ((xl L).pa / 128) l) []
                let spans := (lanesOf G).map fun L => (va L / 128 * 128, 128)
                if s.jobHazard (!ro) spans || s.nearHazard (lines.map fun l => (l * 128, 128)) then .stay s
                else
                  let s1 := s.endWalks vas
                  let f := faultOf F va acc
                  let seven (u : State) : State := u.setGrp (u.grp.landCode x.log 7#4 (lanesOf F))
                  if F ≠ 0#32 ∧ s.canPark = false then
                    .stay ((seven s1).laneFaultAt (seven s1) 0#2 F f.1 f.2 .instr 0#4 false)
                  else
                    let ps := lines.map fun l => s1.mkPacket x slots first t G va xl ro l
                    let pay := s1.pay (ps.map fun p => s.cost p.line (p.line * 128) (if p.tag then 2 else 0))
                    if pay.1 = false then .stay pay.2
                    else
                      let u := if (lanesOf G).any fun L => (xl L).kind != 2 then pay.2.drainAll
                               else pay.2.drainFor s.grp.core (lines.map fun l => (l * 128, 128))
                      let u := ps.foldl State.sendPacket u
                      if F = 0#32 then .stay u
                      else .stay ((seven s1).laneFaultAt (seven u) 0#2 F f.1 f.2 .instr 0#4 false)) s

/-! ## Packets on their way -/

/-- Whether a packet's line lies in another package or in the host window: what happens there is not this state's. -/
def State.farPacket (s : State) (p : Packet) : Bool := !p.fromL1 && !s.ownPa (p.line * 128)

/-- The home slice accepts a packet: it takes a sink tag on its line, after the stores that have retired to it, unless another
packet, or a near command that has started, holds the line, or the slice's 64 tags are in use; then it waits, behind what arrived
before it. A packet that finds one sector of its line in L2 has it written back and dropped, and runs below (R171, R174, R241). A
packet for another package is accepted there. R171 does not say whether the sector that is written back counts for the hit below, nor that
a hit there takes both sectors: here the memory-side cache is judged as it stands before, by both. DESIGN CHOICE (log 27), unsafe. -/
def execSinkPacketAccept (k : Nat) (s : State) : Host.Outcome State Fault Refusal :=
  let e := Instr.sinkPacketAccept k
  match tget? s.packets k with
  | none => .next (s.unhold e)
  | some p =>
    let own := s.ownPa (p.line * 128)
    let span := [(p.line * 128, 128)]
    if p.phase ≠ .formed then .next (s.unhold e)
    else if s.heldAhead k then .next s
    else if own && (s.lineHeld span || 64 ≤ (s.tagsAt (homeSlice (p.line * 128))).length) then .next (s.holdOnce e)
    else
      let s := s.unhold e
      let s := if own && s.stores.any fun q => meets q.2.spans span then s.drainAll else s
      let c := s.sinkLevel p
      let s : State := if own then s else { s with free := s.free + 1 }
      let s := if c = 2#4 ∨ c = 3#4 then s.l2Drop (paOff (p.line * 128) / 128) else s
      .next ({ s with packets := tput s.packets k { p with phase := .accepted, code := c } }.push (.sinkPacketExecute k))

/-- The line a packet runs on and its poisoned sectors: L1's copies, or this package's memory (R103, R171). -/
def State.sinkLine (s : State) (p : Packet) : List Byte × List Nat :=
  let pa := p.line * 128
  let copy (i : Nat) : Option Copy := if p.fromL1 then tget? (s.coreAt p.core).l1 (pa / 64 + i) else none
  let bytes (i : Nat) : List Byte := s.loadBytes (copy i) (pa + 64 * i) 64
  (bytes 0 ++ bytes 1, [0, 1].filter fun i => poisonOf s p.core (copy i) (pa + 64 * i))

/-- Sectors of a line as its two bits. -/
def lineBits (secs : List Nat) : BitVec 2 := (if secs.contains 0 then 1#2 else 0#2) ||| (if secs.contains 1 then 2#2 else 0#2)

/-- A packet runs at a station: of this package, or for another package (R171). -/
def Packet.below (p : Packet) : Bool := p.code == 2#4 || p.code == 3#4 || p.code == 5#4

/-- What a packet leaves in the caches, with the sectors it wrote and those of them poisoned no more (R103, R171, R175): at the slice, bounced or in place the line is valid in L2 and what it wrote is
dirty; from a station the updated sectors are in the memory-side cache and the line is clean and valid in L2. -/
def State.sinkCaches (s : State) (p : Packet) (wrote clear : List Nat) : State :=
  let k := paOff (p.line * 128) / 128
  let b := lineBits wrote
  let c := lineBits clear
  if p.below then
    let t := s.mscPut k 3#2 0#2 0#2
    (t.mscPut k b b ((t.mscAt k).bad &&& ~~~ c)).l2Use k 3#2 0#2 0#2
  else s.l2Use k 3#2 c b

/-- Whether a region only loads (R171). -/
def Packet.readOnly (p : Packet) : Bool :=
  p.words.all fun ws => ws.all fun w => !isMem w.2 || fld w.2 88 8 == 0x70#8

/-- What a completed run leaves at the home line: its bytes, its poison, and what the caches hold. -/
def State.sinkHome (s : State) (p : Packet) (r : Run) : State :=
  if p.readOnly then s.sinkCaches p [] []
  else State.sinkCaches { s with mem := writeBytes s.mem (paOff (p.line * 128)) r.line } p r.wrote r.clear

/-- What a completed run of a packet of this package leaves: the home line, and the issuing core's L1 without its sectors where the
region stores. -/
def State.sinkDone (s : State) (p : Packet) (r : Run) : State :=
  let pa := p.line * 128
  if !s.ownPa pa || p.fromL1 then s
  else
    let t := s.sinkHome p r
    if p.readOnly then t
    else t.setCoreAt p.core (((t.coreAt p.core).l1Drop (pa / 64)).l1Drop (pa / 64 + 1))

/-- The packet's run from its first load on, over a line with some sectors poisoned. -/
def Packet.runOn (p : Packet) (line : List Byte) (poison : List Nat) : Run :=
  p.runSlots poison p.lanes ((p.unis.zip p.words).drop p.first) (Run.start p.group line)

/-- Address of the packet's lowest lane at its first load. -/
def Packet.firstVa (p : Packet) : Nat :=
  match regionWord (sget (p.words.getD p.first []) 0) with
  | .ok i =>
    match regionMem i with
    | some (y, _) => ((sandbox p.group).passOf p.lanes true 0#2).va y ((lanesOf p.lanes).headD 0)
    | none => 0
  | .error _ => 0

/-- A packet has run: a fault discards the whole of it, its tag is released, an EVICT that waits for its line goes on, and what
waits for the line tries again (R112, R173, R176, R179). -/
def State.sinkEnd (s : State) (k : Nat) (p : Packet) (r : Run) : State :=
  let q : Packet := { p with phase := .executed, bad := r.bad.map fun b => { b with time := s.timebase }, regs := r.t.grp.v, flags := r.t.grp.laneFlags }
  let t := if r.bad.isNone then s.sinkDone p r else s
  let t : State := { t with packets := tput t.packets k q }
  let t := if p.tag && s.ownPa (p.line * 128) then t.evictLine (paOff (p.line * 128) / 128) else t
  t.kickPackets.push (.sinkPacketLand k)

/-- The region runs as one indivisible step at the home line (R173, R176). -/
def execSinkPacketExecute (k : Nat) (s : State) : Host.Outcome State Fault Refusal :=
  match tget? s.packets k with
  | none => .next s
  | some p =>
    if p.phase ≠ .accepted || s.farPacket p then .next s
    else
      let l := s.sinkLine p
      .next (s.sinkEnd k p (p.runOn l.1 l.2))

/-- A packet whose line is another package's or the host's returns: it has run on the bytes and poisoned sectors that its home
gave, or its lanes fault (R294 to R296). -/
def State.sinkFar (s : State) (k : Nat) (p : Packet) (r : Except Cause (List Byte × List Nat)) : State :=
  if p.phase ≠ .accepted || !s.farPacket p then s
  else
    s.sinkEnd k p (match r with
      | .ok l => p.runOn ((List.range 128).map fun i => l.1.getD i 0#8) l.2
      | .error c => { Run.start p.group [] with bad := some { cause := c, va := p.firstVa, trap := false } })

/-! ## Landing (R172, R175, R179) -/

/-- The lanes' results reach the group: live-outs, landing codes and events. -/
def Group.land (g : Group) (p : Packet) : Group :=
  let Ls := lanesOf p.lanes
  let g := g.landCode p.hdr.log (if p.bad.isSome then 7#4 else p.code) Ls
  if p.bad.isSome then g
  else
    let keys := (sinkOuts p.hdr).flatMap fun c => Ls.map fun L => c.toNat * 32 + L
    { g with v := sputMany g.v (sget p.regs) keys,
             laneFlags := sputMany g.laneFlags (fun L => sget g.laneFlags L ||| sget p.flags L) Ls }

/-- A trap of a packet: its lanes are placed at the header as a fault's are, and their slot enters the trap routine at once
(R179). -/
def State.sinkTrap (s : State) (p : Packet) (b : PacketBad) : State :=
  let t : Trap := { cause := b.cause, mask := p.lanes, va := b.va, src := .sink, offset := some p.offset, level := p.code,
                    time := some b.time }
  if s.canPark then
    let o := otherSlot s.sel
    let g := s.grp.park s.sel p.lanes 0#2
    let g := g.setSlot o { g.slot o with parked := false }
    let g := if (g.slot s.sel).mask = 0#32 then g.afterEmpty s.sel else g
    (s.setGrp g).raiseAt s.gid (if (g.slot o).live then o else s.sel) t
  else s.raiseAt s.gid s.sel t

/-- Once every packet of the region has landed the slot goes on after it; lanes that have not landed replay the header.
DEDUCED (log 26), safe. -/
def State.afterLanding (s : State) (p : Packet) : State :=
  let sl := s.slot
  if !sl.live || !sl.pending.isEmpty || sl.stopped || sl.parked || sl.inTrap != p.routine || sl.trap.isSome || sl.offset ≠ p.offset then s
  else if s.passLanes &&& ~~~ s.landedHere = 0#32 then
    (s.setSlot { sl with landed := sl.landed.filter fun q => q.1 != p.routine || q.2.1 != p.offset }).moveTo (regionEnd p.hdr p.offset)
  else s

/-- The registers that a landing packet writes: its live-outs where it completes, and LOG (R172). -/
def Packet.landRegs (p : Packet) : List Nat :=
  (((if p.bad.isNone then sinkOuts p.hdr else []) ++ [p.hdr.log]).map BitVec.toNat).filter fun n => n < 192

/-- A slot that is stopped already, has left for its trap routine or waits for it takes no second record or trap of a region: its lanes have
landing code 7 and replay the header in any case (R179, R270). DEDUCED (log 26), safe. -/
def Slot.cannotFault (t : Slot) (routine : Bool) : Bool := t.stopped || t.inTrap != routine || t.trap.isSome

/-- A packet's results land; with a tag that is no longer current they are dropped and counted (R45, R175). -/
def execSinkPacketLand (k : Nat) (s : State) : Host.Outcome State Fault Refusal :=
  match tget? s.packets k with
  | none => .next s
  | some p =>
    if p.phase ≠ .executed then .next s
    else
      let s : State := { s with packets := tdel s.packets k }
      let g := s.grpAt p.gid
      if (tget? s.groups p.gid).isNone || sget (s.coreAt p.core).tags p.tagKey != p.gtag
          || !(g.a.pending.contains k || g.b.pending.contains k) then
        let c := s.coreAt p.core
        .next ((s.setCoreAt p.core { c with staleReturn := c.staleReturn + 1#32 }).launchDone p.launch)
      else
        let sel : SlotId := if g.a.pending.contains k then .A else .B
        let s : State := { s with gid := p.gid, sel := sel, uni := (g.slot sel).waitUni }
        let s := (s.setGrp (s.grp.land p)).wakeEntries s.grp p.landRegs
        let s := s.setSlot { s.slot with pending := s.slot.pending.filter fun j => j != k }
        let s := if p.rc then s.acquire .pkg else s
        match p.bad with
        | none =>
          .next ((s.setSlot { s.slot with landed := s.slot.landed ++ [(p.routine, p.offset, p.lanes)] }).afterLanding p)
        | some b =>
          let t := if s.slot.cannotFault p.routine then s
            else if b.trap then s.sinkTrap p b else s.laneFaultAt s 0#2 p.lanes b.cause b.va .sink p.code false (some b.time)
          .next (t.afterLanding p)

/-! ## Responses of other packages and of the host (R294 to R296) -/

/-- A response by its number: a request's lanes take theirs, a packet runs on the line that came, or faults. -/
def State.arriveAt (s : State) (k : Nat) (req : Out → Option (List LaneResp)) (pkt : Packet → Option (Except Cause (List Byte × List Nat))) :
    State :=
  match tget? s.outs k, tget? s.packets k with
  | some o, _ => match req o with | some r => s.respond k o r | none => s
  | none, some p => match pkt p with | some r => s.sinkFar k p r | none => s
  | none, none => s

/-- Whether a packet's line lies in the host window. -/
def Packet.host (p : Packet) : Bool := isHost (p.line * 128)

/-- Data of a load, an atomic or a packet returns (R45): from this package, or from another one with what its home answers
(R296). -/
def execLoadReturn (k : Nat) (resp : Resp) (s : State) : Host.Outcome State Fault Refusal :=
  .next (s.arriveAt k
    (fun o =>
      if o.host then none
      else if s.homeReq o then (if s.outHeld o then none else some (s.homeResp o))
      else
        match resp with
        | .data bs poisoned =>
          some (((o.split bs).zip o.lanes).map fun p => if poisoned.contains p.2.lane then .error .poison else .ok p.1)
        | .paRange => some (o.lanes.map fun _ => .error .paRange))
    fun p =>
      if p.host then none
      else match resp with
        | .data bs poisoned => some (.ok (bs, poisoned))
        | .paRange => some (.error .paRange))

/-- The completion of a host-window access (R294). -/
def execHostAccessCompletion (k : Nat) (status : CplStatus) (data : List Byte) (s : State) :
    Host.Outcome State Fault Refusal :=
  .next (s.arriveAt k
    (fun o =>
      if !o.host then none
      else match status with
        | .successful => some ((o.split data).map .ok)
        | .unsupported => some (o.lanes.map fun _ => .error .paRange)
        | .completerAbort => some (o.lanes.map fun _ => .error .paRange))
    fun p =>
      if !p.host then none
      else match status with
        | .successful => some (.ok (data, []))
        | .unsupported => some (.error .paRange)
        | .completerAbort => some (.error .paRange))

/-- No completion within 50 ms (R294). -/
def execHostAccessTimeout (k : Nat) (s : State) : Host.Outcome State Fault Refusal :=
  .next (s.arriveAt k (fun o => if o.host then some (o.lanes.map fun _ => .error .fabricTimeout) else none)
    fun p => if p.host then some (.error .fabricTimeout) else none)

/-- No response within 200 µs (R295). -/
def execFabricTimeout (k : Nat) (s : State) : Host.Outcome State Fault Refusal :=
  .next (s.arriveAt k
    (fun o => if o.host || s.homeReq o then none else some (o.lanes.map fun _ => .error .fabricTimeout))
    fun p => if p.host then none else some (.error .fabricTimeout))

end Sys2Proof.Machine
end

