-- ==== Sys2Proof/Machine/Ahead.lean ====
section
/-! DEFINITION. What a slot issues beyond a SINK header while the header's packets are outstanding (R177): the scoreboard of live-outs
and LOG, the LSU queue, the further header, and what R125 discards. -/

namespace Sys2Proof.Machine

/-! ## The entries a word touches -/

/-- The register entries, numbered as R46 numbers them, that an operand of an instruction touches: v codes name the group's own, vx
codes those of each lane's index. -/
def Group.touches (g : Group) (lanes : Lanes) (p : OpSpec × Opd) : List Nat :=
  if !regPos p.1.cls then []
  else
    match p.2 with
    | .v n => if p.1.cls == .tileIx && n.val == 0 then [] else (List.range p.1.w).map fun j => n.val + j
    | .vx k => (lanesOf lanes).flatMap fun L => (List.range p.1.w).map fun j => g.vxEntry k L + j
    | _ => []

/-- The registers an FBP saves, by its word (R195). -/
def fbpTouches (w : IWord) (f : Form) : List Nat :=
  if fld w 88 8 == 0x92#8 && fld w 80 8 == 0#8 then f.opds.flatMap fun p => fbpRegs p.2 (fld w 20 8) else []

/-- The class of a word by its major (R36): the lanes a trap of its encoding carries follow from it (R265). -/
def wordClass (w : IWord) : IClass :=
  let m := (fld w 88 8).toNat
  if (0x20 ≤ m && m ≤ 0x24) || (0x40 ≤ m && m ≤ 0x45) || m == 0x47 || (0x70 ≤ m && m ≤ 0x74) || m == 0x76 then .V else .S

/-- Whether a word may pass parked lanes: class V, NOP, the uniform branches (R21). -/
def aheadWord (w : IWord) : Bool :=
  let fn := (fld w 80 8).toNat
  wordClass w == .V || w == 0#96 || (fld w 88 8 == 5#8 && (fn ≤ 5 || fn == 8))

/-! ## What may issue (R177) -/

/-- What a word may do while a region of its slot is outstanding: nothing, act on its slot's own registers, enter the LSU queue, or be
the further header. -/
inductive AheadKind where
  | stop | own | memory | sink
  deriving DecidableEq, Repr

/-- Whether a control register can be read, or written, ahead of a region: its events and landing codes come before (R172, R177). -/
def aheadCsr (write : Bool) (c : Csr) : Bool :=
  if write then c == .trapEn || c == .fpMode else c != .laneFlags && c != .landingLast

/-- The kind of a word by its major (R36). A barrier and an engine instruction stop the slot (R177); so do a fence, a JOIN, an EXIT, a
TRAP and whatever else acts beyond the slot's registers. DESIGN CHOICE (log 90), safe. -/
def aheadKind (w : IWord) : AheadKind :=
  let fn := (fld w 80 8).toNat
  let m := (fld w 88 8).toNat
  if m ≤ 0x06 || (0x20 ≤ m && m ≤ 0x26) || (0x40 ≤ m && m ≤ 0x47) || (0x91 ≤ m && m ≤ 0x93) then .own
  else if (0x70 ≤ m && m ≤ 0x74) || m == 0x76 then .memory
  else if m == 0x90 then .sink
  else if m == 0xE0 then (match csrOf (fld w 48 12) with | some c => if aheadCsr (fn == 1) c then .own else .stop | none => .stop)
  else .stop

/-- The slot is neither held, parked nor stopped, waits at no JOIN or stack entry, and has no trap or deferred cause to take. -/
def Group.goesOn (g : Group) (sel : SlotId) : Bool :=
  let t := g.slot sel
  !g.halted && t.live && !t.parked && !t.stopped && t.trap.isNone && t.deferred.isEmpty && !t.atJoin && !t.joinRead && !t.atBkpt

/-- A group with what another one has of a slot alone: the slot, and the registers, index registers, events and landing codes of its
lanes. -/
def Group.ownPart (g x : Group) (sel : SlotId) : Group :=
  let m := (g.slot sel).mask
  { g.setSlot sel (x.slot sel) with
    v := laneMerge g.v x.v m, annex := laneMerge g.annex x.annex m, xindex := laneMerge g.xindex x.xindex m,
    laneFlags := laneMerge g.laneFlags x.laneFlags m, landing := laneMerge g.landing x.landing m }

/-- Whether a slot can go on ahead from the group `g` to `x`: it keeps its lanes and stays in or out of the trap routine, and `x` differs in
what is the slot's alone or, where the other slot is free, in registers of the group. What reaches a live other slot is made at the header.
DESIGN CHOICE (log 90), safe. -/
def Group.apart (g x : Group) (sel : SlotId) : Bool :=
  let t := x.slot sel
  let o := otherSlot sel
  x.goesOn sel && t.inTrap == (g.slot sel).inTrap && t.mask == (g.slot sel).mask
    && (if (g.slot o).live then g.ownPart x sel == x else !(x.slot o).live && x.stack == g.stack)

/-- The key of a slot in the table of what slots have issued ahead. -/
def aheadKey (gid : Nat) (sel : SlotId) : Nat := 2 * gid + (if sel = .A then 0 else 1)

/-- A header that a slot has issued, all of whose packets still outstanding stand in the table: nothing is issued beyond it yet. -/
def State.aheadOpen (s : State) (gid : Nat) (sel : SlotId) : Option Ahead :=
  let g := s.grpAt gid
  let t := g.slot sel
  match (t.pending.head?).bind fun k => tget? s.packets k with
  | none => none
  | some p =>
    let mine (k : Nat) : Bool := match tget? s.packets k with | some q => q.gid == gid && q.offset == t.offset | none => false
    let ins : Issued := { off := p.offset, next := regionEnd p.hdr p.offset, sink := true, fbp := false,
                          dests := ((sinkOuts p.hdr ++ [p.hdr.log]).map BitVec.toNat).filter fun n => n < 192 }
    let u : State := { s with gid := gid, sel := sel }
    let tip := ((u.setSlot { t with pending := [], landed := [] }).moveTo ins.next).grp
    if t.pending.all mine && p.routine == t.inTrap && g.apart tip sel then some { sel := sel, head := ins, queue := [], tip := tip }
    else none

/-- What a slot has issued beyond a header that is outstanding. -/
def State.aheadAt (s : State) (gid : Nat) (sel : SlotId) : Option Ahead :=
  (tget? s.ahead (aheadKey gid sel)).orElse fun _ => s.aheadOpen gid sel

/-- The instructions that are not complete, the oldest first. -/
def Ahead.issued (a : Ahead) : List Issued := a.head :: a.queue.map Prod.fst

/-- The entries whose values are still to come (R41). -/
def Ahead.scored (a : Ahead) : List Nat := a.issued.flatMap Issued.dests

/-- The state as the next instruction beyond the header finds it. -/
def State.aheadView (s : State) (gid : Nat) (a : Ahead) : State := { s.setGrpAt gid a.tip with gid := gid, sel := a.sel }

/-- A word that can issue ahead: what it may do, the state it finds, and its form. -/
structure AheadWord where
  kind : AheadKind
  w : IWord
  u : State
  f : Form
  a : Ahead

/-- The entries an instruction writes that enters the LSU queue; none stands for a vx destination. -/
def Form.loads (f : Form) (g : Group) : List Nat := match f.opds with | d :: _ => g.touches f.lanes d | [] => []
def Form.vxDest (f : Form) : Bool := match f.opds with | (_, .vx _) :: _ => true | _ => false

/-- Whether the walk of a fetch at the slot's offset waits at a home slice (R110, R241). -/
def State.fetchHeld (s : State) : Bool :=
  let line := lineOf s.slot.offset
  s.walkHeld (some s.grp.core) s.grp.ctx ((s.grp.occupied s.slot.mask).map fun p => s.lnc.lineVa p.toNat line)

/-- The next instruction beyond the header, where it can issue: it reads and writes no entry that is still to come, the LSU queue, of
8, has room for it, and it is no third header (R177). -/
def State.aheadNext (s : State) (gid : Nat) (sel : SlotId) : Option AheadWord :=
  match s.aheadAt gid sel with
  | none => none
  | some a =>
    let v := s.aheadView gid a
    match v.fetch with
    | .word w uni =>
      let u : State := { v with uni := uni }
      match formOf w u with
      | .error _ => none
      | .ok f =>
        let regs := f.opds.flatMap (u.grp.touches f.lanes) ++ fbpTouches w f
        let onePass := uni || (u.grp.occupied u.slot.mask).length ≤ 1
        let lsu := (a.issued.filter fun i => !i.sink).length
        let sinks := (a.issued.filter fun i => i.sink).length
        let can :=
          match aheadKind w with
          | .stop => false
          | .own => true
          | .memory => onePass && lsu < 8 && !f.vxDest
          | .sink => onePass && sinks < 2
        if !u.awake || u.fetchHeld || !can || u.heldBack (aheadWord w) || (f.check u).isSome || u.fallsOut
            || regs.any fun n => a.scored.contains n then none
        else some ⟨aheadKind w, w, u, f, a⟩
    | _ => none

/-- A change of what a slot has issued ahead. -/
def State.putAhead (s : State) (gid : Nat) (a : Ahead) : State := { s with ahead := tput s.ahead (aheadKey gid a.sel) a }

/-- An instruction joins the queue with the group as it stands at it, and the slot goes on after it. -/
def State.aheadJoin (s : State) (gid : Nat) (x : AheadWord) (ins : Issued) (g : Group) : State :=
  let tip := (x.u.moveTo ins.next).grp
  if x.u.lnc.lineOk (lineOf ins.next) && (s.grpAt gid).apart tip x.a.sel then
    s.putAhead gid { x.a with queue := x.a.queue ++ [(ins, g)], tip := tip }
  else s

/-- A further header issues, in the state `u` that it finds: its packets are formed and stay in the core until what is older is complete;
what they charge and order stands. One that traps, faults or has to wait does not issue ahead, but for the walks that it begins. -/
def State.aheadSink (s u : State) (gid : Nat) (x : AheadWord) (h : SinkF) : State :=
  match execSink h u with
  | .next v =>
    let g := v.grpAt gid
    let t := g.slot x.a.sel
    let off := x.u.slot.offset
    let bare := g.setSlot x.a.sel { t with pending := [] }
    if t.pending.isEmpty then if s.walks.length < v.walks.length then { s with walks := v.walks, next := v.next } else s
    else if (tget? v.groups gid).isNone || t.offset != off || !(s.grpAt gid).apart bare x.a.sel then s
    else
      let ins : Issued := { off := off, next := regionEnd h off, sink := true, fbp := false,
                            dests := ((sinkOuts h ++ [h.log]).map BitVec.toNat).filter fun n => n < 192 }
      let kept : State :=
        { v with groups := tput v.groups gid (s.grpAt gid), gid := s.gid, sel := s.sel, uni := s.uni,
                 packets := tmap v.packets fun k (p : Packet) => if t.pending.contains k then { p with phase := .formed } else p }
      let w := kept.aheadJoin gid x ins g
      if w = kept then s else w
  | _ => s

/-- A memory instruction enters the LSU queue, or a further header issues; the slot goes on (R177). -/
def State.aheadQueue (s u : State) (gid : Nat) (x : AheadWord) : State :=
  match x.kind, decSink id x.w with
  | .sink, .ok h => s.aheadSink u gid x h
  | _, _ =>
    let off := x.u.slot.offset
    s.aheadJoin gid x { off := off, next := nextOffset off, sink := false, fbp := false, dests := x.f.loads x.u.grp } x.a.tip

/-- An FBP has issued after the youngest instruction that is not complete (R180). -/
def Ahead.markFbp (a : Ahead) : Ahead :=
  match a.queue.getLast? with
  | none => { a with head := { a.head with fbp := true } }
  | some (i, g) => { a with queue := a.queue.dropLast ++ [({ i with fbp := true }, g)] }

/-- What an instruction that acted on its slot's registers alone leaves: the group stands where it stood, and `tip` is the group it has
left. One that traps, waits, or reaches the other slot or the stack, does not issue ahead. -/
def State.aheadKeep (s : State) (gid : Nat) (x : AheadWord) (v : State) : State :=
  let g := v.grpAt gid
  if (tget? v.groups gid).isNone || !(g.slot x.a.sel).pending.isEmpty || !(s.grpAt gid).apart g x.a.sel || g == x.a.tip then s
  else
    let a := if fld x.w 88 8 == 0x92#8 then x.a.markFbp else x.a
    State.putAhead { v with groups := tput v.groups gid (s.grpAt gid) } gid { a with tip := g }

/-! ## Completion and discard (R125, R177) -/

/-- A group beyond an instruction that has completed takes what that wrote: its entries, its events and landing codes. -/
def Group.takes (x g : Group) (dests : List Nat) : Group :=
  { x with v := sputMany x.v (sget g.v) (dests.flatMap fun e => allLanes.map fun L => e * 32 + L),
           laneFlags := sputMany x.laneFlags (fun L => sget x.laneFlags L ||| sget g.laneFlags L) allLanes, landing := g.landing }

/-- Packets that stand in the core behind older instructions. -/
def Ahead.held (a : Ahead) : List Nat := a.queue.flatMap fun q => (q.2.slot a.sel).pending

/-- The oldest instruction is complete: the group goes on to where the next one of the queue stands, whose packets leave the core, or to
where the slot has come. -/
def State.aheadPass (s : State) (gid : Nat) (a : Ahead) : State :=
  let g := s.grpAt gid
  let fix (x : Group) : Group := x.takes g a.head.dests
  match a.queue with
  | [] => { s.setGrpAt gid (fix a.tip) with ahead := tdel s.ahead (aheadKey gid a.sel) }
  | (i, b) :: rest =>
    let ks := (b.slot a.sel).pending.filter fun k => (tget? s.packets k).isSome
    let b := b.setSlot a.sel { b.slot a.sel with pending := ks }
    ks.foldl State.releasePacket
      ((s.setGrpAt gid (fix b)).putAhead gid { a with head := i, queue := rest.map fun q => (q.1, fix q.2), tip := fix a.tip })

/-- What has been issued ahead is discarded, with the packets it has formed (R125). -/
def State.aheadDrop (s : State) (gid : Nat) (a : Ahead) : State :=
  { s with ahead := tdel s.ahead (aheadKey gid a.sel), packets := s.packets.filter fun p => !a.held.contains p.1 }

/-- What the other slot has done since reaches every group that is kept. -/
def Ahead.over (a : Ahead) (g : Group) : Ahead :=
  if (g.slot (otherSlot a.sel)).live then
    { a with queue := a.queue.map fun q => (q.1, g.ownPart q.2 a.sel), tip := g.ownPart a.tip a.sel }
  else a

/-- What has been issued ahead goes on, or is discarded where an older instruction has faulted, trapped or been held up (R125), or where
the other slot has come or gone. -/
def State.aheadSettle (s : State) (gid : Nat) (a : Ahead) : State :=
  let g := s.grpAt gid
  let t := g.slot a.sel
  let x := a.tip.slot a.sel
  let o := otherSlot a.sel
  if (tget? s.groups gid).isNone || !g.goesOn a.sel || g.gtag != a.tip.gtag || t.inTrap != x.inTrap || t.mask != x.mask
      || (g.slot o).live != (a.tip.slot o).live || g.fusion != a.tip.fusion then s.aheadDrop gid a
  else
    let a := a.over g
    let s := if tget? s.ahead (aheadKey gid a.sel) = some a then s else s.putAhead gid a
    if t.offset == a.head.off then s
    else if t.offset == a.head.next && t.pcur == 0#2 && t.pending.isEmpty && !t.unfinished then s.aheadPass gid a
    else s.aheadDrop gid a

/-- Every slot that has issued ahead. -/
def State.settleAhead (s : State) : State := s.ahead.foldl (fun (t : State) p => t.aheadSettle (p.1 / 2) p.2) s

end Sys2Proof.Machine
end

