-- ==== Sys2Proof/Machine/Near.lean ====
section
/-! DEFINITION. Near commands (R233 to R245): posting and polling, the start of a command at its station, its accesses through the
region table, its completion record, and the region table's own commands. -/

namespace Sys2Proof.Machine

/-! ## Region entries and commands (R235, R238) -/

/-- A region entry. -/
abbrev Rgn := BitVec 256

def Rgn.valid (e : Rgn) : Bool := e.getLsbD 0
def Rgn.rd (e : Rgn) : Bool := e.getLsbD 120
def Rgn.w (e : Rgn) : Bool := e.getLsbD 121
def Rgn.bk (e : Rgn) : Bool := e.getLsbD 122
def Rgn.sset (e : Rgn) (k : Nat) : Bool := e.getLsbD (128 + k)

/-- Reserved bits of an entry are zero. -/
def Rgn.clean (e : Rgn) : Bool :=
  e.extractLsb' 1 6 == 0#6 && e.extractLsb' 52 12 == 0#12 && e.extractLsb' 104 16 == 0#16 && e.extractLsb' 123 5 == 0#5

def NearCmd.w (n : NearCmd) (i : Nat) : Nat := nearWord n.cmd i
def NearCmd.op (n : NearCmd) : Nat := n.w 0 % 256
def NearCmd.stn (n : NearCmd) : Nat := n.w 0 / 256 % 128

/-- Reserved bits of the header are zero (R238). -/
def headerClean (c : BitVec 512) : Bool := !c.getLsbD 15 && nearWord c 5 / 256 == 0

/-- Words of the body from `i` to 15 are zero. -/
def bodyZero (c : BitVec 512) (i : Nat) : Bool := (List.range (16 - i)).all fun k => nearWord c (i + k) == 0

/-! ## Checked accesses (R236) -/

/-- The executing station is in SSET and owned by the context's partition, and the bytes lie within it (R233, R236); where the station
is leaving, only for a command accepted before (R280). -/
def State.stationOk (s : State) (n : NearCmd) (e : Rgn) (pa len : Nat) : Bool :=
  Rgn.sset e n.stn && (n.early || (match s.cap? 2 n.stn with | some (_, c) => c.state != 2 | none => true)) && s.ownsStation (s.ctxAt n.ctx).part n.stn && s.ownPa pa && offStation (paOff pa) == n.stn
    && offStation (paOff (pa + len - 1)) == n.stn && s.ownPa (pa + len - 1)

/-- The checks of one access at a region offset, in their order; its physical address. -/
def State.nearAt (s : State) (n : NearCmd) (write bk : Bool) (off len : Nat) : Except Cause Nat :=
  let e := if write then n.wrgn else n.rrgn
  let lo := n.w (if write then 3 else 1) * 128
  let hi := lo + n.w (if write then 4 else 2) * 128
  if !Rgn.valid e then .error .nearRegion
  else if rgnLen e < off + len || off < lo || hi < off + len then .error .nearBounds
  else if !(if write then Rgn.w e else Rgn.rd e) || (bk && !Rgn.bk e) then .error .nearPerm
  else if !s.stationOk n e (rgnBase e + off) len then .error .nearStation
  else .ok (rgnBase e + off)

/-- The region offset of a physical address, for columns: beyond the region where it lies below its base. -/
def rgnOff (e : Rgn) (pa : Nat) : Nat := if pa < rgnBase e then 2 ^ 52 else pa - rgnBase e

/-- Whether some byte lies in a sector poisoned where a command reads it: at the banks in DRAM, otherwise through the memory-side cache
(R103, R234). -/
def State.anyPoison (s : State) (bk : Bool) (pa n : Nat) : Bool :=
  (sectorList (paOff pa) n).any fun k => if bk then s.poison.contains k else s.badBelow k

/-- Bytes a command reads; a poisoned sector ends it (R243). -/
def State.nearPeek (s : State) (n : NearCmd) (bk : Bool) (off len : Nat) : Except Cause (List Byte) :=
  match s.nearAt n false bk off len with
  | .error c => .error c
  | .ok pa => if s.anyPoison bk pa len then .error .nearPoison else .ok (srange (w := 8) s.mem (paOff pa) len)

/-- Whether a line of this package lies in some footprints. -/
def State.inLines (s : State) (ps : List (Nat × Nat)) (k : Nat) : Bool :=
  ps.any fun p => decide (p.1 ≤ s.ownLine k * 128) && decide (s.ownLine k * 128 < p.1 + p.2)

/-- A bank sequence that runs writes a line: the memory-side cache takes no copy of it (R234). -/
def State.bankLine (s : State) (k : Nat) : Bool := s.near.any fun p => p.2.started && p.2.op == 0x10 && s.inLines p.2.writes k

/-- Sectors of a range of package bytes are read from DRAM through the memory-side cache (R101, R234). R261 does not say how a sequence reads
a BLD source in its own write footprint, whose fills are held until it completes: here from memory, without a copy.
DESIGN CHOICE (log 39), unsafe. -/
def State.mscRange (s : State) (off len : Nat) : State :=
  (sectorList off len).foldl (fun (t : State) k =>
    if s.bankLine (k / 2) then t else t.mscPut (k / 2) (secBit (k * 64)) 0#2 0#2) s

/-- Sectors of a range that is written are dirty there: one written whole is poisoned no more (R101, R103, R234). What lies in the write
footprint of a bank sequence that runs goes to DRAM itself. -/
def State.mscWrite (s : State) (off : Nat) (bs : List Byte) : State :=
  (sectorList off bs.length).foldl (fun (t : State) k =>
    let b := secBit (k * 64)
    let whole := coversSector [(off, bs)] k
    if s.bankLine (k / 2) then (if whole then { t with poison := t.poison.filter fun j => j != k } else t)
    else t.mscPut (k / 2) b b (if s.badBelow k && !whole then b else 0#2)) s

/-- Bytes a command reads through the memory-side cache (R234), and the state with what it fills there. -/
def State.nearRead (s : State) (n : NearCmd) (off len : Nat) : Except Cause (List Byte × State) :=
  match s.nearAt n false false off len, s.nearPeek n false off len with
  | .ok pa, .ok bs => .ok (bs, s.mscRange (paOff pa) len)
  | .error c, _ => .error c
  | _, .error c => .error c

/-- Bytes are written at the banks: a sector written whole is poisoned no more (R103, R234). -/
def State.putBytes (s : State) (pa : Nat) (bs : List Byte) : State :=
  { s with mem := sputRange (w := 8) s.mem (paOff pa) bs,
           poison := movePoison bs.length (fun _ => false) (paOff pa) s.poison }

/-- Bytes a station writes: they stay in the memory-side cache (R234). -/
def State.stationStore (s : State) (pa : Nat) (bs : List Byte) : State :=
  State.mscWrite { s with mem := sputRange (w := 8) s.mem (paOff pa) bs } (paOff pa) bs

/-- Bytes a command writes. -/
def State.nearWrite (s : State) (n : NearCmd) (off : Nat) (bs : List Byte) : Except Cause State :=
  match s.nearAt n true false off bs.length with
  | .error c => .error c
  | .ok pa => .ok (s.stationStore pa bs)

/-! ## Completion (R242, R243) -/

/-- The events of EV. -/
def nearEv (ev : Events) : BitVec 4 :=
  (if ev &&& evNV != 0#8 then 1#4 else 0#4) ||| (if ev &&& evOF != 0#8 then 2#4 else 0#4)
    ||| (if ev &&& evUF != 0#8 then 4#4 else 0#4) ||| (if ev &&& evNX != 0#8 then 8#4 else 0#4)

/-- Where the completion record goes, or the check that fails (R236). -/
def State.recordAt (s : State) (n : NearCmd) : Except Cause Nat :=
  let off := n.w 6 * 32
  if !Rgn.valid n.crgn then .error .nearRegion
  else if rgnLen n.crgn < off + 32 then .error .nearBounds
  else if !Rgn.w n.crgn then .error .nearPerm
  else if !s.stationOk n n.crgn (rgnBase n.crgn + off) 32 then .error .nearStation
  else .ok (rgnBase n.crgn + off)

/-- Bytes 0 to 7 and 8 to 23 of the record: bits 255:192 are not written. -/
def NearCmd.record (n : NearCmd) (time : DWord) (cause : Option Cause) (ev : BitVec 4) (cnt : Nat) : Nat × Nat :=
  ((if cause.isNone then 1 else 2) + (match cause with | some c => causeCode c * 2 ^ 8 | none => 0)
      + cnt % 2 ^ 20 * 2 ^ 16 + ev.toNat * 2 ^ 36,
    n.ticket.toNat + n.w 7 * 2 ^ 32 + time.toNat * 2 ^ 64)

/-- Contexts with a command that has not started look again. -/
def State.kickNear (s : State) : State :=
  (((s.near.filter fun p => !p.2.started).map fun p => p.2.ctx).eraseDups).foldl (fun (t : State) c =>
    if t.agenda.contains (.nearCommandStart c) then t else t.push (.nearCommandStart c)) s

/-- The issuing core, and the core on which the command's block has resumed, drop their L1 copies of the lines it writes
(R137, R241). -/
def State.nearDropL1 (s : State) (n : NearCmd) : State :=
  (n.core :: ((tget? s.blocks n.block).map Block.core).toList).foldl (fun (u : State) c =>
    n.writes.foldl (fun (t : State) p => t.setCoreAt c ((t.coreAt c).l1DropRange p.1 p.2)) u) s

/-- A command ends: its record is written, or a fault record tells that it could not be; its lines are free, and what waited is
looked at again. -/
def State.nearFinish (s : State) (k : Nat) (n : NearCmd) (cause : Option Cause) (ev : BitVec 4) (cnt : Nat) : State :=
  let s : State := { s with near := tdel s.near k }
  let s := s.nearDropL1 n
  let s :=
    match s.recordAt n with
    | .ok pa =>
      let r := n.record s.timebase cause ev cnt
      let t := (s.stationStore (pa + 8) (leBytes 16 r.2)).stationStore pa (leBytes 8 r.1)
      t.setCtxAt n.ctx { t.ctxAt n.ctx with nearDone := (t.ctxAt n.ctx).nearDone ++ [n.ticket] }
    | .error _ =>
      let g := s.jobGroup n.gid n.block n.gnum n.gtag
      let r := s.mkRecord { g with ctx := n.ctx } .A { cause := .nearRecord, mask := 0#32, info := n.ticket, src := .near } false
        false 0#4
      let r : Record :=
        if (tget? s.groups n.gid).isSome then r
        else { r with core := n.core, blkX := BitVec.ofNat 32 n.blk.1, blkY := BitVec.ofNat 32 n.blk.2.1, blkZ := BitVec.ofNat 32 n.blk.2.2 }
      (s.countRecord n.ctx).postRecord n.ctx r .none
  (((s.kick n.core).kickPackets).kickNear).launchDone n.launch

/-! ## Posting and polling (R240, R245) -/

def ceilDiv (a b : Nat) : Nat := (a + b - 1) / b

/-- Fields of an IREDUCE body (R251). -/
structure Ired where
  idx4 : Nat
  nidx : Nat
  tbl4 : Nat
  bag : Nat
  roww : Nat
  out4 : Nat
  arrival : Bool
  deriving DecidableEq, Repr

def iredOf (c : BitVec 512) : Ired :=
  ⟨nearWord c 8, nearWord c 9, nearWord c 10, nearWord c 11 / 65536, nearWord c 11 % 65536, nearWord c 12, nearWord c 13 % 2 == 1⟩

/-- Ranges of the fields that IREDUCE's charge uses. -/
def Ired.ok (r : Ired) : Bool :=
  1 ≤ r.nidx && r.nidx ≤ 65536 && r.bag != 0 && r.nidx % r.bag == 0 && r.roww % 32 == 0 && 32 ≤ r.roww && r.roww ≤ 4096

/-- Elements of a stream descriptor (R249): the first word is word `i`. -/
def streamCount (c : BitVec 512) (i : Nat) : Nat := nearWord c (i + 1) % 2 ^ 20

/-- Sectors charged at acceptance (R245, R263). -/
def nearCharge (c : BitVec 512) : Nat :=
  match nearWord c 0 % 256 with
  | 0x01 => 5
  | 0x02 => ceilDiv (4 * (streamCount c 8 + streamCount c 10 + streamCount c 12)) 64 + 1
  | 0x03 =>
    let r := iredOf c
    if r.ok then r.nidx * r.roww / 16 + ceilDiv r.nidx 16 + r.nidx / r.bag * r.roww / 16 + 1 else 1
  | 0x10 =>
    let n := nearWord c 9 % 2 ^ 13
    if 1 ≤ n ∧ n ≤ 4096 then ceilDiv n 8 + 1 else 1
  | _ => 1

/-- Sixteen registers as a command. -/
def Group.command (g : Group) (o : Opd) : BitVec 512 :=
  BitVec.ofNat 512 ((List.range 16).foldr (fun i (a : Nat) => (g.rdS o i).toNat + 2 ^ 32 * a) 0)

/-- Commands of a context that its queue holds: one that has started counts until its record is written, which R240 leaves open.
DESIGN CHOICE (log 35), unsafe. -/
def State.nearQueued (s : State) (c : Nat) : Nat := (s.near.filter fun p => p.2.ctx == c).length

/-- A command joins its context's queue: a release, the ticket, the charge, and its copy of the region entries (R237, R240,
R241). -/
def State.nearPost (s : State) (cmd : BitVec 512) : Word × State :=
  let s := s.release
  let c := s.grp.ctx
  let x := s.ctx
  let seq := nextSeq x.nearSeq
  let rgn (i : Nat) : Rgn := (tget? x.nrt i).getD 0#256
  let n : NearCmd :=
    { ctx := c, launch := s.grp.launch, cmd := cmd, ticket := seq, gid := s.gid, core := s.grp.core, block := s.grp.block,
      rrgn := rgn (nearWord cmd 0 / 2 ^ 16 % 256), wrgn := rgn (nearWord cmd 0 / 2 ^ 24), crgn := rgn (nearWord cmd 5 % 256),
      gnum := s.grp.num, gtag := s.grp.gtag, started := false, early := false, stalled := false, count := 0, ev := 0#4, steps := none, abm := false,
      blk := let b := s.blkAt s.grp.block; (b.x, b.y, b.z) }
  let s := s.setCtxAt c { x with nearSeq := seq, nearDone := x.nearDone.filter fun t => t != seq }
  let s := s.chargeWhole c (nearCharge cmd)
  (seq, { s with near := tput s.near s.next n, next := s.next + 1 }.push (.nearCommandStart c))

/-- R240 -/
def execNqpost (x : EngF) (s : State) : Host.Outcome State Fault Refusal :=
  engIssue eNqpost 1 x (fun s =>
    if 64 ≤ s.nearQueued s.grp.ctx || !s.ctx.mem.open then .wait s
    else
      let r := s.nearPost (s.grp.command x.b)
      .done (r.2.setS x.d r.1)) s

/-- What NQPOLL reports (R240). -/
def State.nearPoll (s : State) (a : Word) : Word :=
  let d := s.ctx.nearSeq - a
  if a = 0#32 ∨ 2 ^ 31 ≤ d.toNat then 2#32 else if s.ctx.nearDone.contains a then 1#32 else 0#32

/-- R240 -/
def execNqpoll (x : EngF) (s : State) : Host.Outcome State Fault Refusal :=
  engIssue eNqpoll 1 x (fun s =>
    let r := s.nearPoll (s.grp.rdS x.a 0)
    let t := if r = 1#32 then s.acquire .pkg else s
    .done (t.setS x.d r)) s

/-! ## The start at the station (R233, R241) -/

/-- Footprints of two near commands conflict. -/
def NearCmd.clash (m n : NearCmd) : Bool := meets m.writes n.writes || meets m.reads n.writes || meets m.writes n.reads

/-- Two bank sequences claim the same banks: their station, pseudo-channel and stack-id (R262). -/
def NearCmd.sameBanks (m n : NearCmd) : Bool :=
  m.op == 0x10 && n.op == 0x10 && m.stn == n.stn && m.w 10 % 16 == n.w 10 % 16

/-- Whether something keeps a command from starting: four commands at its station, an earlier conflicting command or copy job of
its block, a bank sequence on the same banks that runs or was accepted before it, or a sink tag on a line that must be cleaned
(R174, R233, R241, R262). DESIGN CHOICE (log 35), unsafe. -/
def State.nearBlocked (s : State) (k : Nat) (n : NearCmd) : Bool :=
  4 ≤ (s.near.filter fun p => p.2.started && p.2.stn == n.stn).length
    || (s.near.any fun p => p.1 < k && p.2.block == n.block && p.2.clash n)
    || ((s.coreAt n.core).copyQ.any fun p => p.1 < k && p.2.block == n.block && s.nearClash n p.2)
    || (s.near.any fun p => (p.1 < k || p.2.started) && p.2.sameBanks n)
    || s.tagHazard (n.reads ++ n.writes)

/-- Dirty sectors of a line of L2 or of a memory-side cache. -/
def dirtyCount (d : BitVec 2) : Nat := (if d.getLsbD 0 then 1 else 0) + if d.getLsbD 1 then 1 else 0

/-- L2 writes back the dirty sectors of a command's footprints and drops the lines of its write footprint; each sector written
back is charged (R241, R245). DEDUCED (log 75), unsafe. -/
def State.cleanL2 (s : State) (n : NearCmd) : State :=
  let hit := s.l2.filter fun p => s.inLines (n.reads ++ n.writes) p.1
  let cost := hit.foldl (fun a p => a + dirtyCount p.2.dirty) 0
  let t := hit.foldl (fun (t : State) p =>
    if s.inLines n.writes p.1 then t.l2Drop p.1
    else if p.2.dirty = 0#2 then t
    else { t.mscPut p.1 p.2.dirty p.2.dirty p.2.bad with l2 := tput t.l2 p.1 { p.2 with dirty := 0#2 } }) s
  if cost = 0 then t else t.chargeWhole n.ctx cost

/-- Before a bank sequence starts, the memory-side cache writes back the dirty sectors of its footprints and drops the lines of
its write footprint (R234). -/
def State.cleanMsc (s : State) (n : NearCmd) : State :=
  (s.msc.filter fun p => s.inLines (n.reads ++ n.writes) p.1).foldl (fun (t : State) p =>
    if s.inLines n.writes p.1 then t.mscDrop p.1
    else { t.toDram p.1 p.2.dirty p.2.bad with msc := tput t.msc p.1 { p.2 with dirty := 0#2 } }) s

/-- A bank sequence claims the compute units of its banks, and their registers are zero (R254). -/
def State.claimBanks (s : State) (n : NearCmd) : State :=
  s.setStationAt n.stn { s.stationAt n.stn with bcu := tdel (s.stationAt n.stn).bcu (n.w 10 % 4 * 4 + n.w 10 / 4 % 4) }

/-- The event of an opcode. -/
def nearOp (op k : Nat) : Option Instr :=
  match op with
  | 0x00 => some (.nnop k)
  | 0x01 => some (.cgraCfg k)
  | 0x02 => some (.cgraRun k)
  | 0x03 => some (.ireduce k)
  | 0x10 => some (.bseq k)
  | _ => none

/-- Where a command's completion record lies. -/
def NearCmd.recordSpan (n : NearCmd) : List (Nat × Nat) :=
  if Rgn.valid n.crgn then [(rgnBase n.crgn + n.w 6 * 32, 32)] else []

/-- A command touches a line that a bank sequence writes, whose fills that one holds while it runs (R234, R262). -/
def NearCmd.fillsOf (n m : NearCmd) : Bool :=
  m.started && m.op == 0x10 && meets m.writes (wholeLines (n.reads ++ n.writes ++ n.recordSpan))

/-- Whether a bank sequence waits for another, itself or through others: the fuel bounds the chain. -/
def State.bankWaits (s : State) : Nat → Nat → Nat → Bool
  | 0, _, _ => false
  | f + 1, j, k =>
    match tget? s.near j, tget? s.near k with
    | some m, some n =>
      j != k && (m.fillsOf n || s.near.any fun p => p.1 != j && p.1 != k && m.fillsOf p.2 && s.bankWaits f p.1 k)
    | _, _ => false

/-- Whether a bank sequence that runs holds the fills of a line that a command touches: the command waits until it completes (R234,
R262). Of sequences that wait for one another the one accepted first goes on: the rules would have none of them complete.
DESIGN CHOICE (log 35), unsafe. -/
def State.bankHeld (s : State) (k : Nat) (n : NearCmd) : Bool :=
  s.near.any fun p => p.1 != k && n.fillsOf p.2 && (p.1 < k || !n.started || n.op != 0x10 || !s.bankWaits s.near.length p.1 k)

/-- The next command of a context starts: the retired stores have arrived first, L2 is cleaned, and the lines of the write footprint are
held from then on; before a bank sequence the memory-side cache is cleaned too. A header that names no opcode ends at once (R234, R239,
R241). -/
def execNearCommandStart (ctx : Nat) (s : State) : Host.Outcome State Fault Refusal :=
  match s.near.find? fun p => p.2.ctx == ctx && !p.2.started with
  | none => .next s
  | some (k, n) =>
    if s.nearBlocked k n || s.bankHeld k n then .next s
    else
      let n : NearCmd := { n with started := true }
      let t : State := s.drainAll.cleanL2 n
      let t : State := if n.op = 0x10 then (t.cleanMsc n).claimBanks n else t
      let t : State := { t with near := tput t.near k n }
      match (if headerClean n.cmd then nearOp n.op k else none) with
      | some e => .next ((t.push e).push (.nearCommandStart ctx))
      | none => .next (t.nearFinish k n (some .nearFormat) 0#4 0)

/-- A command that runs, where it has started, has the opcode and waits for no bank sequence; otherwise nothing happens. -/
def State.nearRun (s : State) (op k : Nat) (f : NearCmd → State) : Host.Outcome State Fault Refusal :=
  match tget? s.near k with
  | some n => if n.started && n.op == op && !s.bankHeld k n then .next (f n) else .next s
  | none => .next s

/-- Only the record is written (R239). -/
def execNnop (k : Nat) (s : State) : Host.Outcome State Fault Refusal :=
  s.nearRun 0x00 k fun n => s.nearFinish k n (must (bodyZero n.cmd 8) .nearFormat) 0#4 0

/-! ## The region table (R237) -/

/-- A command of a partition's privileged queue ends: 0, or its cause. -/
def State.porchStatus (s : State) (n : Nat) : State := { s with porch := { s.porch with lastStatus := n } }

/-- The stations of a range of package bytes are owned by a partition (R237). -/
def State.ownsRange (s : State) (part lo len : Nat) : Bool :=
  s.ownPa lo && s.ownPa (lo + len - 1)
    && (List.range (offStation (paOff (lo + len - 1)) + 1 - offStation (paOff lo))).all fun i =>
      s.ownsStation part (offStation (paOff lo) + i)

/-- The stations a set names are owned by a partition. -/
def State.ownsSet (s : State) (part : Nat) (e : Rgn) : Bool :=
  (List.range 128).all fun k => !Rgn.sset e k || s.ownsStation part k

/-- A command of a partition's privileged queue is charged one sector to the memory bucket of the context it names, where that is
the partition's, and waits while the bucket is at zero or below (R245, R285). DEDUCED (log 75), unsafe. -/
def State.porchCharge (s : State) (e : Instr) (part c : Nat) (f : State → State) : State :=
  if (tget? s.ctxs c).isNone || (s.ctxAt c).part != part then f s
  else if !(s.ctxAt c).mem.open then s.hold e
  else f (s.chargeWhole c 1)

/-- Write one region entry (R237). DESIGN CHOICE (log 36), unsafe. -/
def execNrtSet (part : Nat) (cmd : BitVec 512) (s : State) : Host.Outcome State Fault Refusal :=
  let c := nearWord cmd 1 % 4096
  .next (s.porchCharge (.nrtSet part cmd) part c fun s =>
  let e : Rgn := cmd.extractLsb' 256 256
  let x := s.ctxAt c
  let bad : Option Cause :=
    firstBad [
      must (nearWord cmd 0 % 256 == 0xF0 && headerClean cmd && nearWord cmd 1 / 4096 == 0 && nearWord cmd 2 / 256 == 0
        && (tget? s.ctxs c).isSome && x.part == part && Rgn.clean e && !(Rgn.valid e && rgnLen e == 0)) .nearFormat,
      must (!Rgn.valid e || (s.ownsRange part (rgnBase e) (rgnLen e) && s.ownsSet part e)) .nearStation]
  match bad with
  | some b => s.porchStatus (causeCode b)
  | none => (s.setCtxAt c { x with nrt := tput x.nrt (nearWord cmd 2 % 256) e }).porchStatus 0)

/-- Zero a context's region table (R237). Words 8 to 15, of which R237 says nothing, must be zero. DESIGN CHOICE (log 36), unsafe. -/
def execNrtClear (part : Nat) (cmd : BitVec 512) (s : State) : Host.Outcome State Fault Refusal :=
  let c := nearWord cmd 1 % 4096
  .next (s.porchCharge (.nrtClear part cmd) part c fun s =>
  let x := s.ctxAt c
  if nearWord cmd 0 % 256 == 0xF1 && headerClean cmd && nearWord cmd 1 / 4096 == 0 && bodyZero cmd 8
      && (tget? s.ctxs c).isSome && x.part == part then
    (s.setCtxAt c { x with nrt := [] }).porchStatus 0
  else s.porchStatus (causeCode .nearFormat))

/-! ## Indexed reduce (R250 to R252) -/

/-- A permutation of a list, selected by a number. -/
def permute {α : Type} : Nat → Nat → List α → List α
  | 0, _, l => l
  | n + 1, k, l =>
    let i := k % l.length
    match l[i]? with
    | some a => a :: permute n (k / l.length) (l.eraseIdx i)
    | none => []

/-- The sum of rows in an order, element by element: the first exact, then one rounding a row (R252). -/
def sumRows : List (List Word) → List Word × Events
  | [] => ([], 0#8)
  | r :: rs =>
    rs.foldl (fun (a : List Word × Events) (row : List Word) =>
      let zs := (a.1.zip row).map fun p => fAdd 0 p.1 p.2
      (zs.map Prod.fst, zs.foldl (fun (e : Events) z => e ||| z.2) a.2)) (r, 0#8)

/-- Words of some bytes. -/
def bytesWords : Nat → List Byte → List Word
  | 0, _ => []
  | n + 1, bs => BitVec.ofNat 32 (leNat (bs.take 4)) :: bytesWords n (bs.drop 4)

/-- Progress of a command that writes: its state, events and elements written, and the error that stopped it. -/
structure NearRunSt where
  s : State
  ev : Events
  cnt : Nat
  err : Option Cause
  deriving DecidableEq, Repr

/-- The indices of a bag. -/
def State.bagIndices (s : State) (n : NearCmd) (r : Ired) (b : Nat) : Except Cause (List Nat × State) :=
  match s.nearRead n (r.idx4 * 4 + b * r.bag * 4) (r.bag * 4) with
  | .error c => .error c
  | .ok (bs, t) => .ok ((bytesWords r.bag bs).map BitVec.toNat, t)

/-- The 128-byte segments of some rows. A row that lies only in part outside the read footprint fails at its first segment there, when
that is first read: the output of earlier segments stands. DEDUCED (log 38), unsafe. -/
def State.rowSegments (n : NearCmd) (r : Ired) (seg : Nat) : List Nat → State → Except Cause (List (List Word) × State)
  | [], s => .ok ([], s)
  | i :: is, s =>
    match s.nearRead n (r.tbl4 * 4 + i * r.roww * 4 + seg * 128) 128 with
    | .error c => .error c
    | .ok (bs, t) =>
      match State.rowSegments n r seg is t with
      | .error c => .error c
      | .ok (rest, u) => .ok (bytesWords 32 bs :: rest, u)

/-- One segment of one bag. -/
def iredSegment (n : NearCmd) (r : Ired) (b seg : Nat) (is : List Nat) (a : NearRunSt) : NearRunSt :=
  if a.err.isSome then a
  else
    match State.rowSegments n r seg is a.s with
    | .error c => { a with err := some c }
    | .ok (rows, t) =>
      let order := if r.arrival then permute rows.length (Config.arrivalOrder t.free) rows else rows
      let z := sumRows order
      let s : State := if r.arrival then { t with free := t.free + 1 } else t
      match s.nearWrite n (r.out4 * 4 + b * r.roww * 4 + seg * 128) (z.1.flatMap fun w => leBytes 4 w.toNat) with
      | .error c => { a with s := s, err := some c }
      | .ok t => { s := t, ev := a.ev ||| z.2, cnt := a.cnt + 32, err := none }

/-- One bag. DEDUCED (log 38), safe. -/
def iredBag (n : NearCmd) (r : Ired) (a : NearRunSt) (b : Nat) : NearRunSt :=
  if a.err.isSome then a
  else
    match a.s.bagIndices n r b with
    | .error c => { a with err := some c }
    | .ok (is, t) => (List.range (r.roww / 32)).foldl (fun (a : NearRunSt) seg => iredSegment n r b seg is a) { a with s := t }

/-- The configuration of a context is not held at a station any more (R250). -/
def State.dropCfg (s : State) (st c : Nat) : State :=
  s.setStationAt st { s.stationAt st with cfgs := (s.stationAt st).cfgs.filter fun x => x.ctx != c }

/-- Sum indexed rows into bags (R251, R252). One that ends in NEAR_FORMAT discards the context's configuration too: R250 makes no
exception. DEDUCED (log 38), unsafe. -/
def execIreduce (k : Nat) (s : State) : Host.Outcome State Fault Refusal :=
  s.nearRun 0x03 k fun n =>
    let r := iredOf n.cmd
    let s := s.dropCfg n.stn n.ctx
    if !(r.ok && r.tbl4 % 32 == 0 && r.out4 % 32 == 0 && n.w 13 / 2 == 0 && bodyZero n.cmd 14) then
      s.nearFinish k n (some .nearFormat) 0#4 0
    else
      let a := (List.range (r.nidx / r.bag)).foldl (iredBag n r) ⟨s, 0#8, 0, none⟩
      a.s.nearFinish k n a.err (nearEv a.ev) a.cnt

end Sys2Proof.Machine
end

