-- ==== Sys2Proof/Machine/Cgra.lean ====
section
/-! DEFINITION. The CGRA tile of a station (R246 to R250): configuration images, and a run as a network of processing elements
and streams moved round by round. -/

namespace Sys2Proof.Machine

/-! ## Configurations (R246, R247) -/

/-- Word of a processing element. -/
def peWord (img : List Byte) (p : Nat) : DWord := BitVec.ofNat 64 (leNat ((img.drop (8 * p)).take 8))

def peEn (img : List Byte) (p : Nat) : Bool := (peWord img p).getLsbD 8
/-- ENA or ENB of an element. -/
def inEn (img : List Byte) (p i : Nat) : Bool := (peWord img p).getLsbD (6 + i)
/-- Whether input `i` (0 IA, 1 IB) of an element is in use. -/
def peIn (img : List Byte) (p i : Nat) : Bool := peEn img p && inEn img p i
def peInt (img : List Byte) (p : Nat) : Bool := (peWord img p).extractLsb' 4 2 == 1#2
def peOpc (img : List Byte) (p : Nat) : Nat := ((peWord img p).extractLsb' 0 4).toNat
def peConst (img : List Byte) (p : Nat) : Word := (peWord img p).extractLsb' 32 32

/-- Source code of an input in the route table. -/
def routeCode (img : List Byte) (p i : Nat) : Nat := (img.getD (128 + p) 0#8).toNat / 16 ^ i % 16

/-- The producer a source code names: elements are 0 to 15, AG0 is 16 and AG1 is 17; none for no source, or a neighbour outside
the grid. -/
def producer (p code : Nat) : Option Nat :=
  match code with
  | 1 => if 4 ≤ p then some (p - 4) else none
  | 2 => if p % 4 < 3 then some (p + 1) else none
  | 3 => if p < 12 then some (p + 4) else none
  | 4 => if 0 < p % 4 then some (p - 1) else none
  | 5 => some 16
  | 6 => some 17
  | _ => none

/-- The write stream's byte of the route table. -/
def wgByte (img : List Byte) : Nat := (img.getD 144 0#8).toNat

/-- A producer that a route may name. -/
def producerOk (img : List Byte) (q : Option Nat) : Bool :=
  match q with
  | some q => 16 ≤ q || peEn img q
  | none => false

/-- Whether an image is accepted (R246, R247, R248). DEDUCED (log 37), unsafe. -/
def imageOk (img : List Byte) : Bool :=
  ((List.range 16).all fun p =>
    (peWord img p).extractLsb' 9 23 == 0#23 && ((peWord img p).extractLsb' 4 2).toNat ≤ 1 && peOpc img p ≤ 8
      && (List.range 2).all fun i =>
        routeCode img p i ≤ 6 && (routeCode img p i == 0 || producerOk img (producer p (routeCode img p i)))
          && (!inEn img p i || routeCode img p i != 0))
    && wgByte img / 16 % 8 == 0 && (wgByte img < 128 || peEn img (wgByte img % 16))
    && (List.range 111).all fun i => img.getD (145 + i) 0#8 == 0#8

/-- A context's configuration at a station, the most recently used last; beyond 8 contexts the least recently used goes (R250). -/
def Station.hold (x : Station) (c : CgraCfg) : Station :=
  let rest := x.cfgs.filter fun y => y.ctx != c.ctx
  { x with cfgs := (if 8 ≤ rest.length then rest.drop 1 else rest) ++ [c] }

/-- Load a configuration (R239, R246, R247) -/
def execCgraCfg (k : Nat) (s : State) : Host.Outcome State Fault Refusal :=
  s.nearRun 0x01 k fun n =>
    if !bodyZero n.cmd 8 then s.nearFinish k n (some .nearFormat) 0#4 0
    else
      match s.nearRead n (n.w 1 * 128) 256 with
      | .error c => s.nearFinish k n (some c) 0#4 0
      | .ok (img, s) =>
        if !imageOk img then s.nearFinish k n (some .nearFormat) 0#4 0
        else (s.setStationAt n.stn ((s.stationAt n.stn).hold ⟨n.ctx, img⟩)).nearFinish k n none 0#4 0

/-! ## A run (R248, R249) -/

/-- A token: 32 bits and LAST. -/
structure Tok where
  w : Word
  last : Bool
  deriving DecidableEq, Repr

/-- A stream descriptor (R249). -/
structure Stream where
  off : Nat
  count : Nat
  lastp : Nat
  deriving DecidableEq, Repr

def streamOf (c : BitVec 512) (i : Nat) : Stream := ⟨nearWord c i * 4, streamCount c i, nearWord c (i + 1) / 2 ^ 20 % 256⟩

/-- A run in progress: output FIFOs of the 16 elements and the two read streams, the consumers that have taken each head, the
32 input FIFOs, accumulators, elements read by each stream and written, firings, and whether something moved in the round. -/
structure Cg where
  s : State
  out : List (List Tok)
  taken : List (List Nat)
  inq : List (List Tok)
  acc : List (Option Word)
  pos : List Nat
  wrote : Nat
  fired : Nat
  ev : Events
  err : Option Cause
  moved : Bool
  deriving DecidableEq, Repr

def Cg.start (s : State) : Cg :=
  { s := s, out := List.replicate 18 [], taken := List.replicate 18 [], inq := List.replicate 32 [],
    acc := List.replicate 16 none, pos := [0, 0], wrote := 0, fired := 0, ev := 0#8, err := none, moved := false }

/-- The routes of a configuration: producer and consumer; input i of element p is consumer 2p + i, the write stream is 32. R248 asks every
route that names a producer to take its token and does not say whether one of an input that is not enabled, or of a disabled
element, does: it is left out. DESIGN CHOICE (log 89), unsafe. -/
def routes (img : List Byte) : List (Nat × Nat) :=
  ((List.range 16).flatMap fun p => (List.range 2).filterMap fun i =>
    if peIn img p i then (producer p (routeCode img p i)).map fun q => (q, 2 * p + i) else none)
    ++ if 128 ≤ wgByte img then [(wgByte img % 16, 32)] else []

/-- A read stream delivers its next element once the one before has been taken. -/
def Cg.refill (n : NearCmd) (a : Cg) (i : Nat) : Cg :=
  let st := streamOf n.cmd (8 + 2 * i)
  let k := a.pos.getD i 0
  if a.err.isSome || !(a.out.getD (16 + i) []).isEmpty || st.count ≤ k then a
  else
    match a.s.nearRead n (st.off + 4 * k) 4 with
    | .error c => { a with err := some c }
    | .ok (bs, u) =>
      let t : Tok := ⟨BitVec.ofNat 32 (leNat bs), st.lastp != 0 && (k + 1) % st.lastp == 0⟩
      { a with s := u, out := a.out.set (16 + i) [t], pos := a.pos.set i (k + 1), moved := true }

/-- An operation of R248 on two words, and its events; ACC is not among them. -/
def peOp (isInt : Bool) (opc : Nat) (c x y : Word) : Word × Events :=
  match opc with
  | 0 => (x, 0#8)
  | 1 => if isInt then (x + y, 0#8) else fAdd 0 x y
  | 2 => if isInt then (x - y, 0#8) else fSub 0 x y
  | 3 => if isInt then (x * y, 0#8) else fMul 0 x y
  | 4 => if isInt then (minS x y, 0#8) else fMin x y
  | 5 => if isInt then (maxS x y, 0#8) else fMax x y
  | 6 => if isInt then (x + c, 0#8) else fAdd 0 x c
  | _ => if isInt then (x * c, 0#8) else fMul 0 x c

/-- An element fires, if every enabled input holds a token and its output has room (R248). The word and the LAST bit that an input
which is not enabled delivers are not stated: free values (log 37). -/
def Cg.fire (img : List Byte) (a : Cg) (p : Nat) : Cg :=
  let inp (i : Nat) := a.inq.getD (2 * p + i) []
  let can := peEn img p && (List.range 2).all (fun i => !peIn img p i || !(inp i).isEmpty) && (a.out.getD p []).length < 8
  if a.err.isSome || !can then a
  else
    let val (i : Nat) : Tok :=
      let k := a.s.free + 4 * a.fired + i
      if peIn img p i then (inp i).headD ⟨0#32, false⟩ else ⟨Config.freeValue k, (Config.freeValue (k + 2)).getLsbD 0⟩
    let x := val 0
    let a := { a with inq := (a.inq.set (2 * p) ((inp 0).drop 1)).set (2 * p + 1) ((inp 1).drop 1), fired := a.fired + 1,
                      moved := true }
    let emit (a : Cg) (t : Tok) : Cg := { a with out := a.out.set p (a.out.getD p [] ++ [t]) }
    if peOpc img p = 8 then
      let r := match a.acc.getD p none with
        | none => (x.w, 0#8)
        | some c => if peInt img p then (c + x.w, 0#8) else fAdd 0 c x.w
      let a := { a with ev := a.ev ||| r.2, acc := a.acc.set p (if x.last then none else some r.1) }
      if x.last then emit a ⟨r.1, true⟩ else a
    else
      let r := peOp (peInt img p) (peOpc img p) (peConst img p) x.w (val 1).w
      emit { a with ev := a.ev ||| r.2 } ⟨r.1, x.last⟩

/-- A consumer takes a producer's head token, where it has not yet and has room; the write stream writes it. -/
def Cg.route (n : NearCmd) (a : Cg) (r : Nat × Nat) : Cg :=
  let wg := streamOf n.cmd 12
  match a.out.getD r.1 [] with
  | [] => a
  | t :: _ =>
    if a.err.isSome || (a.taken.getD r.1 []).contains r.2 then a
    else
      let mark (a : Cg) : Cg := { a with taken := a.taken.set r.1 (r.2 :: a.taken.getD r.1 []), moved := true }
      if r.2 = 32 then
        if wg.count ≤ a.wrote then a
        else
          match a.s.nearWrite n (wg.off + 4 * a.wrote) (leBytes 4 t.w.toNat) with
          | .error c => { a with err := some c }
          | .ok u => mark { a with s := u, wrote := a.wrote + 1 }
      else if (a.inq.getD r.2 []).length < 8 then mark { a with inq := a.inq.set r.2 (a.inq.getD r.2 [] ++ [t]) }
      else a

/-- A head token that every route has taken leaves; one that no route names is discarded. -/
def Cg.leave (rs : List (Nat × Nat)) (a : Cg) (q : Nat) : Cg :=
  let cons := (rs.filter fun r => r.1 == q).map Prod.snd
  if (a.out.getD q []).isEmpty || !cons.all fun c => (a.taken.getD q []).contains c then a
  else { a with out := a.out.set q ((a.out.getD q []).drop 1), taken := a.taken.set q [], moved := true }

/-- One round: streams, firings, routes, departures. -/
def Cg.round (n : NearCmd) (img : List Byte) (rs : List (Nat × Nat)) (a : Cg) : Cg :=
  let a := [0, 1].foldl (Cg.refill n) { a with moved := false }
  let a := (List.range 16).foldl (Cg.fire img) a
  let a := rs.foldl (Cg.route n) a
  (List.range 18).foldl (Cg.leave rs) a

/-- How a run ends. -/
inductive CgEnd where
  | done | error (c : Cause) | stall
  /-- elements fire for ever and the write stream gets nothing more -/
  | endless
  deriving DecidableEq, Repr

/-- Rounds until the write stream has its elements, an error, or nothing moves. -/
def Cg.run (n : NearCmd) (img : List Byte) (rs : List (Nat × Nat)) : Nat → Cg → CgEnd × Cg
  | 0, a => (.endless, a)
  | f + 1, a =>
    if (streamOf n.cmd 12).count ≤ a.wrote then (.done, a)
    else
      let b := a.round n img rs
      match b.err with
      | some c => (.error c, b)
      | none => if b.moved then Cg.run n img rs f b else (.stall, b)

/-- Reserved bits of a CGRA.RUN body are zero (R249). -/
def runClean (c : BitVec 512) : Bool := [9, 11, 13].all (fun i => nearWord c i / 2 ^ 28 == 0) && bodyZero c 14

/-- Rounds within which a run that can complete does: each moves a token of some path of at most 64 places. -/
def runFuel (c : BitVec 512) : Nat := 64 * (streamCount c 8 + streamCount c 10 + streamCount c 12) + 4096

/-- Run the configured network (R248 to R250) -/
def execCgraRun (k : Nat) (s : State) : Host.Outcome State Fault Refusal :=
  s.nearRun 0x02 k fun n =>
    if n.stalled then s
    else if !runClean n.cmd then s.nearFinish k n (some .nearFormat) 0#4 0
    else
      match (s.stationAt n.stn).cfgs.find? fun c => c.ctx == n.ctx with
      | none => s.nearFinish k n (some .nearNocfg) 0#4 0
      | some cfg =>
        let s := s.setStationAt n.stn ((s.stationAt n.stn).hold cfg)
        let r := Cg.run n cfg.image (routes cfg.image) (runFuel n.cmd) (Cg.start s)
        let a := r.2
        let t : State := { a.s with free := a.s.free + 4 * a.fired }
        match r.1 with
        | .done => t.nearFinish k n none (nearEv a.ev) a.wrote
        | .error c => t.nearFinish k n (some c) (nearEv a.ev) a.wrote
        | .stall =>
          { t with near := tput t.near k { n with stalled := true, count := a.wrote, ev := nearEv a.ev } }.push (.nearStall k)
        | .endless => t

/-- 4,096 ns without a move end a run (R249) -/
def execNearStall (k : Nat) (s : State) : Host.Outcome State Fault Refusal :=
  s.nearRun 0x02 k fun n => if n.stalled then s.nearFinish k n (some .nearStall) n.ev n.count else s

end Sys2Proof.Machine
end

