-- ==== Sys2Proof/Machine/Bank.lean ====
section
/-! DEFINITION. Bank sequences (R254 to R263): the checks of a sequence, its steps on the sixteen banks of one stack-id of one
pseudo-channel, and its charge. -/

namespace Sys2Proof.Machine

/-! ## The body and the step word (R256, R257) -/

def bseqOff (n : NearCmd) : Nat := n.w 8 * 8
def bseqSteps (n : NearCmd) : Nat := n.w 9 % 2 ^ 13
def bseqSid (n : NearCmd) : Nat := n.w 10 / 4 % 4
def bseqPc (n : NearCmd) : Nat := n.w 10 % 4

/-- The body is in its format. -/
def bseqClean (n : NearCmd) : Bool :=
  n.w 9 / 2 ^ 13 == 0 && 1 ≤ bseqSteps n && bseqSteps n ≤ 4096 && n.w 10 / 16 == 0 && bodyZero n.cmd 11

/-- A step word. -/
abbrev StepW := DWord

def StepW.fld (w : StepW) (lo n : Nat) : Nat := (w.extractLsb' lo n).toNat
def StepW.cmd (w : StepW) : Nat := StepW.fld w 60 4
def StepW.acc (w : StepW) : Nat := StepW.fld w 57 3
def StepW.opr (w : StepW) : Nat := StepW.fld w 52 4
def StepW.bank (w : StepW) : Nat := StepW.fld w 48 4
def StepW.row (w : StepW) : Nat := StepW.fld w 34 14
def StepW.col (w : StepW) : Nat := StepW.fld w 29 5
def StepW.src (w : StepW) : Nat := StepW.fld w 0 29

/-- Physical address of a column (R255). -/
def State.columnPa (s : State) (n : NearCmd) (b row col : Nat) : Nat :=
  s.pkgId * 2 ^ 43 + n.stn * 2 ^ 32 + row * 2 ^ 18 + bseqSid n * 2 ^ 16 + b * 2 ^ 12 + col / 4 * 2 ^ 9 + bseqPc n * 2 ^ 7
    + col % 4 * 2 ^ 5

/-- The target banks of a step. -/
def targets (abm : Bool) (w : StepW) : List Nat := if abm then List.range 16 else [StepW.bank w]

/-- The format of a step (R257, R258). -/
def stepFormat (abm : Bool) (w : StepW) : Bool :=
  let z (b : Bool) (v : Nat) : Bool := b || v == 0
  let use (acc opr bank rc src : Bool) : Bool :=
    z acc (StepW.acc w) && z opr (StepW.opr w) && z bank (StepW.bank w) && z rc (StepW.row w) && z rc (StepW.col w)
      && z src (StepW.src w) && !w.getLsbD 56
  match StepW.cmd w with
  | 1 => !abm && use false false false false false
  | 2 => abm && use false false false false false
  | 3 => use false false false false false
  | 4 => use false true (!abm) false true
  | 5 => use true true (!abm) true false
  | 6 => use true false (!abm) true false && StepW.col w % 2 == 0
  | 7 => use true false (!abm) false false
  | _ => false

/-! ## The pre-check (R260) -/

/-- The first address of a step that fails R236. -/
def State.stepAddr (s : State) (n : NearCmd) (abm : Bool) (w : StepW) : Option Cause :=
  let fails (e : Except Cause Nat) : Option Cause := match e with | .error c => some c | .ok _ => none
  match StepW.cmd w with
  | 4 => fails (s.nearAt n false false (StepW.src w * 32) 32)
  | 5 => firstBad ((targets abm w).map fun b =>
      fails (s.nearAt n false true (rgnOff n.rrgn (s.columnPa n b (StepW.row w) (StepW.col w))) 32))
  | 6 => firstBad ((targets abm w).flatMap fun b => [0, 1].map fun i =>
      fails (s.nearAt n true true (rgnOff n.wrgn (s.columnPa n b (StepW.row w) (StepW.col w + i))) 32))
  | _ => none

/-- What the pre-check carries from step to step: all-bank mode, the open row of each bank, the segment's stated duration. -/
structure PreSt where
  abm : Bool
  rowOf : List (Option Nat)
  dur : Nat
  deriving DecidableEq, Repr

def allClosed : List (Option Nat) := List.replicate 16 none

/-- The stated cost of a step and what it opens (R258). -/
def PreSt.after (p : PreSt) (w : StepW) : PreSt :=
  let T := targets p.abm w
  let isOpen := T.all fun b => p.rowOf.getD b none == some (StepW.row w)
  let openAll := T.foldl (fun (l : List (Option Nat)) b => l.set b (some (StepW.row w))) p.rowOf
  match StepW.cmd w with
  | 1 => { p with abm := true, dur := p.dur + 20 }
  | 2 => { p with abm := false, dur := p.dur + 20 }
  | 3 => { p with rowOf := allClosed, dur := 0 }
  | 4 => { p with dur := p.dur + 4 }
  | 5 => { p with dur := p.dur + 4 + (if isOpen then 0 else 30), rowOf := openAll }
  | 6 => { p with dur := p.dur + 8 + (if isOpen then 0 else 30), rowOf := openAll }
  | 7 => { p with dur := p.dur + 2 }
  | _ => p

/-- The steps of a sequence checked one by one from step `i` on: the step words, or the first failure. R260 does not say how the station
reads step words: here their poison is judged at the memory-side cache, then at DRAM, and nothing is filled. DESIGN CHOICE (log 39),
unsafe. -/
def State.preCheck (s : State) (n : NearCmd) : Nat → Nat → PreSt → Except Cause (List StepW)
  | 0, _, _ => .ok []
  | c + 1, i, p =>
    match s.nearPeek n false (bseqOff n + 8 * i) 8 with
    | .error e => .error e
    | .ok bs =>
      let w : StepW := BitVec.ofNat 64 (leNat bs)
      if !stepFormat p.abm w then .error .nearFormat
      else
        match s.stepAddr n p.abm w with
        | some e => .error e
        | none =>
          let q := p.after w
          if 3600 < q.dur then .error .nearSegment
          else match s.preCheck n c (i + 1) q with | .error e => .error e | .ok ws => .ok (w :: ws)

/-- The second part of the charge (R263): BLD steps, and banks that RDACC steps write. -/
def secondCharge : Bool → List StepW → Nat × Nat
  | _, [] => (0, 0)
  | abm, w :: ws =>
    let r := secondCharge (if StepW.cmd w = 1 then true else if StepW.cmd w = 2 then false else abm) ws
    match StepW.cmd w with
    | 4 => (r.1 + 1, r.2)
    | 6 => (r.1, r.2 + (targets abm w).length)
    | _ => r

/-! ## The steps (R254, R258, R259) -/

/-- A segment of a sequence as it runs: the registers of its bank compute units, whether it is in all-bank mode, the sources of
the BLD steps to come, and the run. DESIGN CHOICE (log 39), safe. -/
structure Bcu where
  regs : BcuRegs
  abm : Bool
  srcs : List (List (BitVec 16))
  run : NearRunSt
  deriving DecidableEq, Repr

/-- The 16-bit lanes of 32 bytes. -/
def halves (bs : List Byte) : List (BitVec 16) := (List.range 16).map fun l => BitVec.ofNat 16 (leNat ((bs.drop (2 * l)).take 2))

/-- One bank's MAC: sixteen fused multiply-adds (R259). -/
def Bcu.mac (u : Bcu) (b acc opr : Nat) (col : List (BitVec 16)) : Bcu :=
  let ck := (b * 8 + acc) * 16
  let y := srange u.regs.o ((b * 16 + opr) * 16) 16
  let zs := (col.zip (y.zip (srange u.regs.c ck 16))).map fun p =>
    w32 (roundVal fp32 0 false 0 (exFma 0 (unpack fp16 p.1.toNat) (unpack fp16 p.2.1.toNat) (unp32 p.2.2)))
  { u with regs := { u.regs with c := sputRange u.regs.c ck (zs.map Prod.fst) },
           run := { u.run with ev := zs.foldl (fun (e : Events) z => e ||| z.2) u.run.ev } }

/-- Bytes of a poisoned sector end the sequence (R260). -/
def Bcu.fail (u : Bcu) (c : Cause) : Bcu := { u with run := { u.run with err := some c } }

/-- A MAC step reads its column in each target bank. -/
def Bcu.macBank (n : NearCmd) (w : StepW) (u : Bcu) (b : Nat) : Bcu :=
  if u.run.err.isSome then u
  else
    let pa := u.run.s.columnPa n b (StepW.row w) (StepW.col w)
    if u.run.s.anyPoison true pa 32 then u.fail .nearPoison
    else u.mac b (StepW.acc w) (StepW.opr w) (halves (srange (w := 8) u.run.s.mem (paOff pa) 32))

/-- An RDACC step writes two columns of a bank, a whole sector, in DRAM (R234, R258). -/
def Bcu.rdBank (n : NearCmd) (w : StepW) (u : Bcu) (b : Nat) : Bcu :=
  if u.run.err.isSome then u
  else
    let lanes := srange u.regs.c ((b * 8 + StepW.acc w) * 16) 16
    let bs (l : List Word) : List Byte := l.flatMap fun x => leBytes 4 x.toNat
    let s := u.run.s.putBytes (u.run.s.columnPa n b (StepW.row w) (StepW.col w)) (bs lanes)
    { u with run := { u.run with s := s, cnt := u.run.cnt + 16 } }

/-- One step. -/
def Bcu.step (n : NearCmd) (u : Bcu) (w : StepW) : Bcu :=
  if u.run.err.isSome then u
  else
    let T := targets u.abm w
    match StepW.cmd w with
    | 1 => { u with abm := true }
    | 2 => { u with abm := false }
    | 4 =>
      let o := T.foldl (fun (o : Sparse 16) b => sputRange o ((b * 16 + StepW.opr w) * 16) (u.srcs.headD [])) u.regs.o
      { u with regs := { u.regs with o := o }, srcs := u.srcs.drop 1 }
    | 5 => T.foldl (Bcu.macBank n w) u
    | 6 => T.foldl (Bcu.rdBank n w) u
    | 7 =>
      let z (b : Nat) : Nat := (b * 8 + StepW.acc w) * 16
      { u with regs := { u.regs with c := T.foldl (fun (c : Sparse 32) b => sclear c (z b) (z b + 16)) u.regs.c } }
    | _ => u

/-! ## Segments (R260, R261) -/

/-- The steps to the next segment boundary, and those after it. -/
def segment : List StepW → List StepW × List StepW
  | [] => ([], [])
  | w :: ws => if StepW.cmd w = 3 then ([], ws) else (w :: (segment ws).1, (segment ws).2)

/-- The BLD sources of a segment are read through the memory-side cache before it starts (R261). -/
def State.bldSources (n : NearCmd) : List StepW → State → Except Cause (List (List (BitVec 16)) × State)
  | [], s => .ok ([], s)
  | w :: ws, s =>
    if StepW.cmd w = 4 then
      match s.nearRead n (StepW.src w * 32) 32 with
      | .error c => .error c
      | .ok (bs, t) =>
        match State.bldSources n ws t with
        | .error c => .error c
        | .ok (rest, u) => .ok (halves bs :: rest, u)
    else State.bldSources n ws s

/-- The registers of the compute units that a sequence has claimed. -/
def State.bcuOf (s : State) (n : NearCmd) : BcuRegs :=
  (tget? (s.stationAt n.stn).bcu (bseqPc n * 4 + bseqSid n)).getD ⟨[], []⟩

def State.setBcu (s : State) (n : NearCmd) (r : BcuRegs) : State :=
  s.setStationAt n.stn { s.stationAt n.stn with bcu := tput (s.stationAt n.stn).bcu (bseqPc n * 4 + bseqSid n) r }

/-- The next segment of a sequence runs; at the boundary the accesses that wait for the banks are served, and the one after it
runs as an event of its own (R261). -/
def State.bseqSegment (s : State) (k : Nat) (n : NearCmd) (ws : List StepW) : State :=
  match State.bldSources n (segment ws).1 s with
  | .error c => s.nearFinish k n (some c) n.ev n.count
  | .ok (srcs, t) =>
    let u := (segment ws).1.foldl (Bcu.step n) ⟨t.bcuOf n, n.abm, srcs, ⟨t, 0#8, 0, none⟩⟩
    let v := u.run.s.setBcu n u.regs
    let n : NearCmd := { n with steps := some (segment ws).2, abm := u.abm, ev := n.ev ||| nearEv u.run.ev, count := n.count + u.run.cnt }
    if u.run.err.isSome || (segment ws).2.isEmpty then v.nearFinish k n u.run.err n.ev n.count
    else { v with near := tput v.near k n }.push (.bseq k)

/-- Check a bank sequence and run its segments (R256 to R263) -/
def execBseq (k : Nat) (s : State) : Host.Outcome State Fault Refusal :=
  s.nearRun 0x10 k fun n =>
    match n.steps with
    | some ws => s.bseqSegment k n ws
    | none =>
      if !bseqClean n then s.nearFinish k n (some .nearFormat) 0#4 0
      else
        match s.preCheck n (bseqSteps n) 0 ⟨false, allClosed, 0⟩ with
        | .error c => s.nearFinish k n (some c) 0#4 0
        | .ok ws =>
          let ch := secondCharge false ws
          (s.chargeWhole n.ctx (ceilDiv ch.1 2 + ch.2)).bseqSegment k n ws

end Sys2Proof.Machine
end

