-- ==== Sys2Proof/Machine/Place.lean ====
section
/-! DEFINITION. The launch packet (R184, R185, R189), the order of blocks (R188), and what a core and a die can take (R10, R24,
R44, R45, R47, R190, R200). -/

namespace Sys2Proof.Machine

/-! ## Packet fields (R184) -/

def Launch.type (l : Launch) : Nat := l.fld 0 8
def Launch.ser (l : Launch) : Bool := l.fld 11 1 == 1
def Launch.trav (l : Launch) : Nat := l.fld 135 2
def Launch.swz (l : Launch) : Nat := l.fld 137 3
def Launch.stages (l : Launch) : Nat := l.fld 144 3
def Launch.vregs (l : Launch) : Nat := 8 * l.fld 192 6
def Launch.annexr (l : Launch) : Nat := 8 * l.fld 198 7
def Launch.args (l : Launch) : Nat := l.fld 320 64
def Launch.saveBase (l : Launch) : Nat := l.fld 576 64
def Launch.depAddr (l : Launch) : Nat := l.fld 640 64
def Launch.depVal (l : Launch) : Nat := l.fld 704 64
def Launch.spre (l : Launch) : Nat := l.fld 960 6
def Launch.saveKiB (l : Launch) : Nat := l.fld 992 32

/-- A stage descriptor (R189). -/
def Launch.stageD (l : Launch) (i : Nat) : Nat := l.fld (832 + 32 * i) 32
def stageEntry (d : Nat) : Nat := d % 2 ^ 20
def stageGroups (d : Nat) : Nat := d / 2 ^ 20 % 16 + 1
def stageRegs (d : Nat) : Nat := d / 2 ^ 24 % 32

/-- How a group starts: its offset, registers a lane, and stage (R189). -/
structure GroupSpec where
  entry : Offset
  regs : Nat
  stage : Option (BitVec 2)
  deriving DecidableEq, Repr

/-- The groups of a block in their order. -/
def Launch.specs (l : Launch) : List GroupSpec :=
  if l.stages = 0 then List.replicate l.groups ⟨0#30, l.vregs, none⟩
  else
    (List.range l.stages).flatMap fun i =>
      let d := l.stageD i
      List.replicate (stageGroups d) ⟨BitVec.ofNat 30 (8 * stageEntry d), 8 * stageRegs d, some (BitVec.ofNat 2 i)⟩

/-! ## The save area's size (R200) -/

/-- V: the largest register count of a group. -/
def Launch.maxRegs (l : Launch) : Nat :=
  (List.range (min l.stages 4)).foldl (fun m i => max m (8 * stageRegs (l.stageD i))) l.vregs

/-- RB. -/
def Launch.recordBytes (l : Launch) : Nat :=
  (0x1000 + l.groups * 0x2000 + l.groups * 128 * (l.maxRegs + l.annexr) + 0x40000 + l.scratch + 4095) / 4096 * 4096

/-- NREC. -/
def Launch.nrec (l : Launch) : Nat := (l.saveKiB * 1024 - 64) / l.recordBytes

/-! ## The checks of R185 -/

/-- Reserved fields of a packet: lowest bit and width. -/
def packetReserved : List (Nat × Nat) :=
  [(28, 4), (63, 1), (95, 1), (127, 1), (147, 13), (189, 3), (212, 12), (540, 4), (574, 1), (966, 26)]

/-- Whether an address meets its alignment and has bits 63:48 zero. -/
def addrOk (a align : Nat) : Bool := a % align == 0 && a < 2 ^ 48

/-- Each check as the lowest bit of its field and whether it fails. DEDUCED (log 45), unsafe. -/
def Launch.checks (l : Launch) (ctx : Nat) : List (Nat × Bool) :=
  let g := 2 ^ l.gangLog
  let k := l.stages
  let used := List.range (min k 4)
  let stage (i : Nat) : Bool :=
    let d := l.stageD i
    if i < k then 2 ^ 31 ≤ d || stageRegs d == 0 || 24 < stageRegs d || !l.lineOk (stageEntry d) else k != 0 && d != 0
  packetReserved.map (fun p => (p.1, l.fld p.1 p.2 != 0))
    ++ [(0, decide (1 < l.type)), (528, l.ctx != ctx), (768, !addrOk l.compl 32)]
    ++ (if l.type = 0 then []
        else
          [(140, l.heat == 3), (132, 4 < l.gangLog || l.count % g != 0), (144, decide (4 < k)),
           (192, l.fld 192 6 == 0 || 24 < l.fld 192 6), (198, 64 < l.fld 198 7 || (l.annexr != 0 && !l.hot)),
           (205, decide (64 < l.tiles)), (960, decide (48 < l.spre)), (256, !addrOk l.code 64), (320, !addrOk l.args 4),
           (384, !addrOk l.const 65536), (448, !addrOk l.stackBase 16), (576, !addrOk l.saveBase 4096),
           (640, !addrOk l.depAddr 8), (544, decide (4 < l.trapOff.toNat % 8)),
           (12, l.podg != 0 && (!l.coop || l.fld 180 9 == 0)),
           (224, decide ((if l.hot then 0x200000 else 0x100000) < l.scratch) || l.scratch % 256 != 0),
           (992, l.saveKiB * 1024 < 64 || l.nrec == 0)]
          ++ (List.range 4).map (fun i => (832 + 32 * i, stage i))
          ++ [(144, k != 0 && used.foldl (fun n i => n + stageGroups (l.stageD i)) 0 != l.groups)])

/-- The lowest failing field's lowest bit, if a check fails. -/
def Launch.badBit (l : Launch) (ctx : Nat) : Option Nat :=
  (((l.checks ctx).filter Prod.snd).map Prod.fst).foldl
    (fun (m : Option Nat) b => match m with | some a => some (min a b) | none => some b) none

/-! ## The order of blocks (R188) -/

/-- Bits of x and j interleaved. -/
def mortonKey (x j : Nat) : Nat :=
  (List.range 32).foldl (fun n i => n + x / 2 ^ i % 2 * 2 ^ (2 * i) + j / 2 ^ i % 2 * 2 ^ (2 * i + 1)) 0

/-- hilbert_d, from s on; the fuel counts the halvings of s. -/
def hilbertKey (q : Nat) : Nat → Nat → Nat → Nat → Nat
  | 0, _, _, d => d
  | n + 1, x, y, d =>
    let s := 2 ^ n
    let rx := x / s % 2
    let ry := y / s % 2
    let d := d + s * s * ((3 * rx) ^^^ ry)
    let x' := if ry = 0 ∧ rx = 1 then q - 1 - x else x
    let y' := if ry = 0 ∧ rx = 1 then q - 1 - y else y
    if ry = 0 then hilbertKey q n y' x' d else hilbertKey q n x' y' d

/-- The least exponent whose power of two is at least n, among the first 32. -/
def log2Up (n : Nat) : Nat := ((List.range 32).find? fun k => n ≤ 2 ^ k).getD 32

/-- The r-th cell in ascending key of a band of X columns and h rows. -/
def bandCell (trav X h r : Nat) : Nat × Nat :=
  if trav = 0 then (r % X, r / X)
  else if trav = 1 then (r / h, r % h)
  else
    let q := log2Up (max X h)
    let key (c : Nat × Nat) : Nat := if trav = 2 then mortonKey c.1 c.2 else hilbertKey (2 ^ q) q c.1 c.2 0
    let cells := (List.range (X * h)).map fun i => (i % X, i / X)
    (cells.find? fun c => (cells.filter fun d => key d < key c).length == r).getD (0, 0)

/-- Block index of dispatch number n. -/
def Launch.coord (l : Launch) (n : Nat) : Nat × Nat × Nat :=
  let X := l.gridX; let Y := l.gridY
  let H := if l.swz = 0 then Y else 2 ^ l.swz
  let z := n / (X * Y)
  let r := n % (X * Y)
  let y0 := r / (X * H) * H
  let c := bandCell l.trav X (min H (Y - y0)) (r % (X * H))
  (c.1, y0 + c.2, z)

/-! ## What a core holds (R10, R44, R47) -/

/-- The runs of entries in use on a port: registers, and annex in the D partner. -/
structure PortUse where
  regs : List (Nat × Nat)
  annex : List (Nat × Nat)
  deriving DecidableEq, Repr

/-- What the blocks of a core use. -/
structure CoreUse where
  blocks : Nat
  low : Nat
  ax : Nat
  tiles : Nat
  ports : List PortUse
  deriving DecidableEq, Repr

def CoreUse.empty : CoreUse := ⟨0, 0, 0, 0, List.replicate 4 ⟨[], []⟩⟩

/-- Scratchpad bytes of a block below and above 1 MiB (R190). -/
def Launch.lowBytes (l : Launch) : Nat := min l.scratch 0x100000
def Launch.highBytes (l : Launch) : Nat := l.scratch - 0x100000

/-- The use of a core as it stands. -/
def State.coreUse (s : State) (c : Nat) : CoreUse :=
  let bs := (tvals s.blocks).filter fun b => b.core == c
  let gs := (tvals s.groups).filter fun g => g.core == c
  { blocks := bs.length
    low := bs.foldl (fun n b => n + (s.lncAt b.launch).lowBytes) 0
    ax := bs.foldl (fun n b => n + (s.lncAt b.launch).highBytes) 0
    tiles := bs.foldl (fun n b => n + (s.lncAt b.launch).tiles) 0
    ports := (List.range 4).map fun p =>
      let on := gs.filter fun g => g.port == p
      ⟨on.map fun g => (g.base, g.alloc), (on.filter fun g => g.annexAlloc != 0).map fun g => (g.annexBase, g.annexAlloc)⟩ }

/-- The lowest run of `n` free entries that starts at a multiple of 8. -/
def freeRun? (used : List (Nat × Nat)) (n : Nat) : Option Nat :=
  ((List.range 64).map (8 * ·)).find? fun b =>
    b + n ≤ 512 && used.all fun u => decide (u.1 + u.2 ≤ b) || decide (b + n ≤ u.1)

/-- A group's runs on a port, if it has room. -/
def PortUse.take (p : PortUse) (regs annex : Nat) : Option (Nat × Nat × PortUse) :=
  if 8 ≤ p.regs.length then none
  else
    match freeRun? p.regs regs, (if annex = 0 then some 0 else freeRun? p.annex annex) with
    | some b, some a => some (b, a, ⟨p.regs ++ [(b, regs)], if annex = 0 then p.annex else p.annex ++ [(a, annex)]⟩)
    | _, _ => none

/-- A choice of ports for groups, if there is one. -/
def choosePorts (annex : Nat) : List GroupSpec → List PortUse → Option (List Nat)
  | [], _ => some []
  | g :: gs, ps =>
    let order := (List.range 8).flatMap fun n => (List.range 4).filter fun i => ((ps[i]?).map fun p => p.regs.length) == some n
    order.findSome? fun i =>
      match (ps[i]?).bind fun p => p.take g.regs annex with
      | some (_, _, p) => (choosePorts annex gs (ps.set i p)).map fun r => i :: r
      | none => none

/-- The sums a block adds stay within a core's limits (R10, R41). -/
def CoreUse.room (u : CoreUse) (l : Launch) : Bool :=
  u.blocks < 8 && (u.ports.foldl (fun n p => n + p.regs.length) 0) + l.groups ≤ 32 && u.low + l.lowBytes ≤ 0x100000
    && u.ax + l.highBytes ≤ 0x100000 && u.tiles + l.tiles ≤ 64

/-- The ports a block takes on a core with some use. -/
def CoreUse.ports? (u : CoreUse) (l : Launch) : Option (List Nat) :=
  if u.room l then choosePorts l.annexr l.specs u.ports else none

/-- The use once the block is there. -/
def CoreUse.add (u : CoreUse) (l : Launch) (ports : List Nat) : CoreUse :=
  { blocks := u.blocks + 1, low := u.low + l.lowBytes, ax := u.ax + l.highBytes, tiles := u.tiles + l.tiles,
    ports := (l.specs.zip ports).foldl (fun (ps : List PortUse) gp =>
      match (ps[gp.2]?).bind fun p => p.take gp.1.regs l.annexr with
      | some (_, _, p) => ps.set gp.2 p
      | none => ps) u.ports }

/-- How many blocks of a launch an empty core holds: at most 8. -/
def Launch.perCore (l : Launch) : Nat :=
  ((List.range 8).foldl (fun (a : Nat × CoreUse) _ =>
    match a.2.ports? l with
    | some ps => (a.1 + 1, a.2.add l ps)
    | none => a) (0, CoreUse.empty)).1

/-! ## Quads and cells (R8, R24, R278) -/

/-- A cell at position (0,0) or (1,1) of its quad (R8). -/
def isA (c : Nat) : Bool := (c % 80 % 8 % 2) == (c % 80 / 8 % 2)

/-- The quads a partition may use. -/
def State.partQuads (s : State) (part : Nat) : List Nat :=
  (s.porch.caps.filter fun p => p.2.type == 1 && p.2.owner == part && p.2.state == 1).map fun p => p.2.id

/-- Cells of a quad that a launch's class may use: A cells only in hot class (R24). -/
def Launch.cells (l : Launch) : Nat := if l.hot then 2 else 4

/-- Blocks of a launch that some quads hold when empty, whole gangs on one die (R10, R23). -/
def Launch.capacity (l : Launch) (qs : List Nat) : Nat :=
  let g := 2 ^ l.gangLog
  [0, 1, 2, 3].foldl (fun n d => n + (qs.filter fun q => q / 20 == d).length * l.cells * l.perCore / g * g) 0

/-- Whether a core is open to a block of a launch: its quad belongs to the partition, it is not lent, and a hot block finds its
A cell with a D partner that holds no block (R24, R190). -/
def State.coreOpen (s : State) (l : Launch) (part c : Nat) : Bool :=
  let d := annexPartner c
  let hotHere := s.blocks.any fun p => p.2.core == c && (s.lncAt p.2.launch).hot
  (s.partQuads part).contains (quadOfCore c) && !(s.coreAt c).lent
    && (!l.hot || (isA c && (hotHere || (!(s.coreAt d).lent && s.blocks.all fun p => p.2.core != d))))

/-! ## A block becomes resident (R10, R12, R41, R44, R45, R189) -/

/-- The checkpoint a group starts with (R196). -/
def startCheckpoint (o : Offset) (s : Sparse 32) : Checkpoint := { Checkpoint.blank with fbp := o, lanes := ~~~ 0#32, s := s }

/-- The preloaded scalar registers. -/
def preloadRegs (ws : List Word) : Sparse 32 := slist 0 ws

/-- A group at its start (R12, R41, R189). -/
def Group.fresh (l : Launch) (ctx launch block num core port : Nat) (sp : GroupSpec) (base annexBase : Nat) (tag : BitVec 6) :
    Group :=
  let regs := preloadRegs l.preload
  { Group.blank with
    ctx := ctx, launch := launch, block := block, num := num, core := core, port := port, base := base, alloc := sp.regs
    annexBase := annexBase, annexAlloc := l.annexr, gtag := tag, stage := sp.stage, s := regs, alive := ~~~ 0#32
    a := { Slot.free with live := true, offset := sp.entry, mask := ~~~ 0#32, ck := startCheckpoint sp.entry regs } }

/-- One group of a block takes its allocation and its number. -/
def State.addGroup (s : State) (lk b num core port gid : Nat) (sp : GroupSpec) : Option State :=
  let l := s.lncAt lk
  match ((s.coreUse core).ports[port]?).bind fun p => p.take sp.regs l.annexr with
  | none => none
  | some (base, ab, _) =>
    match s.nextTag core (port * 512 + base) with
    | none => none
    | some tag =>
      let g := Group.fresh l l.ctx lk b num core port sp base ab tag
      let c := s.coreAt core
      let c : Core := { c with tags := sput c.tags (port * 512 + base) tag }
      let s := s.setCoreAt core (c.wake port ((List.range sp.regs).map fun i => base + i))
      let s := ((s.setGrpAt gid g).trimSpare core).trimSpare (annexPartner core)
      let x := s.blkAt b
      some (s.setBlkAt b { x with groups := x.groups ++ [gid] })

/-- The groups of a block, each with its number and port. -/
def State.addGroups (s : State) (lk b core : Nat) : List (Nat × GroupSpec × Nat × Nat) → Option State
  | [] => some s
  | (num, sp, port, gid) :: rest =>
    match s.addGroup lk b num core port gid sp with
    | some t => t.addGroups lk b core rest
    | none => none

/-- A block becomes resident on a core under a record index, its groups on given ports, under given numbers. The core's L1 keeps
no copy from before: the launch comes after what its packet, its dependence and its serial order acquire (R133, R182, R187). A hot
block's D partner is lent (R24), and its quad takes its setpoint (R286). -/
def State.addBlock (s : State) (lk n recIdx b : Nat) (gids : List Nat) (p : Place) : Option State :=
  let l := s.lncAt lk
  if !s.coreOpen l (s.ctxAt l.ctx).part p.core || !(s.coreUse p.core).room l || p.ports.length != l.groups then none
  else
    let c := l.coord n
    let g := 2 ^ l.gangLog
    let blk : Block :=
      { Block.blank with ctx := l.ctx, launch := lk, n := n, x := c.1, y := c.2.1, z := c.2.2, rank := n % g,
                         gang := n - n % g, recIdx := recIdx, core := p.core }
    let s1 := (s.setCoreAt p.core { s.coreAt p.core with l1 := [] }).setBlkAt b blk
    let d := annexPartner p.core
    let s2 := if l.hot && !(s1.coreAt d).lent then s1.setCoreAt d { s1.coreAt d with lent := true, drowsy := [] } else s1
    match s2.addGroups lk b p.core ((List.range l.groups).zip (l.specs.zip (p.ports.zip gids))) with
    | some t => some (t.resetpoints [quadOfCore p.core])
    | none => none

/-- Numbers for a block and its groups. -/
def State.newIds (s : State) (groups : Nat) : Nat × List Nat × State :=
  (s.next, (List.range groups).map fun i => s.next + 1 + i, { s with next := s.next + 1 + groups })

/-- The lowest record index that no resident or saved block of the launch holds (R14). -/
def State.freeRecord (s : State) (lk : Nat) : Nat :=
  let held := ((tvals s.blocks).filter fun b => b.launch == lk).map Block.recIdx ++ (s.lncAt lk).saved.map SavedBlock.recIdx
  ((List.range (held.length + 1)).find? fun i => !held.contains i).getD 0

/-- Blocks of a launch that are resident or saved. -/
def State.heldBlocks (s : State) (lk : Nat) : Nat :=
  ((tvals s.blocks).filter fun b => b.launch == lk).length + (s.lncAt lk).saved.length

/-- New blocks from a dispatch number on. -/
def State.addBlocks (s : State) (lk : Nat) : Nat → List Place → Option State
  | _, [] => some s
  | n, p :: ps =>
    let ids := s.newIds (s.lncAt lk).groups
    match ids.2.2.addBlock lk n (s.freeRecord lk) ids.1 ids.2.1 p with
    | some t => t.addBlocks lk (n + 1) ps
    | none => none

/-- Each run of `g` places lies on one die (R10). -/
def oneDie (g : Nat) (ps : List Place) : Bool :=
  (List.range ps.length).all fun i =>
    ((ps[i]?).map fun p => p.core / 80) == ((ps[i / g * g]?).map fun p => p.core / 80)

/-! ## What a launch waits for (R187, R193) -/

/-- Every earlier launch of the same queue has completed (R187). -/
def State.serHeld (s : State) (lk : Nat) : Bool :=
  let l := s.lncAt lk
  l.ser && s.launches.any fun p => p.2.src == l.src && p.2.ctx == l.ctx && p.2.order < l.order && p.2.state != .completed

/-- A launch may start as far as its own fields say: it has blocks left, and neither its dependence nor SER holds it (R187). -/
def State.released (s : State) (lk : Nat) : Bool :=
  let l := s.lncAt lk
  (tget? s.launches lk).isSome && l.state != .completed && l.started < l.count && l.status == 0 && l.depOk && !s.serHeld lk

/-- An earlier cooperative launch of the same queue waits at its head until all its blocks fit (R23). -/
def State.coopAhead (s : State) (lk : Nat) : Bool :=
  let l := s.lncAt lk
  s.launches.any fun p => p.2.coop && p.2.src == l.src && p.2.ctx == l.ctx && p.2.order < l.order && s.released p.1

/-- Whether a launch waits for residency: nothing holds its blocks back but resources, and its context where that is pre-empted. -/
def State.waits (s : State) (lk : Nat) : Bool :=
  s.released lk && !s.coopAhead lk && !(s.ctxAt (s.lncAt lk).ctx).killed && s.porch.shed < 3

/-- Whether blocks of a launch may become resident, resources apart. -/
def State.eligible (s : State) (lk : Nat) : Bool := s.waits lk && (s.ctxAt (s.lncAt lk).ctx).resident

/-- How many blocks become resident together: the whole of a cooperative launch, otherwise a gang (R10, R23). -/
def Launch.together (l : Launch) : Nat := if l.coop then l.count else 2 ^ l.gangLog

/-- The next blocks of a launch become resident at some places (R188, R200). -/
def State.makeResident (s : State) (lk : Nat) (ps : List Place) : Option State :=
  let l := s.lncAt lk
  if !s.eligible lk || ps.length != l.together || l.nrec < s.heldBlocks lk + ps.length || !oneDie (2 ^ l.gangLog) ps then none
  else
    match s.addBlocks lk l.started ps with
    | none => none
    | some t =>
      let l := t.lncAt lk
      some { t.setLncAt lk { l with state := .running, started := l.started + ps.length } with
        lastServed := l.ctx
        pods := if l.podg = 0 then t.pods else tput t.pods (l.podKey lk) (((tget? t.pods (l.podKey lk)).getD []) ++ [lk]) }

/-! ## The distributor's choice -/

/-- The cores of some quads on a die, quads that hold only the launch's class first, then empty ones (R24). -/
def State.coreOrder (s : State) (l : Launch) (die : Nat) : List Nat :=
  let qs := (s.partQuads (s.ctxAt l.ctx).part).filter fun q => q / 20 == die
  let heats (q : Nat) : List Nat :=
    ((tvals s.blocks).filter fun b => quadOfCore b.core == q).map fun b => (s.lncAt b.launch).heat
  let same := qs.filter fun q => !(heats q).isEmpty && (heats q).all fun h => h == l.heat
  let none := qs.filter fun q => (heats q).isEmpty
  let mixed := qs.filter fun q => (heats q).any fun h => h != l.heat
  (same ++ none ++ mixed).flatMap coresOfQuad

/-- The first core of a die that takes a block of a launch, with its ports. -/
def State.firstCore (s : State) (lk die : Nat) : Option Place :=
  let l := s.lncAt lk
  (s.coreOrder l die).findSome? fun c =>
    if s.coreOpen l (s.ctxAt l.ctx).part c then ((s.coreUse c).ports? l).map fun ps => ⟨c, ps⟩ else none

/-- Places for `k` blocks on a die, from a dispatch number on. -/
def State.placesOn (s : State) (lk die : Nat) : Nat → Nat → Option (List Place × State)
  | _, 0 => some ([], s)
  | n, k + 1 =>
    match s.firstCore lk die with
    | none => none
    | some p =>
      let ids := s.newIds (s.lncAt lk).groups
      match ids.2.2.addBlock lk n (s.freeRecord lk) ids.1 ids.2.1 p with
      | none => none
      | some t => (t.placesOn lk die (n + 1) k).map fun r => (p :: r.1, r.2)

/-- Places for `m` gangs, each on the first die that takes it. -/
def State.gangPlaces (s : State) (lk g : Nat) : Nat → Nat → Option (List Place)
  | _, 0 => some []
  | n, m + 1 =>
    match [0, 1, 2, 3].findSome? fun d => s.placesOn lk d n g with
    | none => none
    | some r => (r.2.gangPlaces lk g (n + g) m).map fun q => r.1 ++ q

/-- Places for the next blocks of a launch, if it may start and they fit now. DESIGN CHOICE (log 47), unsafe. -/
def State.findPlaces (s : State) (lk : Nat) : Option (List Place) :=
  let l := s.lncAt lk
  let g := 2 ^ l.gangLog
  if !s.eligible lk || l.nrec < s.heldBlocks lk + l.together then none
  else if l.together / g ≤ 4096 then s.gangPlaces lk g l.started (l.together / g) else none

/-- Contexts in turn after the one served last (R193). -/
def State.ctxTurn (s : State) : List Nat :=
  let all := s.ctxs.map Prod.fst
  (all.filter fun c => s.lastServed < c) ++ all.filter fun c => c ≤ s.lastServed

/-- The distributor makes blocks, a gang or a whole cooperative launch resident (R188, R23). -/
def execBlockResident (launch : Nat) (places : List Place) (s : State) : Host.Outcome State Fault Refusal :=
  match s.makeResident launch places with
  | some t => .next t
  | none => .next s

end Sys2Proof.Machine
end

