-- ==== Sys2Proof/Machine/Launch.lean ====
section
/-! DEFINITION. Queues and launches (R182 to R187, R192, R202, R203, R309): the scheduler's reads and writes, acceptance, LAUNCH,
completion and destruction. -/

namespace Sys2Proof.Machine

/-! ## The scheduler's accesses, with the context's translation (R309) -/

/-- Translate for a read (R187, R189, R203): a poisoned sector faults. The scheduler is no core: it walks the tables. -/
def State.sysRead (s : State) (c va : Nat) : Except Cause Nat :=
  match translate s none c va .load with
  | .error e => .error e
  | .ok x => if s.ownPa x.pa && s.poisoned x.pa then .error .poison else .ok x.pa

/-- Whether a read of the scheduler waits: a home slice holds its line, or the line of an entry that its walk reads (R174, R241). -/
def State.sysHeld (s : State) (c va n : Nat) : Bool :=
  s.walkHeld none c [va] || (match translate s none c va .load with | .ok x => s.lineHeld [(x.pa, n)] | .error _ => false)

/-- Bytes at a physical address: another agent's memory is not this state's, and reads as free values.
DESIGN CHOICE (log 14), partly unsafe. -/
def State.anyBytes (s : State) (pa n : Nat) : List Byte :=
  if s.ownPa pa then s.physRead pa n else (List.range n).map fun i => (Config.freeValue (s.free + i)).setWidth 8

/-- Free values are used up where an address is not this package's. -/
def State.usedAt (s : State) (pa n : Nat) : State := if s.ownPa pa then s else { s with free := s.free + n }

/-- Translate for a write: R and W are needed; SIGNAL's atomic needs more (R309). -/
def State.sysWrite (s : State) (c va : Nat) (k : AccKind) : Except Cause Nat :=
  match translate s none c va .load, translate s none c va k with
  | .error e, _ => .error e
  | _, .error e => .error e
  | _, .ok x => .ok x.pa

/-- Bytes to a physical address; what goes to another agent leaves this state. DESIGN CHOICE (log 14), partly unsafe. -/
def State.sysStore (s : State) (pa : Nat) (bs : List Byte) : State := if s.ownPa pa then s.devStore pa bs else s

/-- The record of a scheduler write that faults: SRC 7, PARK 0, fields of a group zero (R309). -/
def State.schedRecord (s : State) (c : Nat) (cause : Cause) (va : Nat) : State :=
  let r : Record :=
    { cause := cause, src := .sched, slot := .A, pcur := 0#2, level := 0#4, park := false, whole := false, ctx := c,
      offset := 0#30, mask := 0#32, va := va, info := 0#32, core := 0, group := 0, gtag := 0#6,
      seq := nextSeq (s.ctxAt c).seq, time := s.timebase, blkX := 0#32, blkY := 0#32, blkZ := 0#32 }
  (s.countRecord c).postRecord c r .none

/-! ## Queue status (R183) -/

def qstateCode : QState → Nat
  | .active => 0 | .error => 1 | .destroyed => 2

/-- The 256 bits of a status record. -/
def Queue.bits (q : Queue) : Nat :=
  q.rdptr % 2 ^ 64 + qstateCode q.state * 2 ^ 64 + (if q.disc then 2 ^ 66 else 0) + q.cause * 2 ^ 72 + q.fva * 2 ^ 128

/-- The scheduler writes a status record that shows a queue as given, as a release at SYS. Where the write faults an ACTIVE queue
enters ERROR and a record is posted; one that was in ERROR posts no further record (R183, R309). -/
def State.putStatus (s : State) (k : Nat) (q : Queue) : State :=
  match s.sysWrite q.ctx q.status .store with
  | .ok pa => (s.setQueueAt k { q with dirty := false }).drainAll.sysStore pa (leBytes 32 q.bits)
  | .error e =>
    let old : Queue := { s.queueAt k with dirty := false }
    if old.state = .active then
      (s.setQueueAt k { old with state := .error, cause := causeCode e, fva := old.status }).schedRecord q.ctx e q.status
    else s.setQueueAt k old

/-- The status record of a queue as it stands. -/
def State.writeStatus (s : State) (k : Nat) : State := s.putStatus k (s.queueAt k)

/-- The status record of a queue is written where it still has to be (R183). -/
def State.statusDue (s : State) (k : Nat) : State :=
  if (s.queueAt k).dirty then s.writeStatus k else s

/-- A queue enters ERROR with a cause and an address, once. -/
def State.queueError (s : State) (k : Nat) (c : Cause) (fva : Nat) : State :=
  let q := s.queueAt k
  if q.state = .active then (s.setQueueAt k { q with state := .error, cause := causeCode c, fva := fva }).writeStatus k else s

/-- The queue of a source enters ERROR, where it is a memory queue. -/
def State.sourceError (s : State) (src : Source) (c : Cause) (fva : Nat) : State :=
  match src with
  | .queue k => s.queueError k c fva
  | .device => s

/-! ## Completion records (R186, R309) -/

def complValid (a : Nat) : Bool := a != 0 && addrOk a 32

/-- Bytes 0 to 15 of a completion record. -/
def completionBits (status cause detail : Nat) (time : DWord) : Nat :=
  status + cause * 2 ^ 8 + detail * 2 ^ 16 + time.toNat * 2 ^ 64

/-- The physical address of a completion record, or the fault of the record's write or of SIGNAL's atomic, with its address
(R309). -/
def State.complAt (s : State) (c compl : Nat) : Except (Cause × Nat) Nat :=
  match s.sysWrite c compl .store with
  | .error e => .error (e, compl)
  | .ok pa =>
    match s.sysWrite c (compl + 16) .atomic with
    | .error e => .error (e, compl + 16)
    | .ok _ => if s.ownPa pa && s.poisoned (pa + 16) then .error (.poison, compl + 16) else .ok pa

/-- Whether the scheduler waits for the SIGNAL of a completion record (R241). -/
def State.complHeld (s : State) (c compl : Nat) : Bool := complValid compl && s.sysHeld c (compl + 16) 8

/-- Write a completion record and add 1 to SIGNAL, as a release at SYS. DESIGN CHOICE (log 46), safe. -/
def State.complete (s : State) (ctx : Nat) (src : Source) (compl status cause detail : Nat) : State :=
  if !complValid compl then s
  else
    match s.complAt ctx compl with
    | .error (e, va) =>
      match src with
      | .queue k => s.queueError k e va
      | .device => s.schedRecord ctx e va
    | .ok pa =>
      let s := s.drainAll
      let sig := leNat (s.anyBytes (pa + 16) 8)
      s.sysStore pa (leBytes 16 (completionBits status cause detail s.timebase) ++ leBytes 8 ((sig + 1) % 2 ^ 64))

/-! ## Acceptance (R185, R189, R23) -/

/-- The preload words, read once: a word's address is 4-byte-aligned, so that it lies in one page (R189). -/
def State.readPreload (s : State) (c args : Nat) : Nat → Nat → Except (Cause × Nat) (List Word)
  | _, 0 => .ok []
  | i, n + 1 =>
    match s.sysRead c (args + 4 * i) with
    | .error e => .error (e, args + 4 * i)
    | .ok pa =>
      match s.readPreload c args (i + 1) n with
      | .error e => .error e
      | .ok ws => .ok (BitVec.ofNat 32 (leNat (State.anyBytes { s with free := s.free + 4 * i } pa 4)) :: ws)

/-- Whether the scheduler waits for what the acceptance of a packet reads: its preload words, and the SIGNAL of its completion record
(R241). -/
def State.acceptHeld (s : State) (ctx : Nat) (pkt : BitVec 1024) : Bool :=
  let l : Launch := { Launch.blank with pkt := pkt }
  s.complHeld ctx l.compl || (List.range l.spre).any fun i => s.sysHeld ctx (l.args + 4 * i) 4

/-- What acceptance says of a packet: its status code for LAUNCH, and the state after it. DESIGN CHOICE (log 76), unsafe: the preload
block is read before it is judged whether the launch fits. -/
def State.accept (s : State) (ctx : Nat) (src : Source) (pkt : BitVec 1024) : Nat × State :=
  let l : Launch := { Launch.blank with pkt := pkt, src := src, order := s.next }
  match l.badBit ctx with
  | some b => (2, s.complete ctx src l.compl 2 0 b)
  | none =>
    if l.type = 0 then (0, s.complete ctx src l.compl 6 0 0)
    else
      match s.readPreload ctx l.args 0 l.spre with
      | .error (e, va) => (0, (s.sourceError src e va).complete ctx src l.compl 7 (causeCode e) 0)
      | .ok ws =>
        let s : State := { s with free := s.free + 4 * l.spre }
        let qs := s.partQuads (s.ctxAt ctx).part
        if qs.isEmpty || l.perCore = 0 then (0, s.complete ctx src l.compl 3 0 0)
        else if l.coop && (l.capacity qs < l.count || l.nrec < l.count) then (0, s.complete ctx src l.compl 1 0 0)
        else
          let k := s.next
          let t : State := { s with
            launches := tput s.launches k { l with preload := ws, depOk := l.depAddr == 0 }
            next := s.next + 1 }
          (0, if l.depAddr = 0 then t else t.push (.dependenceRead k))

/-! ## Queue events -/

/-- The partition OS creates a queue (R182): a base that is not 4 KiB-aligned, a LOG2N outside 4 to 16 and a status address that
is not 32-byte-aligned create none. -/
def execQueueCreate (ctx base log2n status : Nat) (s : State) : Host.Outcome State Fault Refusal :=
  if (tget? s.ctxs ctx).isNone || !addrOk base 4096 || !addrOk status 32 || log2n < 4 || 16 < log2n then .next s
  else
    let k := tfresh s.queues
    .next ((s.setQueueAt k { Queue.blank with ctx := ctx, base := base, log2n := log2n, status := status }).writeStatus k)

/-- A doorbell write through the virtual function of a partition: the new write pointer of one of its queues, or ERROR with
QUEUE_POINTER (R182, R183, R293). DESIGN CHOICE (log 76), unsafe: no access faulted, and FVA is 0. -/
def execDoorbellWrite (bell : Bell) (value : DWord) (s : State) : Host.Outcome State Fault Refusal :=
  let q := bell.queue
  match tget? s.queues q with
  | none => .next s
  | some x =>
    let v := value.toNat
    if (tget? s.porch.parts bell.part).isNone ∨ (s.ctxAt x.ctx).part ≠ bell.part then .next s
    else if x.state ≠ .active ∨ x.destroying then .next s
    else if v < x.wrptr ∨ x.rdptr + 2 ^ x.log2n < v then .next (s.queueError q .queuePointer 0)
    else
      let t := s.setQueueAt q { x with wrptr := v }
      .next (if x.rdptr < v then t.push (.packetAccept q) else t)

/-- The scheduler reads the next packet whole, checks it and accepts it, and writes the status record; a read that faults puts the
queue in ERROR, and one whose line is held waits (R182, R185, R203, R241). -/
def execPacketAccept (q : Nat) (s : State) : Host.Outcome State Fault Refusal :=
  match tget? s.queues q with
  | none => .next s
  | some x =>
    if x.state ≠ .active ∨ x.destroying ∨ x.wrptr ≤ x.rdptr then .next (s.statusDue q)
    else
      let va := x.base + x.rdptr % 2 ^ x.log2n * 128
      if s.sysHeld x.ctx va 128 then .next (s.hold (.packetAccept q))
      else
      match s.sysRead x.ctx va, s.sysRead x.ctx (va + 64) with
      | .error e, _ => .next (s.queueError q e va)
      | _, .error e => .next (s.queueError q e va)
      | .ok pa, _ =>
        let pkt := BitVec.ofNat 1024 (leNat (s.anyBytes pa 128))
        if s.acceptHeld x.ctx pkt then .next (s.hold (.packetAccept q))
        else
        let s := s.usedAt pa 128
        let s := s.setQueueAt q { x with rdptr := x.rdptr + 1 }
        let t := (s.accept x.ctx (.queue q) pkt).2
        let t := if (t.queueAt q).state = .active then t.writeStatus q else t
        .next (if x.rdptr + 1 < x.wrptr then t.push (.packetAccept q) else t)

/-- A launch ends without a block: all its blocks count as ended (R187). -/
def State.abandon (s : State) (k status cause : Nat) : State :=
  let l := s.lncAt k
  (s.setLncAt k { l with state := .running, started := l.count, ended := l.count, saved := [], status := status, cause := cause }).push
    (.launchComplete k)

/-- The scheduler reads the dependence word: the launch is released when it is large enough; a fault completes it READ_FAULT
(R187). -/
def execDependenceRead (launch : Nat) (s : State) : Host.Outcome State Fault Refusal :=
  match tget? s.launches launch with
  | none => .next s
  | some l =>
    if l.depOk ∨ l.state ≠ .waiting then .next s
    else if s.sysHeld l.ctx l.depAddr 8 then .next (s.hold (.dependenceRead launch))
    else
      match s.sysRead l.ctx l.depAddr with
      | .error e => .next ((s.sourceError l.src e l.depAddr).abandon launch 7 (causeCode e))
      | .ok pa =>
        let v := leNat (s.anyBytes pa 8)
        let s := s.usedAt pa 8
        .next (if l.depVal ≤ v then s.setLncAt launch { l with depOk := true } else s)

/-- Whether a dependence read would release a launch now. -/
def State.depDue (s : State) : Option Instr :=
  (s.launches.find? fun p =>
    !p.2.depOk && p.2.state == .waiting && !(s.ctxAt p.2.ctx).killed && !s.sysHeld p.2.ctx p.2.depAddr 8
      && (match s.sysRead p.2.ctx p.2.depAddr with
          | .ok pa => s.ownPa pa && p.2.depVal ≤ leNat (s.physRead pa 8)
          | .error _ => false)).map fun p => Instr.dependenceRead p.1

/-! ## Completion and destruction (R186, R202) -/

/-- A queue being destroyed is DESTROYED once no launch of it is left: its last status write; where that faults it enters ERROR as
with any other (R202, R309). -/
def State.destroyDone (s : State) (src : Source) : State :=
  match src with
  | .device => s
  | .queue q =>
    let x := s.queueAt q
    if x.destroying && x.state != .destroyed && s.launches.all fun p => p.2.src != src then
      s.putStatus q { x with state := .destroyed }
    else s

/-- Whether a launch has nothing left to end or to be performed (R186). -/
def State.launchOver (s : State) (k : Nat) : Bool :=
  let l := s.lncAt k
  l.state == .running && l.ended == l.count && !(s.near.any fun p => p.2.launch == k)
    && !(s.packets.any fun p => p.2.launch == k) && s.blocks.all fun p => p.2.launch != k

/-- A pod set is over once all its launches have become resident in this package and none but the given one is left (R194).
DESIGN CHOICE (log 44), unsafe. -/
def State.podOver (s : State) (k launch : Nat) : Bool :=
  k % 512 ≤ ((tget? s.pods k).getD []).length && s.launches.all fun p => p.1 == launch || !s.inPod k p.1

/-- Barriers whose owning unit goes with a launch: its own, and those of its pod set once every launch of the set has ended
(R70, R194). -/
def State.barEnds (s : State) (launch : Nat) : BarOwner → Bool
  | .block _ => false
  | .quad l _ _ => l == launch
  | .gang l _ => l == launch
  | .launch l => l == launch
  | .pod k => k == launch || (k == (s.lncAt launch).podKey launch && s.podOver k launch)

/-- The launch leaves the package, and its barriers; a pod set is forgotten with its last launch. -/
def State.dropLaunch (s : State) (launch : Nat) : State :=
  let k := (s.lncAt launch).podKey launch
  State.completeBars { s with
    launches := tdel s.launches launch
    bars := s.bars.filter fun b => !s.barEnds launch b.1
    pods := if s.podOver k launch then tdel s.pods k else s.pods }

/-- A launch whose work is all done completes, once the line of its record's SIGNAL is not held (R186, R241). -/
def execLaunchComplete (launch : Nat) (s : State) : Host.Outcome State Fault Refusal :=
  match tget? s.launches launch with
  | none => .next s
  | some l =>
    if !s.launchOver launch then .next s
    else if s.complHeld l.ctx l.compl then .next (s.hold (.launchComplete launch))
    else
      let t := s.complete l.ctx l.src l.compl l.status (if l.status = 4 ∨ l.status = 7 then l.cause else 0) 0
      .next ((t.dropLaunch launch).destroyDone l.src)

/-- The blocks of a launch are killed: their groups stop, and the blocks not started never start (R202). -/
def State.abortLaunch (s : State) (k : Nat) : State :=
  let bs := (s.blocks.filter fun p => p.2.launch == k).map Prod.fst
  let s := bs.foldl State.dropBlock s
  let s : State := { s with walks := s.walks.filter fun p => (tget? s.groups p.2.gid).isSome,
                            packets := s.packets.filter fun p => p.2.launch != k || p.2.phase != .formed }
  (s.abandon k 5 0).completeBars

/-- A packet whose read had begun is discarded: RDPTR counts it and DISC is set. The scheduler begins to read a packet as soon as
the write pointer exceeds its index (R182, R202). DEDUCED (log 81), unsafe. -/
def Queue.discard (q : Queue) : Queue :=
  if q.state = .active ∧ q.rdptr < q.wrptr then { q with rdptr := q.rdptr + 1, disc := true, dirty := true } else q

/-- The partition OS destroys a queue, with or without the abort flag (R202). -/
def execQueueDestroy (q : Nat) (abort : Bool) (s : State) : Host.Outcome State Fault Refusal :=
  match tget? s.queues q with
  | none => .next s
  | some x =>
    if x.destroying then .next s
    else
      let t := s.setQueueAt q { x.discard with destroying := true }
      let ls := (t.launches.filter fun p => p.2.src == .queue q && p.2.state != .completed).map Prod.fst
      let t := if abort then ls.foldl State.abortLaunch t else t
      .next ((t.destroyDone (.queue q)).statusDue q)

/-! ## LAUNCH (R192) -/

/-- The packet in 32 scalar registers. -/
def Group.packet (g : Group) (o : Opd) : BitVec 1024 :=
  BitVec.ofNat 1024 ((List.range 32).foldr (fun i a => (g.rdS o i).toNat + 2 ^ 32 * a) 0)

/-- CTX is the issuing context, and PRIO at most the own launch's. -/
def launchPacket (pkt : BitVec 1024) (ctx prio : Nat) : BitVec 1024 :=
  let p := min (pkt.extractLsb' 8 2).toNat prio
  pkt.extractLsb' 540 484 ++ BitVec.ofNat 12 ctx ++ pkt.extractLsb' 10 518 ++ BitVec.ofNat 2 p ++ pkt.extractLsb' 0 8

/-- Launches the context has made with LAUNCH that have not completed. -/
def State.deviceQueue (s : State) (c : Nat) : Nat :=
  (s.launches.filter fun p => p.2.src == .device && p.2.ctx == c && p.2.state != .completed).length

/-- R192 -/
def execLaunch (x : EngF) (s : State) : Host.Outcome State Fault Refusal :=
  engIssue eLaunch 1 x (fun s =>
    let c := s.grp.ctx
    let pkt := launchPacket (s.grp.packet x.b) c s.lnc.prio
    let t := s.setSlot { s.slot with crossed := true }
    if 64 ≤ s.deviceQueue c then .done (t.setS x.d 1#32)
    else if s.acceptHeld c pkt then .wait s
    else
      let r := t.drainAll.accept c .device pkt
      .done (r.2.setS x.d (BitVec.ofNat 32 r.1))) s

end Sys2Proof.Machine
end

