-- ==== Sys2Proof/Machine/Save.lean ====
section
/-! DEFINITION. The save area (R200), what of each slot is saved (R199), and how a block's record is written and read back
(R201). -/

namespace Sys2Proof.Machine

/-! ## Bytes of a record -/

/-- A piece of a record: its offset, and its bytes. -/
abbrev Piece := Nat × List Byte

/-- `n` words in memory order. -/
def wordBytes (n : Nat) (f : Nat → Word) : List Byte := (List.range n).flatMap fun i => leBytes 4 (f i).toNat
/-- The word at an offset of some bytes. -/
def wordIn (bs : List Byte) (off : Nat) : Word := BitVec.ofNat 32 (leNat ((bs.drop off).take 4))
/-- The words of some bytes. -/
def wordsIn : Nat → List Byte → List Word
  | 0, _ => []
  | n + 1, bs => BitVec.ofNat 32 (leNat (bs.take 4)) :: wordsIn n (bs.drop 4)

/-- Where the parts of a record begin (R200). -/
def recGroup (g : Nat) : Nat := 0x1000 + g * 0x2000
def Launch.recEntry (l : Launch) (g e : Nat) : Nat :=
  0x1000 + l.groups * 0x2000 + (g * (l.maxRegs + l.annexr) + e) * 128
def Launch.recAcc (l : Launch) (a : Nat) : Nat :=
  0x1000 + l.groups * 0x2000 + l.groups * 128 * (l.maxRegs + l.annexr) + a * 65536
def Launch.recScratch (l : Launch) : Nat := l.recAcc 4
/-- Virtual address of a block's record. -/
def Launch.recVa (l : Launch) (recIdx : Nat) : Nat := l.saveBase + 64 + recIdx * l.recordBytes

/-! ## What a slot is saved as (R199) -/

/-- The live entries a slot pushed, each with its index. -/
def Group.entriesOf (g : Group) (sel : SlotId) : List (Nat × StackEntry) :=
  (List.range g.stack.length).filterMap fun i =>
    (g.stack[i]?).bind fun e => if !e.dead && e.slot == sel then some (i, e) else none

/-- Those beyond the count its checkpoint recorded, which the rewind marks dead. -/
def Group.beyond (g : Group) (sel : SlotId) : List (Nat × StackEntry) := (g.entriesOf sel).drop (g.slot sel).ck.count

/-- The lanes a flashback slot resumes with: those of its checkpoint that are still its own. -/
def Group.backMask (g : Group) (sel : SlotId) : Lanes :=
  (g.slot sel).ck.lanes &&& g.alive
    &&& (g.beyond sel).foldl (fun (m : Lanes) e => m ||| e.2.mask) (g.slot sel).mask

/-- Whether a slot is saved whole. -/
def Group.wholeSlot (g : Group) (sel : SlotId) : Bool := (g.slot sel).crossed || g.backMask sel == 0#32

/-- The pending join of a flashback slot. -/
def Group.backJoin (g : Group) (sel : SlotId) : Option Offset :=
  if (g.slot sel).ck.preSplit && g.fusion == .split then g.splitJoin else (g.slot sel).ck.pjoin

/-- All ones where there is none. -/
def joinBits (o : Option Offset) : Nat := match o with | some x => x.toNat | none => 2 ^ 30 - 1
def joinFrom (n : Nat) : Option Offset := if n = 2 ^ 30 - 1 then none else some (BitVec.ofNat 30 n)

def fusionCode : Fusion → Nat
  | .fused => 0 | .split => 1 | .parked => 2
def fusionOf (n : Nat) : Fusion := if n = 0 then .fused else if n = 1 then .split else .parked

/-- The slot state of the layout. -/
def Group.slotBits (g : Group) (sel : SlotId) : Nat :=
  let t := g.slot sel
  if !t.live then 0
  else
    let whole := g.wholeSlot sel
    let kind := if whole then 3 else if t.ck.recipe.isNone then 2 else 1
    kind * 2 ^ 10 + (if whole && t.parked then 2 ^ 13 else 0) + (if whole then t.pcur.toNat else 0) * 2 ^ 14
      + (if whole then t.offset else t.ck.fbp).toNat * 2 ^ 16 + (if whole then t.mask else g.backMask sel).toNat * 2 ^ 46
      + joinBits (if whole then t.pjoin else g.backJoin sel) * 2 ^ 78 + joinBits t.ck.recipe * 2 ^ 108
      + t.ck.mask.toNat * 2 ^ 138 + t.ck.base % 256 * 2 ^ 146 + t.ck.count % 65536 * 2 ^ 154

/-! ## A group's pieces -/

/-- Plane numbers, two bits a lane. -/
def planeBits (p : Sparse 2) : Nat := allLanes.foldr (fun L a => (sget p L).toNat + 4 * a) 0

/-- The scalar part of a checkpoint. -/
def ckPieces (base : Nat) (s m : Sparse 32) (p : Sparse 2) (xb xl xi : Sparse 32) : List Piece :=
  [(base, wordBytes 48 fun n => sget s n), (base + 0xC0, wordBytes 7 fun n => sget m (n + 1)), (base + 0xE0, leBytes 8 (planeBits p)),
   (base + 0x100, wordBytes 4 (sget xb)), (base + 0x110, wordBytes 4 (sget xl)), (base + 0x120, wordBytes 128 (sget xi))]

/-- One entry of a per-lane file. -/
def laneBytes (v : Sparse 32) (e : Nat) : List Byte := wordBytes 32 fun L => sget v (e * 32 + L)

def slotOff : SlotId → Nat → Nat → Nat
  | .A, a, _ => a
  | .B, _, b => b

/-- A slot's checkpoint, or the values themselves where it is saved whole, and its sunk results. -/
def Group.slotPieces (g : Group) (sel : SlotId) (base : Nat) (sunk : Option SunkRes) : List Piece :=
  let t := g.slot sel
  if !t.live then []
  else
    let ck := base + slotOff sel 0x200 0x600
    let vs := base + slotOff sel 0xA00 0xE00
    let rs := base + slotOff sel 0x1200 0x1500
    (if g.wholeSlot sel then ckPieces ck g.s g.m g.planes g.xbase g.xlimit g.xindex
      else ckPieces ck t.ck.s t.ck.m t.ck.planes t.ck.xbase t.ck.xlimit t.ck.xindex
        ++ ((List.range 8).filter fun k => t.ck.mask.getLsbD k).map fun k => (vs + 128 * k, laneBytes t.ck.regs (t.ck.base + k)))
      ++ match sunk with
         | none => []
         | some r =>
           ([r.out0, r.out1, r.log].zip [0, 128, 256]).filterMap fun p => p.1.map fun e => (rs + p.2, laneBytes g.v e)

/-- A group's record and, where a slot is saved whole, its registers and annex entries. -/
def Group.pieces (g : Group) (l : Launch) (sunkA sunkB : Option SunkRes) : List Piece :=
  let base := recGroup g.num
  let beyondA := if g.a.live && !g.wholeSlot .A then g.beyond .A else []
  let beyondB := if g.b.live && !g.wholeSlot .B then g.beyond .B else []
  let dead := (beyondA ++ beyondB).map Prod.fst
  let sp := 16 * (dropDead ((List.range g.stack.length).filterMap fun i =>
    (g.stack[i]?).map fun e => if dead.contains i then { e with dead := true } else e)).length
  let hdr := g.gtag.toNat + fusionCode g.fusion * 2 ^ 6 + joinBits g.splitJoin * 2 ^ 10 + joinBits g.outerJoin * 2 ^ 40
    + sp * 2 ^ 70 + g.trapEn.toNat * 2 ^ 102 + g.fpMode.toNat * 2 ^ 134
  let whole := (g.a.live && g.wholeSlot .A) || (g.b.live && g.wholeSlot .B)
  [(base, leBytes 64 hdr), (base + 0x40, leBytes 64 (g.slotBits .A)), (base + 0x80, leBytes 64 (g.slotBits .B)),
   (base + 0xC0, leBytes 64 (planeBits g.planes)), (base + 0x100, wordBytes 32 (sget g.laneFlags))]
    ++ g.slotPieces .A base sunkA ++ g.slotPieces .B base sunkB
    ++ if whole then
        ((List.range g.alloc).map fun e => (l.recEntry g.num e, laneBytes g.v e))
          ++ (List.range g.annexAlloc).map fun e => (l.recEntry g.num (l.maxRegs + e), laneBytes g.annex e)
       else []

/-! ## A block's pieces -/

/-- Ranges of the tile entries in EMPTY, which the scratchpad image leaves out. -/
def Block.emptyRanges (b : Block) : List (Nat × Nat) :=
  ((tvals b.tiles).filter fun t => t.defd && t.state == .empty).map fun t => (t.base, t.size)

/-- Scratchpad granules of 256 bytes that the image holds. -/
def Block.granules (b : Block) (scratch : Nat) : List Nat :=
  (List.range ((scratch + 255) / 256)).filter fun i => (b.emptyRanges).all fun r => decide (256 * i < r.1) || decide (r.1 + r.2 ≤ 256 * i)

/-- TMASK: the defined tiles that hold something. -/
def Block.tmask (b : Block) : Nat :=
  b.tiles.foldl (fun n p => if p.2.defd && p.2.state != .empty && p.1 < 64 then n + 2 ^ p.1 else n) 0

/-- A block's record but for its groups and its barrier state. -/
def State.blockPieces (s : State) (b : Nat) : List Piece :=
  let x := s.blkAt b
  let l := s.lncAt x.launch
  let c := s.coreAt x.core
  let own := c.mxOwner == some b
  let amask := if own then x.accDirty.toNat else 0
  let hdr := x.x + x.y * 2 ^ 32 + x.z * 2 ^ 64 + x.rank * 2 ^ 96 + x.tmask * 2 ^ 128 + amask * 2 ^ 192 + l.groups * 2 ^ 224
  [(0, leBytes 64 hdr), (0x40, (List.range 64).flatMap fun t => leBytes 16 ((tget? x.tiles t).getD Tile.blank).bits),
   (0x440, leBytes 64 (leNat (wordBytes 4 fun a => if own then (c.accAt a).word else 0#32)))]
    ++ (((List.range 4).filter fun a => own && x.accDirty.getLsbD a).map fun a => (l.recAcc a, wordBytes 16384 (sget (c.accAt a).words)))
    ++ (x.granules l.scratch).map fun i =>
        (l.recScratch + 256 * i, (List.range (min 256 (l.scratch - 256 * i))).map fun k => sget x.scratch (256 * i + k))

/-- Write bytes at a virtual address of a context; what does not translate is not written. -/
def State.saveBytes (s : State) (c va : Nat) (bs : List Byte) : State :=
  ((rowPieces va bs.length).foldl (fun (a : State × List Byte) p =>
    ((match a.1.sysWrite c p.1 .store with
      | .ok pa => a.1.sysStore pa (a.2.take p.2)
      | .error _ => a.1), a.2.drop p.2)) (s, bs)).1

/-- Bytes of a save area as they read; none where a byte does not translate. -/
def State.savedBytes (s : State) (c base off n : Nat) : Option (List Byte) :=
  (rowPieces (base + off) n).foldl (fun (a : Option (List Byte)) p =>
    match a, s.sysRead c p.1 with
    | some bs, .ok pa =>
      some (bs ++ if s.ownPa pa then s.physRead pa p.2 else freeRun (s.free + (p.1 - base)) p.2)
    | _, _ => none) (some [])

/-! ## Reading a record back -/

/-- Bits of a number. -/
def bitsN (x lo n : Nat) : Nat := x / 2 ^ lo % 2 ^ n

/-- What a slot state reads as. -/
structure SlotRead where
  kind : Nat
  parked : Bool
  pcur : BitVec 2
  offset : Offset
  mask : Lanes
  pjoin : Option Offset
  recipe : Option Offset
  ckMask : BitVec 8
  ckBase : Nat
  depth : Nat
  deriving DecidableEq, Repr

def slotRead (x : Nat) : SlotRead :=
  { kind := bitsN x 10 3, parked := bitsN x 13 1 == 1, pcur := BitVec.ofNat 2 (bitsN x 14 2),
    offset := BitVec.ofNat 30 (bitsN x 16 30), mask := BitVec.ofNat 32 (bitsN x 46 32), pjoin := joinFrom (bitsN x 78 30),
    recipe := joinFrom (bitsN x 108 30), ckMask := BitVec.ofNat 8 (bitsN x 138 8), ckBase := bitsN x 146 8, depth := bitsN x 154 16 }

/-- The scalar part of a checkpoint area: 0x320 bytes. -/
def ckRead (r : SlotRead) (preSplit : Bool) (bs : List Byte) (regs : Sparse 32) : Checkpoint :=
  let ws (off n : Nat) : Sparse 32 := slist 0 (wordsIn n (bs.drop off))
  let ps := leNat ((bs.drop 0xE0).take 8)
  { fbp := r.offset, recipe := if r.kind = 1 then r.recipe else none, base := r.ckBase, mask := r.ckMask, lanes := r.mask,
    pjoin := r.pjoin, regs := regs, s := ws 0 48, m := slist 1 (wordsIn 7 (bs.drop 0xC0)), xbase := ws 0x100 4,
    xlimit := ws 0x110 4, xindex := ws 0x120 128, planes := slist 0 (allLanes.map fun L => BitVec.ofNat 2 (bitsN ps (2 * L) 2)),
    count := r.depth, preSplit := preSplit }

/-- A tile entry as the area holds it. -/
def tileRead (x : Nat) : Tile :=
  { err := bitsN x 87 1 == 1, defd := bitsN x 86 1 == 1, owner := BitVec.ofNat 3 (bitsN x 83 3), phase := bitsN x 82 1 == 1,
    state := match bitsN x 80 2 with | 0 => .empty | 1 => .filling | 2 => .ready | _ => .draining,
    pitch := bitsN x 64 16, size := bitsN x 32 32, base := bitsN x 0 32, pins := 0, relPending := false }

/-- Mask registers: the bits of some lanes come from another file. -/
def maskMerge (old new : Sparse 32) (m : Lanes) : Sparse 32 :=
  sputMany old (fun n => (sget old n &&& ~~~ m) ||| (sget new n &&& m)) [1, 2, 3, 4, 5, 6, 7]

/-- The lanes of a slot: its own and those of its stack entries. -/
def slotLanes (sel : SlotId) (mask : Lanes) (st : List StackEntry) : Lanes :=
  st.foldl (fun (m : Lanes) e => if !e.dead && e.slot == sel then m ||| e.mask else m) mask

/-- The state of a restored slot (R201). -/
def slotBack (r : SlotRead) (sv : SavedSlot) (ck : Checkpoint) : Slot :=
  if r.kind = 0 then Slot.free
  else if r.kind = 3 then
    { Slot.free with
      live := true, offset := r.offset, mask := r.mask, pjoin := r.pjoin, pcur := r.pcur, parked := r.parked,
      wasParked := sv.wasParked, stopped := sv.stopped, inTrap := sv.inTrap, crossed := true, meet := sv.meet, waitUni := sv.waitUni, paid := sv.paid,
      doneL := sv.doneL, left := if sv.doneL = 0#32 ∧ sv.got = [] then 0#32 else r.mask, got := sv.got, landed := sv.landed, deferred := sv.deferred, trap := sv.trap, ck := { Checkpoint.blank with fbp := r.offset, lanes := r.mask } }
  else
    { Slot.free with
      live := true, offset := if r.kind = 1 then r.recipe.getD r.offset else r.offset, mask := r.mask, pjoin := r.pjoin,
      wasParked := sv.wasParked, deferred := sv.deferred, ck := ck }

/-- A flashback slot's values reach the group: its lanes take the checkpoint's registers, every other one zero (R201); what the
group's lanes share comes from the checkpoint too, unless the other slot is whole. DEDUCED (log 49), unsafe. -/
def Group.flash (g : Group) (shared : Bool) (sel : SlotId) (r : SlotRead) (ck : Checkpoint) : Group :=
  if r.kind = 1 ∨ r.kind = 2 then
    let m := slotLanes sel r.mask g.stack
    { g with v := laneMerge g.v ck.regs m, annex := laneMerge g.annex [] m, s := if shared then ck.s else g.s,
             m := maskMerge g.m ck.m m, xbase := if shared then ck.xbase else g.xbase,
             xlimit := if shared then ck.xlimit else g.xlimit, xindex := laneMerge g.xindex ck.xindex m,
             planes := laneMerge g.planes ck.planes m }
  else g

/-- A whole slot's values that the group shares are the group's (R201). -/
def Group.wholeShared (g : Group) (r : SlotRead) (ck : Checkpoint) (planes : Sparse 2) : Group :=
  if r.kind = 3 then
    let m := ~~~ 0#32
    { g with s := ck.s, m := maskMerge g.m ck.m m, xbase := ck.xbase, xlimit := ck.xlimit, xindex := ck.xindex, planes := planes }
  else g

/-- Sunk results go back where the resumption point lies after the header: in the order in which the slot issued, the checkpoint's FBP
came after it (R180). -/
def Group.sunkBack (g : Group) (r : SlotRead) (sunk : Option SunkRes) (res : Nat → List Word) : Group :=
  match sunk with
  | none => g
  | some x =>
    if r.kind = 0 || r.kind = 3 || !x.back then g
    else
      ([x.out0, x.out1, x.log].zip [0, 1, 2]).foldl (fun (g : Group) p =>
        match p.1 with
        | none => g
        | some e => { g with v := sputMany g.v (fun k => (res p.2).getD (k % 32) 0#32) ((lanesOf x.lanes).map fun L => e * 32 + L) }) g

end Sys2Proof.Machine
end

