-- ==== Sys2Proof/Machine/Preempt.lean ====
section
/-! DEFINITION. Pre-emption and resumption (R193, R198 to R201, R180, R225, R292). -/

namespace Sys2Proof.Machine

/-! ## What a core finishes and what it cancels (R198) -/

/-- Groups of a context. -/
def State.groupsOf (s : State) (c : Nat) : List Nat := (s.groups.filter fun p => p.2.ctx == c).map Prod.fst
def State.blocksOf (s : State) (c : Nat) : List Nat := (s.blocks.filter fun p => p.2.ctx == c).map Prod.fst

/-- The slot that waits for a return, if its group has one. -/
def Group.waiter (g : Group) (k : Nat) : Option SlotId :=
  if g.a.pending.contains k then some .A else if g.b.pending.contains k then some .B else none

/-- A response that comes while the core waits: from this package's memory, otherwise free data. -/
def State.anyResp (s : State) (o : Out) : List LaneResp :=
  if s.homeReq o then s.homeResp o
  else (o.split (freeRun s.free (o.lanes.length * sizeBytes o.size))).map .ok

/-- Crossed slots wait for their requests in flight; the loads of the others are abandoned (R198). -/
def State.settleOuts (s : State) (c : Nat) : State :=
  (s.outs.filter fun p => (s.grpAt p.2.gid).ctx == c).foldl (fun (t : State) p =>
    match (t.grpAt p.2.gid).waiter p.1 with
    | some sel =>
      if ((t.grpAt p.2.gid).slot sel).crossed then
        let u := t.respond p.1 p.2 (t.anyResp p.2)
        if s.homeReq p.2 then u else { u with free := u.free + p.2.lanes.length * sizeBytes p.2.size }
      else t
    | none => t) s

def nextOf (s : State) : Host.Outcome State Fault Refusal → State
  | .next t => t
  | _ => s

/-- A packet that its home has not accepted is cancelled: its lanes run the header again (R180). -/
def State.cancelPacket (s : State) (k : Nat) (p : Packet) : State :=
  let g := s.grpAt p.gid
  let less (x : Slot) : Slot := { x with pending := x.pending.filter fun j => j != k, paid := if x.pending.contains k then [] else x.paid }
  { s.setGrpAt p.gid { g with a := less g.a, b := less g.b } with packets := tdel s.packets k }

/-- Accepted packets run and land, those whose line another package or the host holds on free values; formed ones are cancelled
(R180). -/
def State.settlePackets (s : State) (c : Nat) : State :=
  let ps := s.packets.filter fun p => (tget? s.groups p.2.gid).isSome && p.2.ctx == c
  let s := ps.foldl (fun (t : State) p =>
    if p.2.phase = .formed then t.cancelPacket p.1 p.2
    else if t.farPacket p.2 then
      (State.sinkFar { t with free := t.free + 128 } p.1 p.2 (.ok (freeRun t.free 128, [])))
    else nextOf t (execSinkPacketExecute p.1 t)) s
  s

/-- The packets of a slot that have run without a fault and are about to land. -/
def State.landing (s : State) (gid : Nat) (sel : SlotId) : List Packet :=
  tvals (s.packets.filter fun p =>
    p.2.phase == .executed && p.2.bad.isNone && p.2.gid == gid && ((s.grpAt gid).slot sel).pending.contains p.1)

/-- Lanes of the header at which a slot stands that have landed or are about to. -/
def State.landedLanes (s : State) (gid : Nat) (sel : SlotId) : Lanes :=
  let t := (s.grpAt gid).slot sel
  (s.landing gid sel).foldl (fun (m : Lanes) q => m ||| q.lanes)
    (t.landedAt t.offset)

/-- Whether a slot's checkpoint will lie after the header whose packets are about to land: an FBP has issued beyond it, and every packet
has run (R180). -/
def State.backAfter (s : State) (gid : Nat) (sel : SlotId) : Bool :=
  let t := (s.grpAt gid).slot sel
  match tget? s.ahead (aheadKey gid sel) with
  | none => false
  | some a => a.head.sink && a.head.fbp && a.head.off == t.offset && t.pending.length == (s.landing gid sel).length
      && (t.mask &&& ~~~ s.landedLanes gid sel) == 0#32

/-- The results of the packets about to land for a slot, by header. -/
def State.sunkOf (s : State) (gid : Nat) (sel : SlotId) : Option SunkRes :=
  match s.landing gid sel with
  | [] => none
  | p :: _ =>
    let v (c : BitVec 8) : Option Nat := if c.toNat < 192 then some c.toNat else none
    some { back := s.backAfter gid sel, out0 := ((sinkOuts p.hdr)[0]?).bind v, out1 := ((sinkOuts p.hdr)[1]?).bind v,
           log := v p.hdr.log, lanes := s.landedLanes gid sel }

/-- A packet has run for a slot that resumes at its header or before it: neither results nor landing codes nor events come back (R180). -/
def State.forgetPacket (s : State) (k : Nat) (p : Packet) : State :=
  let g := s.grpAt p.gid
  let less (x : Slot) : Slot := { x with pending := x.pending.filter fun j => j != k }
  { s.setGrpAt p.gid { g with a := less g.a, b := less g.b } with packets := tdel s.packets k }

/-- Executed packets of a context land, where their slot is crossed, resumes after the header, or has a fault to take (R179, R180). -/
def State.landPackets (s : State) (c : Nat) : State :=
  (s.packets.filter fun p => p.2.phase == .executed && p.2.ctx == c && (tget? s.groups p.2.gid).isSome).foldl
    (fun (t : State) p =>
      let g := s.grpAt p.2.gid
      match g.waiter p.1 with
      | none => nextOf t (execSinkPacketLand p.1 t)
      | some sel =>
        if (g.slot sel).crossed || s.backAfter p.2.gid sel || p.2.bad.isSome then nextOf t (execSinkPacketLand p.1 t)
        else t.forgetPacket p.1 p.2) s

/-- What slots of a context have issued beyond what is complete is discarded. -/
def State.dropAhead (s : State) (c : Nat) : State :=
  (s.ahead.filter fun p => (s.grpAt (p.1 / 2)).ctx == c).foldl (fun (t : State) p => t.aheadDrop (p.1 / 2) p.2) s

/-- The commands of a context that stand at the head of a core's matrix queue run in turn, each while the later ones are queued: what an
ACCZ with FREE releases is held anew by those (R198, R215). -/
def State.drainCmds (core c : Nat) : Nat → State → State
  | 0, s => s
  | n + 1, s =>
    match (s.coreAt core).mxQ with
    | [] => s
    | m :: rest =>
      if (s.blkAt m.block).ctx = c then State.drainCmds core c n ((s.setCoreAt core { s.coreAt core with mxQ := rest }).runCmd core m) else s

/-- A held follow-on of the context that leaves: it joins and runs where it could join now, and is dropped otherwise, as its copy is
cancelled (R198, R212). DEDUCED (log 50), unsafe. -/
def State.settleFollow (core : Nat) (s : State) (m : MxCmd) : State :=
  let t := s.setCoreAt core { s.coreAt core with followQ := (s.coreAt core).followQ.erase m }
  if s.followReady core m then
    let c := t.coreAt core
    State.runCmd ((t.setCoreAt core { c with mxOwner := some m.block }).modTiles m.block (m.op.tiles.1.drop 1) Tile.pin) core m
  else t.modTile m.block ((m.op.tiles.1)[0]?.getD 0) Tile.unpin

/-- Accepted matrix work of a context finishes on one of its cores: its commands, then its follow-ons; another context's stay where they
are (R198, R212). -/
def State.settleMatrix (c : Nat) (s : State) (core : Nat) : State :=
  let t := State.drainCmds core c (s.coreAt core).mxQ.length s
  ((t.coreAt core).followQ.filter fun m => (t.blkAt m.block).ctx == c).foldl (State.settleFollow core) t

/-- Pending partials are promoted (R225). -/
def State.settleAccs (s : State) (core : Nat) : State :=
  let c := s.coreAt core
  s.setCoreAt core { c with accs := tmap c.accs fun _ (a : Acc) => a.promote }

/-- A cancelled job's tile (R198, R206). -/
def Tile.cancel (t : Tile) : Tile :=
  let u : Tile :=
    match t.state with
    | .filling => { t with state := .empty, phase := !t.phase }
    | .draining => { t with state := .ready }
    | _ => t
  { u with pins := 0 }

/-- The copy jobs of a block are cancelled; a transition that waited for their pins takes place. -/
def State.cancelJobs (s : State) (b : Nat) : State :=
  let x := s.blkAt b
  let c := s.coreAt x.core
  let s := s.setCoreAt x.core { c with copyQ := c.copyQ.filter fun p => p.2.block != b }
  s.setBlkAt b { x with tiles := tmap x.tiles fun _ (t : Tile) =>
    let u := t.cancel
    if u.relPending then u.release else u }

/-! ## Saving (R199, R200) -/

/-- What the device keeps of a slot. -/
def State.saveSlot (g : Group) (sel : SlotId) (sunk : Option SunkRes) : SavedSlot :=
  let t := g.slot sel
  { inTrap := t.inTrap, meet := t.meet, waitUni := t.waitUni, deferred := t.deferred, stopped := t.stopped, trap := t.trap, paid := t.paid,
    doneL := t.doneL, got := t.got, wasParked := t.wasParked, landed := t.landed, preSplit := t.ck.preSplit, sunk := sunk }

/-- The stack after a rewind: entries beyond the recorded count are dead (R199). -/
def Group.rewound (g : Group) : List StackEntry :=
  let dead (sel : SlotId) : List Nat :=
    if (g.slot sel).live && !g.wholeSlot sel then (g.beyond sel).map Prod.fst else []
  let ds := dead .A ++ dead .B
  dropDead ((List.range g.stack.length).filterMap fun i =>
    (g.stack[i]?).map fun e => if ds.contains i then { e with dead := true } else e)

/-- The groups of a block with the sunk results of their slots. -/
abbrev Sunks := List (Nat × Option SunkRes × Option SunkRes)

def sunkAt (k : Sunks) (g : Nat) : Option SunkRes × Option SunkRes :=
  match k.find? fun p => p.1 == g with
  | some p => p.2
  | none => (none, none)

/-- A block's record is written and the block leaves its core, generation tags advancing. DESIGN CHOICE (log 48), unsafe. -/
def State.saveBlock (s : State) (k : Sunks) (b : Nat) : State :=
  let x := s.blkAt b
  let l := s.lncAt x.launch
  let gs := x.groups.map fun g => (g, s.grpAt g)
  let unit := (s.coreAt x.core).mxOwner == some b
  let s := gs.foldl (fun (t : State) p => t.wakeEntries p.2 p.2.entries) s
  let ps : List Piece := s.blockPieces b ++ gs.flatMap fun p => p.2.pieces l (sunkAt k p.1).1 (sunkAt k p.1).2
  let ps := ps ++ [(0x800, freeRun s.free 2044)]
  let s : State := { s with free := s.free + 2044 }
  let word := Config.saveCheck (ps.flatMap Prod.snd)
  let va := l.recVa x.recIdx
  let s := (ps ++ [(0xFFC, leBytes 4 word.toNat)]).foldl (fun (t : State) p => t.saveBytes x.ctx (va + p.1) p.2) s
  let s := gs.foldl (fun (t : State) p =>
    let st := p.2.rewound
    (List.range st.length).foldl (fun (t : State) i =>
      match st[i]? with | some e => t.writeEntry p.2 i e | none => t) t) s
  let gran := x.granules l.scratch
  let sb : SavedBlock :=
    { n := x.n, recIdx := x.recIdx, block := b, quad := quadOfCore x.core, unit := unit,
      poison := x.scratchPoison.filter fun q => gran.contains (q / 4), spans := ps.map fun p => (p.1, p.2.length),
      groups := gs.map fun p =>
        { gid := p.1, num := p.2.num, alive := p.2.alive, stack := p.2.rewound, landing := p.2.landing,
          a := State.saveSlot p.2 .A (sunkAt k p.1).1, b := State.saveSlot p.2 .B (sunkAt k p.1).2 } }
  let bars := s.bars
  let t : State := { s.dropBlock b with bars := bars }
  t.setLncAt x.launch { l with saved := l.saved ++ [sb] }

/-- The header of a launch's save area: the number of records and the timebase. -/
def State.saveHeader (s : State) (lk : Nat) : State :=
  let l := s.lncAt lk
  if l.saved.isEmpty then s
  else s.saveBytes l.ctx l.saveBase (leBytes 64 (l.saved.length + s.timebase.toNat * 2 ^ 64))

/-- A context is pre-empted (R198). DEDUCED (log 50), unsafe. -/
def State.preempt (s : State) (c : Nat) : State :=
  let s := (s.drainAll.settleOuts c).settlePackets c
  let k : Sunks := (s.groupsOf c).map fun g => (g, s.sunkOf g .A, s.sunkOf g .B)
  let s := ((s.landPackets c).settleAhead).dropAhead c
  if (s.ctxAt c).killed then s
  else
    let cores := ((s.blocksOf c).map fun b => (s.blkAt b).core).eraseDups
    let s := cores.foldl (State.settleMatrix c) s
    let s := cores.foldl (fun (t : State) i =>
      match (t.coreAt i).mxOwner with
      | some b => if (t.blkAt b).ctx = c then t.settleAccs i else t
      | none => t) s
    if (s.ctxAt c).killed then s
    else
      let s := (s.blocksOf c).foldl State.cancelJobs s
      let s := (s.blocksOf c).foldl State.blockEnd s
      let s := (s.blocksOf c).foldl (fun (t : State) b => t.saveBlock k b) s
      let s := (s.launches.filter fun p => p.2.ctx == c).foldl (fun (t : State) p => t.saveHeader p.1) s
      let s : State := { s with walks := s.walks.filter fun p => p.2.ctx != c }
      s.setCtxAt c { s.ctxAt c with resident := false }

/-! ## Resumption (R201) -/

/-- A group of a saved block takes its state from the record. -/
def State.restoreGroup (s : State) (c va : Nat) (l : Launch) (sg : SavedGroup) : Option State :=
  let base := recGroup sg.num
  let rd := s.savedBytes c va
  match rd base 0x180, rd (base + 0x200) 0x320, rd (base + 0x600) 0x320 with
  | some hd, some ca, some cb =>
    let hdr := leNat (hd.take 64)
    let ra := slotRead (leNat ((hd.drop 0x40).take 64))
    let rb := slotRead (leNat ((hd.drop 0x80).take 64))
    let planes := leNat ((hd.drop 0xC0).take 64)
    let planesS : Sparse 2 := slist 0 (allLanes.map fun L => BitVec.ofNat 2 (bitsN planes (2 * L) 2))
    let whole := ra.kind == 3 || rb.kind == 3
    let regs (r : SlotRead) (off : Nat) : Option (Sparse 32) :=
      if r.kind = 1 ∨ r.kind = 2 then
        ((List.range 8).filter fun k => r.ckMask.getLsbD k).foldl (fun (a : Option (Sparse 32)) k =>
          match a, rd (off + 128 * k) 128 with
          | some m, some bs => some (sputRange m ((r.ckBase + k) * 32) (wordsIn 32 bs))
          | _, _ => none) (some [])
      else some []
    let file (e0 n : Nat) : Option (Sparse 32) :=
      if whole then
        (List.range n).foldl (fun (a : Option (Sparse 32)) e =>
          match a, rd (l.recEntry sg.num (e0 + e)) 128 with
          | some m, some bs => some (sputRange m (e * 32) (wordsIn 32 bs))
          | _, _ => none) (some [])
      else some []
    let sunk (x : Option SunkRes) (off : Nat) : Option (List (List Word)) :=
      match x with
      | none => some []
      | some _ => (rd off 384).map fun bs => [wordsIn 32 bs, wordsIn 32 (bs.drop 128), wordsIn 32 (bs.drop 256)]
    let g := s.grpAt sg.gid
    match regs ra (base + 0xA00), regs rb (base + 0xE00), file 0 g.alloc, file l.maxRegs g.annexAlloc,
          sunk sg.a.sunk (base + 0x1200), sunk sg.b.sunk (base + 0x1500) with
    | some va', some vb, some fv, some fa, some xa, some xb =>
      let cka := ckRead ra sg.a.preSplit ca va'
      let ckb := ckRead rb sg.b.preSplit cb vb
      let g : Group := { g with
        v := fv, annex := fa, s := [], stack := sg.stack, alive := sg.alive, fusion := fusionOf (bitsN hdr 6 2)
        splitJoin := joinFrom (bitsN hdr 10 30), outerJoin := joinFrom (bitsN hdr 40 30)
        trapEn := BitVec.ofNat 8 (bitsN hdr 102 32), fpMode := BitVec.ofNat 2 (bitsN hdr 134 32)
        laneFlags := slist 0 (wordsIn 32 (hd.drop 0x100)), landing := sg.landing
        a := slotBack ra sg.a cka, b := slotBack rb sg.b ckb }
      let g := (g.wholeShared ra cka planesS).wholeShared rb ckb planesS
      let g := (g.flash (!whole) .B rb ckb).flash (!whole) .A ra cka
      let g := (g.sunkBack ra sg.a.sunk fun i => xa.getD i []).sunkBack rb sg.b.sunk fun i => xb.getD i []
      some (s.setGrpAt sg.gid g.unparkAlone.fuseParked)
    | _, _, _, _, _, _ => none
  | _, _, _ => none

/-- Whether a barrier is a quad's of one of a context's launches. -/
def State.quadBar (s : State) (c : Nat) : BarOwner → Bool
  | .quad l _ _ => (s.lncAt l).ctx == c
  | _ => false

/-- The barriers that a gang had in a quad at the save follow the groups of a block that comes back to the quad it is on now (R11, R201).
Where blocks of one gang come from different quads to one, R70 and R201 do not say which generation the barrier has: that of the first
block restored. DESIGN CHOICE (log 44), unsafe. -/
def State.moveBars (s : State) (saved : Table Bar) (o : BarOwner) (gids : List Nat) : State :=
  saved.foldl (fun (t : State) p =>
    let x := t.barAt o p.1
    let held := (tget? ((tget? t.bars o).getD []) p.1).isSome
    t.setBar o p.1 { gen := if held then x.gen else p.2.gen, marks := x.marks ++ p.2.marks.filter fun m => gids.contains m.1 }) s

/-- A block's own part is read back: tiles, scratchpad, accumulators with their status words. -/
def State.restoreBlock (s : State) (bars : Map BarOwner (Table Bar)) (lk : Nat) (sb : SavedBlock) : Option State :=
  let l := s.lncAt lk
  let va := l.recVa sb.recIdx
  let rd := s.savedBytes l.ctx va
  let x := s.blkAt sb.block
  match sb.spans.foldl (fun (a : Option (List Byte)) p =>
      match a, rd p.1 p.2 with | some bs, some cs => some (bs ++ cs) | _, _ => none) (some []), rd 0 0x480, rd 0xFFC 4 with
  | some body, some hd, some ck =>
    if wordIn ck 0 ≠ Config.saveCheck body then none
    else
      let tiles : Table Tile := (List.range 64).filterMap fun t =>
        let e := tileRead (leNat ((hd.drop (0x40 + 16 * t)).take 16))
        if e = Tile.blank then none else some (t, e)
      let amask := bitsN (leNat (hd.take 64)) 192 4
      let x : Block := { x with tiles := tiles, scratchPoison := sb.poison, accDirty := BitVec.ofNat 4 amask }
      let scratch : Option (Sparse 8) := (x.granules l.scratch).foldl (fun (a : Option (Sparse 8)) i =>
        match a, rd (l.recScratch + 256 * i) (min 256 (l.scratch - 256 * i)) with
        | some m, some bs => some (sputRange m (256 * i) bs)
        | _, _ => none) (some [])
      let accs : Option (Table Acc) := (List.range 4).foldl (fun (a : Option (Table Acc)) i =>
        let st := wordIn hd (0x440 + 4 * i)
        let acc : Acc := { Acc.blank with status := st.extractLsb' 0 5, itype := st.getLsbD 10 }
        match a, (if amask.testBit i then rd (l.recAcc i) 65536 else some []) with
        | some m, some bs => some (tput m i { acc with words := slist 0 (wordsIn (bs.length / 4) bs) })
        | _, _ => none) (some [])
      match scratch, accs with
      | some m, some as =>
        let s := s.setBlkAt sb.block { x with scratch := m }
        let c := s.coreAt x.core
        let s := if sb.unit then s.setCoreAt x.core { c with mxOwner := some sb.block, accs := as } else s
        let s := sb.groups.foldl (fun (a : Option State) g => a.bind fun t => t.restoreGroup l.ctx va l g) (some s)
        s.map fun t => t.moveBars ((tget? bars (.quad lk x.gang sb.quad)).getD []) (.quad lk x.gang (quadOfCore x.core))
          (sb.groups.map SavedGroup.gid)
      | _, _ => none
  | _, _, _ => none

/-- A core keeps no copy of a launch's lines in its constant and read-only caches: the groups that come may have dropped theirs
elsewhere (R139, R201). -/
def Core.forget (c : Core) (lk : Nat) : Core :=
  { c with cc := tdrop c.cc fun k => k.1 == lk, ro := tdrop c.ro fun k => k.1 == lk }

/-- A saved block takes its place: new allocations and tags for the groups that have not ended. -/
def State.placeSaved (s : State) (lk : Nat) (sb : SavedBlock) (p : Place) : Option State :=
  let l := s.lncAt lk
  let ids := s.newIds l.groups
  let gids := (List.range l.groups).map fun i =>
    match sb.groups.find? fun g => g.num == i with
    | some g => g.gid
    | none => ids.2.1.getD i 0
  if sb.unit && (s.coreAt p.core).mxOwner.isSome then none
  else
    match ids.2.2.addBlock lk sb.n sb.recIdx sb.block gids p with
    | none => none
    | some t =>
      let live := sb.groups.map SavedGroup.gid
      let t : State := { t with groups := t.groups.filter fun q => q.2.block != sb.block || live.contains q.1 }
      let x := t.blkAt sb.block
      let t := t.setBlkAt sb.block { x with groups := x.groups.filter fun g => live.contains g }
      let t := t.setCoreAt p.core ((t.coreAt p.core).forget lk)
      some (if sb.unit then t.setCoreAt p.core { t.coreAt p.core with mxOwner := some sb.block } else t)

/-- Every saved block with its launch, in the table's order. -/
def State.savedOf (s : State) (c : Nat) : List (Nat × SavedBlock) :=
  (s.launches.filter fun p => p.2.ctx == c).flatMap fun p => p.2.saved.map fun b => (p.1, b)

/-- All saved blocks take places. -/
def State.placeAll (s : State) : List ((Nat × SavedBlock) × Place) → Option State
  | [] => some s
  | p :: ps =>
    match s.placeSaved p.1.1 p.1.2 p.2 with
    | some t => t.placeAll ps
    | none => none

/-- The blocks of one gang lie on one die (R10, R201). -/
def State.gangsWhole (s : State) (xs : List ((Nat × SavedBlock) × Place)) : Bool :=
  xs.all fun x => xs.all fun y =>
    let g := 2 ^ (s.lncAt x.1.1).gangLog
    x.1.1 != y.1.1 || x.1.2.n / g != y.1.2.n / g || x.2.core / 80 == y.2.core / 80

/-- A lease stays with its quads, and ends for its context, when the context resumes on a quad it does not cover (R292). -/
def State.leaseFollows (s : State) (c : Nat) : State :=
  match s.leases.find? fun p => p.2.ctx == some c with
  | none => s
  | some (k, l) =>
    if s.blocks.any fun p => p.2.ctx == c && !l.quads.contains (quadOfCore p.2.core) then
      { s with leases := tput s.leases k { l with ctx := none } }
    else s

/-- Resumptions kept while the context was away take effect (R272). -/
def State.applyKept (s : State) (c : Nat) : State :=
  let s := (s.ctxAt c).keptResume.foldl (fun (t : State) h =>
    match h with
    | .parked g sel => if (tget? t.groups g).isSome then t.setGrpAt g ((t.grpAt g).resume sel) else t
    | _ => t) s
  s.setCtxAt c { s.ctxAt c with keptResume := [] }

/-- The record of a check word that fails. -/
def State.saveRecord (s : State) (c : Nat) (sb : SavedBlock) (l : Launch) : Record :=
  let xyz := l.coord sb.n
  { cause := .saveCheck, src := .sched, slot := .A, pcur := 0#2, level := 0#4, park := false, whole := false, ctx := c,
    offset := 0#30, mask := 0#32, va := 0, info := 0#32, core := 0, group := 0, gtag := 0#6,
    seq := nextSeq (s.ctxAt c).seq, time := s.timebase, blkX := BitVec.ofNat 32 xyz.1, blkY := BitVec.ofNat 32 xyz.2.1,
    blkZ := BitVec.ofNat 32 xyz.2.2 }

/-- The records are read back in turn, with the barriers as the context left them; a check word that fails kills the context (R200). -/
def State.restoreAll (s : State) (c : Nat) (bars : Map BarOwner (Table Bar)) : List (Nat × SavedBlock) → State
  | [] =>
    let s : State := { s with launches := tmap s.launches fun _ (l : Launch) => if l.ctx = c then { l with saved := [] } else l }
    ((s.leaseFollows c).applyKept c).completeBars
  | (lk, sb) :: rest =>
    match s.restoreBlock bars lk sb with
    | some t => t.restoreAll c bars rest
    | none => s.kill c (s.saveRecord c sb (s.lncAt lk))

/-- The free values a resumption may have used for save areas that another agent holds. -/
def State.pastFree (s : State) (xs : List (Nat × SavedBlock)) : State :=
  { s with free := xs.foldl (fun n x => n + (s.lncAt x.1).recordBytes) s.free }

/-- A context resumes at some places, one for each saved block (R193, R201). -/
def State.resume (s : State) (c : Nat) (places : List Place) : Option State :=
  let xs := s.savedOf c
  let zs := xs.zip places
  if (s.ctxAt c).resident || (s.ctxAt c).killed || 3 ≤ s.porch.shed || places.length != xs.length || !s.gangsWhole zs then none
  else
    let x := s.ctxAt c
    let u := s.setCtxAt c { x with resident := true, sliceEnd := s.timebase.toNat + x.sliceNs }
    match u.placeAll zs with
    | none => none
    | some t =>
      let v : State := { t with bars := t.bars.filter fun b => !t.quadBar c b.1 }
      some { (v.restoreAll c t.bars xs).pastFree xs with lastServed := c }

/-- The first core of a die that takes a saved block. -/
def State.savedCore (s : State) (lk die : Nat) (sb : SavedBlock) : Option (Place × State) :=
  let l := s.lncAt lk
  (s.coreOrder l die).findSome? fun c =>
    if s.coreOpen l (s.ctxAt l.ctx).part c && !(sb.unit && (s.coreAt c).mxOwner.isSome) then
      match (s.coreUse c).ports? l with
      | some ps => (s.placeSaved lk sb ⟨c, ps⟩).map fun t => (⟨c, ps⟩, t)
      | none => none
    else none

/-- Places for some saved blocks on a die. -/
def State.savedOn (s : State) (lk die : Nat) : List SavedBlock → Option (List Place × State)
  | [] => some ([], s)
  | sb :: rest =>
    match s.savedCore lk die sb with
    | none => none
    | some (p, t) => (t.savedOn lk die rest).map fun r => (p :: r.1, r.2)

/-- A launch's saved blocks by gang, in order. -/
def byGang (g : Nat) (bs : List SavedBlock) : List (List SavedBlock) :=
  ((bs.map fun b => b.n / g).eraseDups).map fun k => bs.filter fun b => b.n / g == k

/-- Places for gangs, each on the first die that takes it. -/
def State.savedGangs (s : State) (lk : Nat) : List (List SavedBlock) → Option (List (Nat × Place) × State)
  | [] => some ([], s)
  | bs :: rest =>
    match [0, 1, 2, 3].findSome? fun d => s.savedOn lk d bs with
    | none => none
    | some (ps, t) => (t.savedGangs lk rest).map fun r => ((bs.map SavedBlock.block).zip ps ++ r.1, r.2)

/-- Places for everything a context has saved, in the order of `savedOf`. -/
def State.savedPlaces (s : State) (c : Nat) : Option (List Place) :=
  let s := s.setCtxAt c { s.ctxAt c with resident := true }
  let ls := s.launches.filter fun p => p.2.ctx == c
  let all : Option (List (Nat × Place) × State) := ls.foldl (fun a p =>
    match a with
    | none => none
    | some (ps, t) => (t.savedGangs p.1 (byGang (2 ^ p.2.gangLog) p.2.saved)).map fun r => (ps ++ r.1, r.2)) (some ([], s))
  all.map fun r => (s.savedOf c).filterMap fun x => tget? r.1 x.2.block

/-! ## Slices (R193) -/

/-- The highest priority among the launches for which a context holds blocks, resident or saved. -/
def State.heldPrio (s : State) (c : Nat) : Nat :=
  s.launches.foldl (fun n p => if p.2.ctx == c && s.heldBlocks p.1 != 0 then max n p.2.prio else n) 0

/-- The priority with which a pre-empted context waits: the highest among the launches for which it holds blocks and those that wait in
it (R193). -/
def State.awayPrio (s : State) (c : Nat) : Nat :=
  s.launches.foldl (fun n p => if p.2.ctx == c && s.waits p.1 then max n p.2.prio else n) (s.heldPrio c)

/-- Whether a context has a halted group, and so stays where it is (R273). -/
def State.hasHalted (s : State) (c : Nat) : Bool := s.groups.any fun p => p.2.ctx == c && (p.2.halted || p.2.a.atBkpt || p.2.b.atBkpt)

/-- The state without a context's blocks. -/
def State.without (s : State) (c : Nat) : State := (s.blocksOf c).foldl State.dropBlock s

/-- What waits for residency: a launch with blocks to start, or a context to resume. -/
inductive Waiter where
  | launch (k : Nat)
  | context (c : Nat)
  deriving DecidableEq, Repr

/-- Whether a context waits to resume. -/
def State.away (s : State) (c : Nat) : Bool := !(s.ctxAt c).resident && !(s.ctxAt c).killed && s.porch.shed < 3

/-- Everything that waits for residency, in the order the distributor serves: by priority, contexts in turn, a context's launches
in their order (R193). -/
def State.waiters (s : State) : List Waiter :=
  [3, 2, 1, 0].flatMap fun pr => s.ctxTurn.flatMap fun c =>
    (if s.away c && s.awayPrio c == pr then [Waiter.context c] else [])
      ++ (s.launches.filter fun p => p.2.prio == pr && p.2.ctx == c && s.eligible p.1).map fun p => Waiter.launch p.1

/-- The event that makes a waiter resident, if it fits now. -/
def State.serve (s : State) : Waiter → Option Instr
  | .launch k => (s.findPlaces k).map fun ps => Instr.blockResident k ps
  | .context c => (s.savedPlaces c).map fun ps => Instr.contextResume c ps

def State.waiterCtx (s : State) : Waiter → Nat
  | .launch k => (s.lncAt k).ctx
  | .context c => c

def State.waiterPrio (s : State) : Waiter → Nat
  | .launch k => (s.lncAt k).prio
  | .context c => s.awayPrio c

/-- Whether a context's slice is at its end. -/
def State.sliceDone (s : State) (c : Nat) : Bool := decide ((s.ctxAt c).sliceEnd ≤ s.timebase.toNat)

/-- The contexts that give way to a waiter, at once or when their slice ends: of its partition, holding blocks, of lower priority or of
the same; the lowest priority first, and among equals those whose slice is at its end (R193). -/
def State.rivals (s : State) (w : Waiter) : List Nat :=
  let cs := s.ctxs.filter fun p =>
    p.1 != s.waiterCtx w && p.2.part == (s.ctxAt (s.waiterCtx w)).part && p.2.resident && !p.2.killed && !s.hasHalted p.1
      && !(s.blocksOf p.1).isEmpty
  [0, 1, 2, 3].flatMap fun pr => if s.waiterPrio w < pr then [] else [true, false].flatMap fun d =>
    (cs.filter fun p => s.heldPrio p.1 == pr && s.sliceDone p.1 == d).map Prod.fst

/-- The first of some contexts whose leaving, one after another, lets a waiter in; none where it does not come in even so. -/
def State.leavers (w : Waiter) : List Nat → State → List Nat
  | [], _ => []
  | c :: cs, s =>
    if ((s.without c).serve w).isSome then [c]
    else match State.leavers w cs (s.without c) with | [] => [] | l => c :: l

/-- The contexts that are to leave for a waiter that does not fit (R193). DEDUCED (log 51), unsafe. -/
def State.leaversFor (s : State) (w : Waiter) : List Nat := if (s.serve w).isSome then [] else State.leavers w (s.rivals w) s

/-- Whether a context is to be pre-empted now: a waiter that does not fit waits for resources that it holds, of higher priority, or of the
same once its slice ends (R193). -/
def State.mustYield (s : State) (c : Nat) : Bool :=
  s.porch.shed < 4
    && s.waiters.any fun w => (s.heldPrio c < s.waiterPrio w || s.sliceDone c) && (s.leaversFor w).contains c

/-- Whether a crossed slot of a context waits for a line that its home holds: the context leaves once its load has been performed
(R174, R198, R241). -/
def State.crossHeld (s : State) (c : Nat) : Bool :=
  s.outs.any fun p =>
    let g := s.grpAt p.2.gid
    g.ctx == c && s.homeReq p.2 && s.outHeld p.2 && (match g.waiter p.1 with | some sel => (g.slot sel).crossed | none => false)

/-- Whether a slice has ended. -/
def State.sliceOver (s : State) (c : Nat) : Bool :=
  let x := s.ctxAt c
  x.resident && !x.killed && s.porch.shed < 4 && s.sliceDone c

/-- A slice ends, or a launch of higher priority waits: the context is pre-empted where a rival waits for what it holds, otherwise
its slice renews (R193). -/
def execTimeSliceExpiry (ctx : Nat) (s : State) : Host.Outcome State Fault Refusal :=
  if (tget? s.ctxs ctx).isNone then .next s
  else if s.mustYield ctx then if s.crossHeld ctx then .next s else .next (s.preempt ctx)
  else if s.sliceOver ctx then
    .next (s.setCtxAt ctx { s.ctxAt ctx with sliceEnd := s.timebase.toNat + (s.ctxAt ctx).sliceNs })
  else .next s

/-- A pre-empted context resumes (R193, R201). -/
def execContextResume (ctx : Nat) (places : List Place) (s : State) : Host.Outcome State Fault Refusal :=
  if (tget? s.ctxs ctx).isNone then .next s
  else
    match s.resume ctx places with
    | some t => .next t
    | none => .next s

/-- The state once a waiter that fits is resident. -/
def State.afterServing (s : State) : Waiter → State
  | .launch k => match s.findPlaces k with | some ps => nextOf s (execBlockResident k ps s) | none => s
  | .context c => match s.savedPlaces c with | some ps => nextOf s (execContextResume c ps s) | none => s

/-- Whether a waiter that fits leaves an earlier one what that waits for: the earlier one still comes in once contexts leave that hold
blocks now. -/
def State.leavesRoom (s : State) (w h : Waiter) : Bool :=
  let t := s.afterServing w
  (t.serve h).isSome || !(State.leavers h ((t.rivals h).filter (s.rivals h).contains) t).isEmpty

/-- The first of some waiters that fits and takes nothing that an earlier one of `held` is to come into when contexts have left; one that
cannot come in is passed over (R193). DEDUCED (log 51), unsafe. -/
def State.serveFirst (s : State) (held : List Waiter) : List Waiter → Option Instr
  | [] => none
  | w :: ws =>
    match s.serve w with
    | none => s.serveFirst (if (s.leaversFor w).isEmpty then held else w :: held) ws
    | some e => if held.all (s.leavesRoom w) then some e else s.serveFirst held ws

/-- What the distributor makes resident next (R193). -/
def State.nextServed (s : State) : Option Instr := s.serveFirst [] s.waiters

/-- The context whose slice has ended or that must yield. -/
def State.nextSlice (s : State) : Option Instr :=
  (s.ctxs.find? fun p => if s.mustYield p.1 then !s.crossHeld p.1 else s.sliceOver p.1).map fun p => Instr.timeSliceExpiry p.1

/-- TIME_SLICE_SET: 10 µs to 1 s (R193). -/
def execTimeSliceSet (ctx ns : Nat) (s : State) : Host.Outcome State Fault Refusal :=
  if (tget? s.ctxs ctx).isNone || ns < 10000 || 1000000000 < ns then .next s
  else .next (s.setCtxAt ctx { s.ctxAt ctx with sliceNs := ns })

end Sys2Proof.Machine
end

