-- ==== Sys2Proof/Machine/Kernel.lean ====
section
/-! DEFINITION. Traps whose turn comes later (R266, R268), the fault queue and the partition OS's commands to it (R270 to R272),
and the units that go drowsy (R50). -/

namespace Sys2Proof.Machine

/-! ## Traps that waited (R266, R268) -/

/-- The other slot has left its routine: the trap that waited enters. -/
def execTrapEntry (gid : Nat) (slot : SlotId) (s : State) : Host.Outcome State Fault Refusal :=
  let g := s.grpAt gid
  match (g.slot slot).trap with
  | none => .next s
  | some r =>
    if (g.slot slot).live && !((g.slot (otherSlot slot)).live && (g.slot (otherSlot slot)).inTrap) then .next (s.enterTrap gid slot r)
    else .next s

/-- Whether a slot stands where it would issue its next instruction. -/
def Slot.atIssue (t : Slot) : Bool :=
  t.live && !t.parked && !t.stopped && t.pending.isEmpty && t.trap.isNone && !t.atJoin && !t.joinRead && t.meet.isNone && !t.atBkpt
    && !t.midPass

/-- A deferred cause is taken at the next instruction the slot issues; INFO holds the offset at which it is taken (R264, R267).
DEDUCED (log 22), unsafe. -/
def execDeferredTrapTake (gid : Nat) (slot : SlotId) (s : State) : Host.Outcome State Fault Refusal :=
  let g := s.grpAt gid
  let sl := g.slot slot
  match sl.deferred with
  | [] => .next s
  | d :: ds =>
    if !sl.atIssue then .next s
    else
      let t := s.setGrpAt gid (g.setSlot slot { sl with deferred := ds, cpy := none, eng := none })
      .next (t.raiseAt gid slot
        { d.trap with info := sl.offset.setWidth 32 })

/-! ## The fault queue (R270 to R272) -/

/-- A record that waited in its unit is posted once there is room (R270). -/
def execFaultRecordPost (k : Nat) (s : State) : Host.Outcome State Fault Refusal :=
  let x := s.ctxAt k
  match x.fqWait with
  | [] => .next s
  | e :: es => if s.fqRoom k then .next (s.setCtxAt k { x with fq := x.fq ++ [e], fqWait := es }) else .next s

/-- Contexts whose waiting records now fit. -/
def State.kickFq (s : State) : State :=
  (s.ctxs.filter fun p => !p.2.fqWait.isEmpty).foldl (fun (t : State) p => t.push (.faultRecordPost p.1)) s

/-- Fields of a fault-path command (R271). -/
def fpOp (c : BitVec 128) : Nat := (c.extractLsb' 0 8).toNat
def fpCtx (c : BitVec 128) : Nat := (c.extractLsb' 8 12).toNat
def fpCause (c : BitVec 128) : Nat := (c.extractLsb' 24 8).toNat
def fpSeq (c : BitVec 128) : Word := c.extractLsb' 32 32

/-- The checks that every command shares: 3 for a nonzero bit of 127:64 or another operation, 2 for a context that the partition
does not have. Bits 23:20 are ignored (R4). -/
def State.fpCheck (s : State) (part op : Nat) (c : BitVec 128) : Option Nat :=
  if c.extractLsb' 64 64 ≠ 0#64 ∨ fpOp c ≠ op then some 3
  else if (tget? s.ctxs (fpCtx c)).isNone ∨ (s.ctxAt (fpCtx c)).part ≠ part then some 2
  else none

/-- Give a command's status. -/
def State.fpStatus (s : State) (part n : Nat) : State :=
  { s with porch := { s.porch with
      lastStatus := n
      parts := tmod s.porch.parts part fun (p : Part) => { p with fpStatus := n } } }

/-- FQ.POP removes a record and changes nothing else. -/
def execFqPop (part : Nat) (cmd : BitVec 128) (s : State) : Host.Outcome State Fault Refusal :=
  match s.fpCheck part 1 cmd with
  | some n => .next (s.fpStatus part n)
  | none =>
    let c := fpCtx cmd
    let x := s.ctxAt c
    if x.fq.all fun e => e.record.seq != fpSeq cmd then .next (s.fpStatus part 1)
    else
      .next ((s.setCtxAt c { x with fq := x.fq.filter fun e => e.record.seq != fpSeq cmd }).fpStatus part 0).kickFq

/-- What a record holds resumes (R272); the porch keeps the resumption while the context is not resident. -/
def State.resumeHeld (s : State) (c : Nat) (h : Held) : State :=
  if !(s.ctxAt c).resident then s.setCtxAt c { s.ctxAt c with keptResume := (s.ctxAt c).keptResume ++ [h] }
  else
    match h with
    | .none => s
    | .parked g sel => if (tget? s.groups g).isSome then s.setGrpAt g ((s.grpAt g).resume sel) else s
    | .job core k =>
      let x := s.coreAt core
      (s.setCoreAt core { x with copyQ := tmod x.copyQ k fun (j : CopyJob) => { j with stopped := false } }).kick core

/-- CTX.RESUME (R271, R272). -/
def execCtxResume (part : Nat) (cmd : BitVec 128) (s : State) : Host.Outcome State Fault Refusal :=
  match s.fpCheck part 2 cmd with
  | some n => .next (s.fpStatus part n)
  | none =>
    let c := fpCtx cmd
    let x := s.ctxAt c
    if fpSeq cmd = 0#32 then
      let t := s.setCtxAt c { x with fq := [], fqWait := [] }
      .next (((x.fq ++ x.fqWait).foldl (fun (t : State) e => t.resumeHeld c e.held) t).fpStatus part 0).kickFq
    else
      match x.fq.find? fun e => e.record.seq == fpSeq cmd with
      | none => .next (s.fpStatus part 1)
      | some e =>
        let t := s.setCtxAt c { x with fq := x.fq.filter fun f => f.record.seq != fpSeq cmd }
        .next ((t.resumeHeld c e.held).fpStatus part 0).kickFq

/-- The causes of class K (R276), by code. -/
def killCause (n : Nat) : Option Cause :=
  [Cause.saveCheck, .resourceRetired, .partDestroyed, .osKill, .trapNested, .stateError].find? fun c => causeCode c == n

/-- The record of a kill that no group raised. -/
def State.plainRecord (s : State) (c : Nat) (cause : Cause) : Record :=
  { cause := cause, src := .instr, slot := .A, pcur := 0#2, level := 0#4, park := false, whole := false, ctx := c,
    offset := 0#30, mask := 0#32, va := 0, info := 0#32, core := 0, group := 0, gtag := 0#6,
    seq := nextSeq (s.ctxAt c).seq, time := s.timebase, blkX := 0#32, blkY := 0#32, blkZ := 0#32 }

/-- CTX.KILL (R269, R271, R277). -/
def execCtxKill (part : Nat) (cmd : BitVec 128) (s : State) : Host.Outcome State Fault Refusal :=
  match s.fpCheck part 3 cmd with
  | some n => .next (s.fpStatus part n)
  | none =>
    match (if fpCause cmd = 0 then some Cause.osKill else killCause (fpCause cmd)) with
    | none => .next (s.fpStatus part 3)
    | some k => .next ((s.kill (fpCtx cmd) (s.plainRecord (fpCtx cmd) k)).fpStatus part 0)

/-! ## Power units of the register files (R50) -/

/-- A unit that has neither been read nor written for 64 cycles goes drowsy. -/
def execRegisterUnitDrowsy (core port unit : Nat) (s : State) : Host.Outcome State Fault Refusal :=
  if 4 ≤ port ∨ 16 ≤ unit ∨ s.unitHeld core port unit = false then .next s
  else .next (s.setCoreAt core { s.coreAt core with drowsy := insertNat (port * 16 + unit) (s.coreAt core).drowsy })

/-! ## The partition's window (R289) -/

/-- Records waiting in the fault queues of a partition's contexts. -/
def State.recordsOf (s : State) (part : Nat) : List Record :=
  ((s.ctxs.filter fun p => p.2.part == part).flatMap fun p => p.2.fq).map fun e => e.record

/-- The oldest of some records. -/
def oldest : List Record → Option Record
  | [] => none
  | r :: rs =>
    match oldest rs with
    | some q => if q.time.toNat < r.time.toNat then some q else some r
    | none => some r

/-- A capability-table entry as its 32 bytes hold it (R281). -/
def Cap.bits (c : Cap) : Nat :=
  c.type + c.id * 2 ^ 32 + c.state * 2 ^ 80 + c.owner * 2 ^ 88 + c.used * 2 ^ 96 + c.cap * 2 ^ 128 + c.min * 2 ^ 160
    + c.ucost * 2 ^ 192

/-- An entry that names nothing: every field zero but OWNER (R281). -/
def Cap.unused : Nat := 0xFF * 2 ^ 88

/-- Byte `i` of a number. -/
def byteAt (n i : Nat) : Byte := BitVec.ofNat 8 (n / 2 ^ (8 * i))

/-- What a read of a byte of the window gives: the oldest record, the number of records, the last command's status, the table. -/
def State.windowByte (s : State) (part off : Nat) : Byte :=
  if off < 64 then match oldest (s.recordsOf part) with | some r => byteAt r.bits.toNat off | none => 0#8
  else if 0x40 ≤ off ∧ off < 0x48 then byteAt (s.recordsOf part).length (off - 0x40)
  else if 0x110 ≤ off ∧ off < 0x118 then
    match tget? s.porch.parts part with | some p => byteAt p.fpStatus (off - 0x110) | none => 0#8
  else if 0x1000 ≤ off ∧ off < 0x5000 then
    match tget? s.porch.caps ((off - 0x1000) / 32) with
    | some c => byteAt (Cap.bits c) (off % 32)
    | none => byteAt Cap.unused (off % 32)
  else 0#8

end Sys2Proof.Machine
end

