-- ==== Sys2Proof/Machine/Power.lean ====
section
/-! DEFINITION. Refill of the token buckets (R283, R285), the governors (R232, R287), current-limit shedding (R288), leases that
expire (R292), and CTX.BUDGET (R279). -/

namespace Sys2Proof.Machine

/-! ## Token buckets (R283, R285) -/

/-- A bucket's refill: a new setting takes effect, RATE is added, and the balance is capped at DEPTH, which keeps it a signed 32-bit
number; an unlimited bucket made limited starts at its DEPTH. -/
def Bucket.refill (b : Bucket) (set : Option (Nat × Nat)) : Bucket :=
  match set with
  | none => if b.unlimited? then b else { b with balance := min (b.balance + b.rate) b.depth }
  | some (r, d) =>
    if b.unlimited? then { rate := r, depth := d, balance := d }
    else { rate := r, depth := d, balance := if r = 0xFFFFFFFF then b.balance else min (b.balance + r) d }

def Ctx.refill (x : Ctx) : Ctx :=
  { x with mem := x.mem.refill x.memNew, fab := x.fab.refill x.fabNew, memNew := none, fabNew := none }

/-- Status of a porch command. -/
def State.status (s : State) (n : Nat) : State := { s with porch := { s.porch with lastStatus := n } }

def rateOk (r : Nat) : Bool := r ≤ 2 ^ 20 || r == 0xFFFFFFFF
def depthOk (d : Nat) : Bool := 1 ≤ d && d ≤ 2 ^ 24

/-- The priority-3 quotas of a partition's contexts, one apart. -/
def State.quotas (s : State) (part c : Nat) : Nat :=
  s.ctxs.foldl (fun n p => if p.2.part = part ∧ p.1 ≠ c then n + p.2.p3quota else n) 0

/-- CTX.BUDGET (R279, R285): a bucket changes at the next refill; a quota beyond the partition's entry is refused. -/
def execCtxBudget (ctx : Nat) (what : Budget) (s : State) : Host.Outcome State Fault Refusal :=
  if (tget? s.ctxs ctx).isNone then .next (s.status 4)
  else
    let x := s.ctxAt ctx
    match what with
    | .memory r d => if rateOk r && depthOk d then .next ((s.setCtxAt ctx { x with memNew := some (r, d) }).status 0) else .next (s.status 4)
    | .fabric r d => if rateOk r && depthOk d then .next ((s.setCtxAt ctx { x with fabNew := some (r, d) }).status 0) else .next (s.status 4)
    | .p3quota u =>
      let cap := match s.cap? 0x14 x.part with | some (_, e) => e.cap | none => 0
      if cap < s.quotas x.part ctx + u then .next (s.status 4)
      else
        let s := s.setCtxAt ctx { x with p3quota := u }
        match s.cap? 0x14 x.part with
        | some (k, e) => .next ((s.setCap k { e with used := s.quotas x.part ctx + u }).status 0)
        | none => .next (s.status 0)

/-! ## Governors (R230, R232, R287) -/

/-- The cadence floor (R288). -/
def cadenceFloor (shed : Nat) : Nat := if shed = 0 then 1 else if shed = 1 then 4 else 16

/-- The array energy of a core's last window at 0.75 V, in hundredths of a picojoule (R232). -/
def Core.arrayEnergy (c : Core) : Int := 115000 * (c.rowsLast : Int) + 85 * (c.mxToggle.toNat : Int) - 320 * (c.mxZeros.toNat : Int)

/-- A quad's power in the window at 0.75 V, as energy in hundredths of a picojoule: the arrays, and 2.5 W for each core that holds
a block. -/
def State.quadEnergy (s : State) (q : Nat) : Int :=
  (coresOfQuad q).foldl (fun (e : Int) c =>
    e + (s.coreAt c).arrayEnergy + if s.blocks.any fun p => p.2.core == c then 250000000 else 0) 0

/-- The end of a window at a quad's governor: the sum against the partition's share over its quads, scaled by the square of the
supply over 0.75 V. DEDUCED (log 54), unsafe. -/
def execGovernorWindow (quad : Nat) (s : State) : Host.Outcome State Fault Refusal :=
  match s.cap? 1 quad with
  | none => .next s
  | some (_, e) =>
    let share := match s.cap? 0x15 e.owner with | some (_, p) => p.cap | none => 0
    let quads := (s.porch.caps.filter fun p => p.2.type == 1 && p.2.owner == e.owner && p.2.state == 1).length
    let mv : Int := (s.quadAt quad).mv
    let sum : Int := s.quadEnergy quad * (mv * mv) * quads
    let budget : Int := (share : Int) * 100000000 * 562500
    let fl := cadenceFloor s.porch.shed
    .next ((coresOfQuad quad).foldl (fun (t : State) c =>
      let x := t.coreAt c
      let n := x.mxCadence.toNat
      let n := if budget < sum then min 16 (n + 1) else if sum * 10 < budget * 9 ∧ fl < n then n - 1 else n
      t.setCoreAt c { x with mxCadence := BitVec.ofNat 5 (max fl n) }) s)

/-! ## Shedding (R288) -/

/-- Time of the shedding ladder's next step, measured from the last edge of ILIM_N or the last step down (R288). -/
def State.shedDue (s : State) : Option Nat :=
  if s.porch.ilim then
    match s.porch.shed with
    | 0 => some (s.porch.shedAt + 2000)
    | 1 => some (s.porch.shedAt + 20000)
    | 2 => some (s.porch.shedAt + 100000)
    | 3 => some (s.porch.shedAt + 500000)
    | _ => none
  else if s.porch.shed = 0 then none else some (s.porch.shedAt + 100000)

/-- The external supply nears its limit. -/
def execIlimNAssert (s : State) : Host.Outcome State Fault Refusal :=
  if s.porch.ilim then .next s
  else .next { s with porch := { s.porch with ilim := true, shedAt := s.timebase.toNat } }

def execIlimNDeassert (s : State) : Host.Outcome State Fault Refusal :=
  if s.porch.ilim then .next { s with porch := { s.porch with ilim := false, shedAt := s.timebase.toNat } } else .next s

/-- Every quad under a lease takes its setpoint anew. -/
def State.leasePoints (s : State) : State := s.leases.foldl (fun (t : State) p => t.resetpoints p.2.quads) s

/-- The ladder moves by one step when its time has come: up while ILIM_N stays asserted, down otherwise. Step 1 suspends lease
boosts; steps 3 and 4 pause launches and contexts, which the distributor and the issue rules look at. -/
def execSheddingStep (s : State) : Host.Outcome State Fault Refusal :=
  match s.shedDue with
  | none => .next s
  | some t =>
    if s.timebase.toNat < t then .next s
    else if s.porch.ilim then .next ({ s with porch := { s.porch with shed := s.porch.shed + 1 } }.leasePoints)
    else .next ({ s with porch := { s.porch with shed := s.porch.shed - 1, shedAt := s.timebase.toNat } }.leasePoints)

/-! ## Leases (R292) -/

/-- A lease reaches its expiry: its quads return to their setpoints. -/
def execLeaseExpiry (k : Nat) (s : State) : Host.Outcome State Fault Refusal :=
  match tget? s.leases k with
  | none => .next s
  | some l =>
    if s.timebase.toNat < l.expiry then .next s
    else .next ({ s with leases := tdel s.leases k }.resetpoints l.quads)

end Sys2Proof.Machine
end

