-- ==== Sys2Proof/Machine/Partition.lean ====
section
/-! DEFINITION. Partitions (R278 to R280), the capability table (R281) and retirement (R282). -/

namespace Sys2Proof.Machine

/-! ## Resources -/

/-- TYPE and ID of a resource (R281). -/
def resKey : Resource → Nat × Nat
  | .quad n => (1, n)
  | .station n => (2, n)
  | .hall n => (3, n)
  | .eth n => (4, n)
  | .nvme n => (5, n)

def State.resCap (s : State) (r : Resource) : Option (Nat × Cap) := s.cap? (resKey r).1 (resKey r).2

/-- Whether every resource of a list is FREE. -/
def State.allFree (s : State) (rs : List Resource) : Bool :=
  rs.all fun r => match s.resCap r with | some (_, c) => c.state == 0 | none => false

/-- Change a resource's entry. -/
def State.modRes (s : State) (r : Resource) (f : Cap → Cap) : State :=
  match s.resCap r with
  | some (k, c) => s.setCap k (f c)
  | none => s

def countType (rs : List Resource) (type : Nat) : Nat := (rs.filter fun r => (resKey r).1 == type).length

/-- Resources of a type that a partition holds. -/
def State.held (s : State) (part type : Nat) : Nat :=
  (s.porch.caps.filter fun p => p.2.type == type && p.2.owner == part && p.2.state == 1).length

/-- Change a partition's entry of a type. -/
def State.modPart (s : State) (type part : Nat) (f : Cap → Cap) : State :=
  match s.cap? type part with
  | some (k, c) => s.setCap k (f c)
  | none => s

/-- Capacity of a type that is not RETIRED. -/
def State.capacityOf (s : State) (type : Nat) : Nat := (s.porch.caps.filter fun p => p.2.type == type && p.2.state != 3).length

/-- The sum of the minima of partition entries of a type, one partition apart. -/
def State.minima (s : State) (type but : Nat) : Nat :=
  s.porch.caps.foldl (fun n p => if p.2.type = type ∧ p.2.id ≠ but then n + p.2.min else n) 0

/-- Whether the minima of all partitions exceed the capacity that is not RETIRED (R282). -/
def State.minimaExceed (s : State) : Bool :=
  s.capacityOf 1 < s.minima 0x11 8 || 4 * s.capacityOf 2 < s.minima 0x12 8

/-- Power share of a number of quads: (4,200 W − 90 W) × quads ÷ 80 (R287). -/
def shareOf (quads : Nat) : Nat := 4110 * quads / 80

/-- A partition's entries follow what it holds; of a power share all is assigned (R281, R287). -/
def State.refreshPart (s : State) (p : Nat) : State :=
  let q := s.held p 1
  let g := 4 * s.held p 2
  let s := s.modPart 0x11 p fun c => { c with used := q, cap := q }
  let s := s.modPart 0x12 p fun c => { c with used := g, cap := g }
  match tget? s.porch.parts p with
  | some x => s.modPart 0x15 p fun c => let w := if x.powerSet then c.cap else shareOf q; { c with used := w, cap := w }
  | none => s

/-- Whether a partition holds its minima. -/
def State.minimaMet (s : State) (p : Nat) : Bool :=
  [0x11, 0x12].all fun t => match s.cap? t p with | some (_, c) => c.min ≤ c.used | none => true

/-- The lowest unused entry of the table. -/
def State.freeEntry (s : State) : Option Nat := (List.range 512).find? fun k => (tget? s.porch.caps k).isNone

/-- A new entry, where the table has room. -/
def State.addCap (s : State) (c : Cap) : State :=
  match s.freeEntry with
  | some k => s.setCap k c
  | none => s

/-! ## Draining and scrubbing (R280) -/

/-- What a departing core keeps: its counts, its cadence and its generation tags. -/
def Core.scrub (c : Core) : Core :=
  { Core.blank with staleReturn := c.staleReturn, mxCadence := c.mxCadence, mxToggle := c.mxToggle, mxZeros := c.mxZeros,
                    tags := c.tags, errC := c.errC, errU := c.errU }

/-- A departing quad keeps nothing of the partition: its cores are scrubbed, its TLB is empty, and the lines of L2 that lie in the
partition's stations are gone, their dirty sectors written back first. DEDUCED (log 52), unsafe. -/
def State.scrubQuad (s : State) (q owner : Nat) : State :=
  let s := (coresOfQuad q).foldl (fun (t : State) c => t.setCoreAt c (t.coreAt c).scrub) s
  let s := (s.l2.filter fun p => (match s.cap? 2 (lineStation p.1) with | some (_, c) => c.owner == owner | none => false)).foldl (fun (t : State) p => t.l2Drop p.1) s
  (s.setQuadAt q { s.quadAt q with tlb := [] }).resetpoints [q]

/-- A departing station's DRAM, its caches, its bank compute units and its configurations are zero. -/
def State.scrubStation (s : State) (st : Nat) : State :=
  let lo := st * 2 ^ 32
  let hi := lo + 2 ^ 32
  let x := s.stationAt st
  let away (k : Nat) : Bool := decide (k * 128 < lo) || decide (hi ≤ k * 128)
  { s.setStationAt st { x with cfgs := [], bcu := [] } with
    mem := sclear (n := 8) s.mem lo hi
    poison := s.poison.filter fun k => decide (k * 64 < lo) || decide (hi ≤ k * 64)
    l2 := s.l2.filter fun p => away p.1
    msc := s.msc.filter fun p => away p.1 }

/-- Whether an address lies in a station of this package. -/
def State.inStation (s : State) (st pa : Nat) : Bool := s.ownPa pa && paOff pa / 2 ^ 32 == st

/-- Whether something is on its way to a station: a near command, a packet that has been formed, a store that has retired, a request whose
response is outstanding, or another package's request that waits for its line. -/
def State.stationBusy (s : State) (st : Nat) : Bool :=
  (s.near.any fun p => p.2.stn == st)
    || (s.packets.any fun p => p.2.phase != .executed && s.inStation st (p.2.line * 128))
    || (s.stores.any fun p => p.2.spans.any fun x => s.inStation st x.1)
    || (s.outs.any fun p => !p.2.host && p.2.lanes.any fun r => s.inStation st r.pa)
    || s.arrivals.any fun e => match e with | .remoteRequestArrive r => s.inStation st (reqSpan r).1 | _ => false

/-- Whether a draining resource still has work: a block on a quad, what is on its way to a station. -/
def State.resBusy (s : State) (c : Cap) : Bool :=
  if c.type = 1 then s.blocks.any fun p => quadOfCore p.2.core == c.id
  else if c.type = 2 then s.stationBusy c.id
  else false

/-- A drained resource is scrubbed and becomes FREE. -/
def State.freeRes (s : State) (k : Nat) (c : Cap) : State :=
  let s := if c.type = 1 then s.scrubQuad c.id c.owner else if c.type = 2 then s.scrubStation c.id else s
  s.setCap k { c with state := 0, owner := 255, used := 0 }

/-- Whether a partition that is being destroyed still has launches or near commands. -/
def State.partBusy (s : State) (p : Nat) : Bool :=
  let own (c : Nat) : Bool := (s.ctxAt c).part == p
  (s.launches.any fun l => own l.2.ctx) || s.near.any fun n => own n.2.ctx

/-- Whether the minima still exceed the capacity is judged again: an event that stood may be over (R282). -/
def State.minimaAgain (s : State) : State :=
  { s with porch := { s.porch with minimaShort := s.porch.minimaShort && s.minimaExceed } }

/-- A destroyed partition's own records go. -/
def State.dropPart (s : State) (p : Nat) : State :=
  let own (c : Nat) : Bool := (s.ctxAt c).part == p
  let keep (l : List TlbEntry) : List TlbEntry := l.filter fun e => !own e.ctx
  State.minimaAgain { s with
    ctxs := s.ctxs.filter fun x => x.2.part != p
    queues := s.queues.filter fun q => !own q.2.ctx
    cores := tmap s.cores fun _ (c : Core) => { c with tlb := keep c.tlb }
    quads := tmap s.quads fun _ (q : Quad) => { q with tlb := keep q.tlb }
    descs := s.descs.filter fun e => !own e.ctx
    porch := { s.porch with
      parts := tdel s.porch.parts p
      harts := s.porch.harts.filter fun h => h.2.part != p
      caps := s.porch.caps.filter fun c => !(0x10 ≤ c.2.type && c.2.id == p) } }

/-- Draining resources whose work has ended become FREE; a partition being destroyed goes once it holds nothing. -/
def State.finishDrains (s : State) : State :=
  let destroyed (p : Nat) : Bool := match s.cap? 0x10 p with | some (_, c) => c.state == 2 | none => false
  let s := (s.porch.caps.filter fun c => c.2.type < 0x10 && c.2.state == 2).foldl (fun (t : State) c =>
    if t.resBusy c.2 || (destroyed c.2.owner && t.partBusy c.2.owner) then t else t.freeRes c.1 c.2) s
  (List.range 8).foldl (fun (t : State) p =>
    if destroyed p && !t.partBusy p && t.porch.caps.all fun c => 0x10 ≤ c.2.type || c.2.owner != p then t.dropPart p else t) s

/-- The near commands of some stations were accepted before those stations leave (R280). -/
def State.markEarly (s : State) (leaves : Nat → Bool) : State :=
  { s with near := tmap s.near fun _ (n : NearCmd) => if leaves n.stn then { n with early := true } else n }

/-! ## The manager's commands (R279) -/

/-- The named FREE resources join a partition. -/
def State.assign (s : State) (p : Nat) (rs : List Resource) : State :=
  rs.foldl (fun (t : State) r =>
    let t := t.modRes r fun c => { c with state := 1, owner := p, used := c.cap }
    match r with
    | .hall h => { t with porch := { t.porch with harts := tput t.porch.harts h { part := p, entry := 0, started := false, mode := .machine } } }
    | _ => t) s

/-- Whether the last byte of a range lies in a station of a list, with every station between. -/
def rangeIn (rs : List Resource) (off len : Nat) : Bool :=
  len != 0 && (List.range ((off + len - 1) / 2 ^ 32 - off / 2 ^ 32 + 1)).all fun i => rs.contains (.station (off / 2 ^ 32 + i))

/-- PART.CREATE: the resources become the partition's, the image is measured, and its lowest hall core starts (R279, R301).
DEDUCED (log 52), unsafe. -/
def execPartCreate (p : Nat) (res : List Resource) (minQuads minGiB image imageLen entry : Nat) (s : State) :
    Host.Outcome State Fault Refusal :=
  if s.porch.minimaShort then .next (s.status 2)
  else if 8 ≤ p || (tget? s.porch.parts p).isSome || res.eraseDups != res || countType res 3 = 0 || countType res 2 = 0
      || countType res 4 != 1 || countType res 5 != 1 || !rangeIn res image imageLen then .next (s.status 4)
  else if !s.allFree res then .next (s.status 1)
  else if s.capacityOf 1 < s.minima 0x11 8 + minQuads || 4 * s.capacityOf 2 < s.minima 0x12 8 + minGiB then
    .next (s.status 2)
  else
    let s := s.assign p res
    let e (type cap min state : Nat) : Cap :=
      { type := type, id := p, state := state, owner := p, used := 0, cap := cap, min := min, ucost := 0 }
    let s := [e 0x10 0 0 5, e 0x11 0 minQuads 5, e 0x12 0 minGiB 5, e 0x13 0 0 5, e 0x14 0 0 5, e 0x15 0 0 5].foldl State.addCap s
    let digest := Config.sm3 (readBytes s.mem image imageLen)
    let halls := res.filterMap fun r => match r with | .hall h => some h | _ => none
    let low := halls.foldl min (halls.headD 0)
    let s : State := { s with porch := { s.porch with
      parts := tput s.porch.parts p { imageDigest := digest, entry := entry, fpCmd := 0#128, fpStatus := 0, powerSet := false }
      harts := tput s.porch.harts low { part := p, entry := entry, started := true, mode := .supervisor } } }
    .next ((s.refreshPart p).status 0)

/-- The state of a partition's entry: ACTIVE where its minima are met. -/
def State.activate (s : State) (p : Nat) : State :=
  if s.minimaMet p then s.modPart 0x10 p fun c => { c with state := 5 } else s

/-- PART.GROW -/
def execPartGrow (p : Nat) (res : List Resource) (s : State) : Host.Outcome State Fault Refusal :=
  if (tget? s.porch.parts p).isNone || res.eraseDups != res || countType res 4 != 0 || countType res 5 != 0 then .next (s.status 4)
  else if !s.allFree res then .next (s.status 1)
  else .next ((((s.assign p res).refreshPart p).activate p).status 0)

/-- Whether a cooperative launch that has been accepted could still have all its blocks resident on some quads. -/
def State.coopFits (s : State) (p : Nat) (qs : List Nat) : Bool :=
  s.launches.all fun l => !l.2.coop || (s.ctxAt l.2.ctx).part != p || l.2.state == .completed || l.2.count ≤ l.2.capacity qs

/-- Contexts with a block on some quads. -/
def State.ctxsOn (s : State) (qs : List Nat) : List Nat :=
  ((s.blocks.filter fun b => qs.contains (quadOfCore b.2.core)).map fun b => b.2.ctx).eraseDups

/-- PART.SHRINK: the contexts on the departing quads are pre-empted, and what drains is scrubbed and becomes FREE (R280). -/
def execPartShrink (p : Nat) (res : List Resource) (s : State) : Host.Outcome State Fault Refusal :=
  let mine := res.all fun r => match s.resCap r with | some (_, c) => c.owner == p && c.state == 1 | none => false
  if (tget? s.porch.parts p).isNone || !mine || res.eraseDups != res || countType res 4 != 0 || countType res 5 != 0
      || s.held p 3 ≤ countType res 3 || s.held p 2 ≤ countType res 2 then .next (s.status 4)
  else
    let gone := res.filterMap fun r => match r with | .quad q => some q | _ => none
    let left := (s.partQuads p).filter fun q => !gone.contains q
    if !s.coopFits p left || (s.ctxsOn gone).any s.hasHalted then .next (s.status 3)
    else
      let s := res.foldl (fun (t : State) r =>
        let t := t.modRes r fun c => { c with state := 2 }
        match r with
        | .hall h => { t with porch := { t.porch with harts := tdel t.porch.harts h } }
        | _ => t) s
      let s := (s.ctxsOn gone).foldl State.preempt (s.markEarly fun k => res.contains (.station k))
      .next (((s.refreshPart p).finishDrains).status 0)

/-- PART.DESTROY: every context of the partition is killed; its resources drain, are scrubbed and become FREE. -/
def execPartDestroy (p : Nat) (s : State) : Host.Outcome State Fault Refusal :=
  if (tget? s.porch.parts p).isNone then .next (s.status 4)
  else
    let cs := (s.ctxs.filter fun c => c.2.part == p).map Prod.fst
    let s := cs.foldl (fun (t : State) c => t.kill c (t.plainRecord c .partDestroyed)) s
    let s := s.modPart 0x10 p fun c => { c with state := 2 }
    let s := s.markEarly fun k => match s.cap? 2 k with | some (_, c) => c.owner == p && c.state == 1 | none => false
    let s : State := { s with porch := { s.porch with
      caps := tmap s.porch.caps fun _ (c : Cap) => if c.type < 0x10 && c.owner == p && c.state == 1 then { c with state := 2 } else c
      harts := s.porch.harts.filter fun h => h.2.part != p } }
    .next (s.finishDrains.status 0)

/-- CAP.SET (R279, R281, R282). -/
def execCapSet (entry : Nat) (field : CapField) (value : Word) (s : State) : Host.Outcome State Fault Refusal :=
  match tget? s.porch.caps entry with
  | none => .next (s.status 4)
  | some c =>
    let v := value.toNat
    match field with
    | .ucost => .next ((s.setCap entry { c with ucost := v }).status 0)
    | .min =>
      if c.type ≠ 0x11 ∧ c.type ≠ 0x12 then .next (s.status 4)
      else
        let t := s.setCap entry { c with min := v }
        if c.min < v ∧ (s.porch.minimaShort ∨ t.minimaExceed) then .next (s.status 2)
        else .next (t.minimaAgain.status 0)
    | .cap =>
      if c.type < 0x13 ∨ 0x15 < c.type then .next (s.status 4)
      else
        let t := s.setCap entry { c with cap := v, used := if c.type = 0x15 then v else c.used }
        let t : State :=
          if c.type = 0x15 then
            { t with porch := { t.porch with parts := tmod t.porch.parts c.id fun (x : Part) => { x with powerSet := true } } }
          else t
        .next (t.status 0)

/-! ## Retirement (R282) -/

/-- Whether some leaf below a table maps a page that reaches into a station. -/
def tableReaches (s : State) (st : Nat) : (level tbl : Nat) → List (Nat × Nat) → Bool
  | _, _, [] => false
  | level, tbl, (shift, bits) :: rest =>
    s.ownPa tbl && (List.range (2 ^ bits)).any fun i =>
      let e : Pte := BitVec.ofNat 64 (leNat (s.physRead (tbl + 8 * i) 8))
      if !e.valid then false
      else if e.fld 10 2 = 3 then level != 4 && descOk e level && tableReaches s st (level + 1) (e.fld 12 40 * 4096 + e.fld 4 4 * 256) rest
      else
        let pa := e.fld 16 36 * 2 ^ 16
        leafLevel e == level && leafOk e && paPkg pa == s.pkgId
          && decide (paOff pa < (st + 1) * 2 ^ 32) && decide (st * 2 ^ 32 < paOff pa + 2 ^ shift)

/-- Whether a context owns a page in a station. DEDUCED (log 53), safe. -/
def State.ownsPage (s : State) (c st : Nat) : Bool :=
  s.ownsStation (s.ctxAt c).part st && tableReaches s st 1 (s.ctxAt c).root [(39, 9), (30, 9), (21, 9), (16, 5)]

/-- The entry is RETIRED, its partition's entries follow, every partition below its minima is DEGRADED but one that is being destroyed,
and MINIMA_SHORT is posted where the minima no longer fit (R282). -/
def State.retired (s : State) (k : Nat) (c : Cap) : State :=
  let s := s.setCap k { c with state := 3, owner := 255, used := 0 }
  let s : State :=
    if c.type = 1 then
      { s.setQuadAt c.id { s.quadAt c.id with retired := true } with
        porch := { s.porch with ready := s.porch.ready &&& ~~~ BitVec.ofNat 128 (2 ^ (48 + c.id)) } }
    else s
  let s := s.refreshPart c.owner
  let s := (List.range 8).foldl (fun (t : State) p =>
    if t.minimaMet p then t else t.modPart 0x10 p fun x => if x.state = 2 then x else { x with state := 4 }) s
  { s with porch := { s.porch with minimaShort := s.porch.minimaShort || s.minimaExceed } }

/-- A failing quad or station is retired: the contexts that use it are killed, and its partition may be DEGRADED. -/
def execResourceRetire (r : Resource) (s : State) : Host.Outcome State Fault Refusal :=
  match r, s.resCap r with
  | .quad q, some (k, c) =>
    if c.state = 3 then .next s
    else
      let s := (s.ctxsOn [q]).foldl (fun (t : State) x => t.kill x (t.plainRecord x .resourceRetired)) s
      .next (s.retired k c)
  | .station st, some (k, c) =>
    if c.state = 3 then .next s
    else
      let cs := (s.ctxs.filter fun x => s.ownsPage x.1 st).map Prod.fst
      let s := cs.foldl (fun (t : State) x => t.kill x (t.plainRecord x .resourceRetired)) s
      .next (s.retired k c)
  | _, _ => .next s

/-- At each 1,000 ns every context's buckets are refilled (R283, R285), copy jobs and commands that wait for the balance look again,
and what has drained becomes FREE. -/
def execBucketRefill (s : State) : Host.Outcome State Fault Refusal :=
  let t : State := { s with ctxs := tmap s.ctxs fun _ (x : Ctx) => x.refill }
  .next ((t.cores.filter fun p => !p.2.copyQ.isEmpty).foldl (fun (t : State) p => t.kick p.1) t).kickPackets.finishDrains

end Sys2Proof.Machine
end

