-- ==== Sys2Proof/Machine/Boot.lean ====
section
/-! DEFINITION. Package reset and boot (R297, R300 to R302), and contexts as the partition OS creates them (R283). -/

namespace Sys2Proof.Machine

/-! ## Readiness (R297) -/

/-- A resource enters the table as FREE, once. -/
def State.offer (s : State) (type id cap : Nat) : State :=
  match s.cap? type id with
  | some _ => s
  | none => s.addCap { type := type, id := id, state := 0, owner := 255, used := 0, cap := cap, min := 0, ucost := 0 }

/-- What a READY bit brings: the hall cores, a stack's stations, a link, a port, a root port's namespaces, a quad. -/
def State.readied (s : State) (bit : Nat) (namespaces : List (Nat × Nat)) : State :=
  if bit = 0 then (List.range 32).foldl (fun (t : State) h => t.offer 3 h 1) s
  else if bit ≤ 8 then (List.range 16).foldl (fun (t : State) i => t.offer 2 ((bit - 1) * 16 + i) 4) s
  else if bit ≤ 26 then { s with porch := { s.porch with linksUp := s.porch.linksUp ||| BitVec.ofNat 18 (2 ^ (bit - 9)) } }
  else if bit ≤ 34 then s.offer 4 (bit - 27) 1
  else if bit ≤ 38 then namespaces.foldl (fun (t : State) n => t.offer 5 n.1 n.2) s
  else if 48 ≤ bit then s.offer 1 (bit - 48) 1
  else s

/-- Bits 47:39 are reserved. -/
def readyBit (bit : Nat) : Bool := bit < 39 || (48 ≤ bit && bit < 128)

/-- A function sets its bit, and its resource becomes FREE; a retired quad's bit stays clear (R282). FW is set by firmware that has
been verified and runs. -/
def execFunctionReady (bit : Nat) (namespaces : List (Nat × Nat)) (s : State) : Host.Outcome State Fault Refusal :=
  if !readyBit bit || (bit == 0 && s.porch.running.isNone) || s.porch.ready.getLsbD bit || (48 ≤ bit && (s.quadAt (bit - 48)).retired) then .next s
  else
    let t : State := { s with porch := { s.porch with ready := s.porch.ready ||| BitVec.ofNat 128 (2 ^ bit) } }
    .next (t.readied bit namespaces).minimaAgain

/-! ## Boot (R300) -/

/-- Whether an image verifies against the fused key hash. -/
def Porch.verifies (p : Porch) (img : BootImage) : Bool :=
  Config.sm3 img.key == p.fusedHash && Config.sigOk img.key (Config.sm3 img.body) img.sig

/-- A verified image runs: FW is set, and the hall cores are usable. -/
def State.runImage (s : State) (img : BootImage) : State :=
  let t : State := { s with porch := { s.porch with running := some img, ready := s.porch.ready ||| 1#128 } }
  t.readied 0 []

/-- Package reset: everything takes its reset value but the boot flash, the fuses, the ROM and the package's number; then the porch
boots from flash, or waits for an image. -/
def execPackageReset (s : State) : Host.Outcome State Fault Refusal :=
  let t : State :=
    { State.reset with
      pkgId := s.pkgId, tickNs := s.tickNs, free := s.free, next := s.next, deferLoads := s.deferLoads
      deferStores := s.deferStores, walkAsync := s.walkAsync
      porch := { Porch.blank with flash := s.porch.flash, fusedHash := s.porch.fusedHash, romVersion := s.porch.romVersion } }
  .next (if t.porch.verifies t.porch.flash then t.runImage t.porch.flash else t)

/-- A recovery image, through the mailbox or a FREE Ethernet port, while no firmware runs: verified and run from memory. -/
def execMailboxImage (img : BootImage) (s : State) : Host.Outcome State Fault Refusal :=
  if s.porch.running.isNone && s.porch.verifies img then .next (s.runImage img) else .next s

/-- The porch verifies an image again and writes it to flash. -/
def execFlashWrite (img : BootImage) (s : State) : Host.Outcome State Fault Refusal :=
  if s.porch.verifies img then .next ({ s with porch := { s.porch with flash := img } }.status 0) else .next (s.status 4)

/-! ## Harts and attestation (R301, R302) -/

/-- An SBI call starts another hall core of the partition. -/
def execHartStart (part hart entry : Nat) (s : State) : Host.Outcome State Fault Refusal :=
  match tget? s.porch.harts hart with
  | none => .next s
  | some h =>
    if h.part ≠ part ∨ h.started then .next s
    else .next { s with porch := { s.porch with harts := tput s.porch.harts hart { h with entry := entry, started := true, mode := .supervisor } } }

/-- The report of ATTEST: the nonce, the ROM version, the digests, and the signature over them. DESIGN CHOICE (log 55), unsafe. -/
def Porch.report (p : Porch) (part : Option Nat) (nonce : List Byte) : List Byte :=
  let fw := match p.running with | some i => Config.sm3 i.body | none => []
  let parts := match part with
    | none => p.parts.flatMap fun x => x.2.imageDigest
    | some k => match tget? p.parts k with | some x => x.imageDigest | none => []
  let body := nonce ++ leBytes 4 p.romVersion ++ fw ++ parts
  body ++ Config.deviceSign body

/-- ATTEST: through PF 0, or through a partition's virtual function for itself. -/
def execAttest (part : Option Nat) (nonce : List Byte) (s : State) : Host.Outcome State Fault Refusal :=
  let known := match part with | none => true | some k => (tget? s.porch.parts k).isSome
  if nonce.length ≠ 32 || !known then .next (s.status 4)
  else .next ({ s with porch := { s.porch with lastReport := s.porch.report part nonce } }.status 0)

/-! ## Contexts (R283, R105, R237) -/

/-- A context is created: its translation root, a zero near region table, unlimited buckets, quota 0. -/
def execContextCreate (ctx part root : Nat) (s : State) : Host.Outcome State Fault Refusal :=
  if 4096 ≤ ctx || (tget? s.ctxs ctx).isSome || (tget? s.porch.parts part).isNone then .next s
  else
    .next (s.setCtxAt ctx { Ctx.blank with part := part, root := root, sliceEnd := s.timebase.toNat + Ctx.blank.sliceNs })

end Sys2Proof.Machine
end

