-- ==== Sys2Proof/Machine/Debug.lean ====
section
/-! DEFINITION. The debugger (R273, R274, R78). -/

namespace Sys2Proof.Machine

/-- The group a debugger command names: the first with its context, core and number in its block.
DESIGN CHOICE (log 24), unsafe. -/
def State.dbgGroup (s : State) (ctx core group : Nat) : Option Nat :=
  (s.groups.find? fun p => p.2.ctx == ctx && p.2.core == core && p.2.num == group).map Prod.fst

/-- Whether a group is halted: it issues nothing, and what it has issued has completed or parked. -/
def Group.isHalted (g : Group) : Bool :=
  let rests (t : Slot) : Bool := t.pending.isEmpty && !t.unfinished
  g.halted && g.step.isNone && rests g.a && rests g.b

/-- DBG.HALT -/
def execDbgHalt (ctx core group : Nat) (s : State) : Host.Outcome State Fault Refusal :=
  match s.dbgGroup ctx core group with
  | none => .next s
  | some k => .next (s.setGrpAt k { s.grpAt k with halted := true, step := none })

/-- A slot that halted before a BKPT goes on past it. -/
def State.passBkpt (s : State) (k : Nat) (sel : SlotId) : State :=
  if ((s.grpAt k).slot sel).atBkpt then
    let t : State := { s with gid := k, sel := sel, uni := true }
    (t.setSlot { t.slot with atBkpt := false }).advance
  else s

/-- DBG.STEP: the slot issues once, one plane pass, then the group halts again; a pair never issues (R28, R273).
DESIGN CHOICE (log 77), safe. A slot before a BKPT steps over it. -/
def execDbgStep (ctx core group : Nat) (slot : SlotId) (s : State) : Host.Outcome State Fault Refusal :=
  match s.dbgGroup ctx core group with
  | none => .next s
  | some k =>
    let g := s.grpAt k
    if !g.halted || !(g.slot slot).live then .next s
    else if (g.slot slot).atBkpt then .next (s.passBkpt k slot)
    else .next (s.setGrpAt k { g with step := some slot })

/-- DBG.GO: issue resumes. -/
def execDbgGo (ctx core group : Nat) (s : State) : Host.Outcome State Fault Refusal :=
  match s.dbgGroup ctx core group with
  | none => .next s
  | some k =>
    let s := s.setGrpAt k { s.grpAt k with halted := false, step := none }
    .next ((s.passBkpt k .A).passBkpt k .B)

/-- DBG.BKPT: BKPT is on or off for the context. -/
def execDbgBkpt (ctx : Nat) (on : Bool) (s : State) : Host.Outcome State Fault Refusal :=
  if (tget? s.ctxs ctx).isNone then .next s else .next (s.setCtxAt ctx { s.ctxAt ctx with bkpt := on })

/-! ## Spaces (R273) -/

/-- What a space and an index name. -/
inductive DbgAt where
  | bad
  /-- an entry of a power unit that is gated -/
  | gated
  /-- the value held, and the power unit of an entry (core, port × 16 + unit) -/
  | val (w : Word) (unit : Option (Nat × Nat))
  deriving DecidableEq, Repr

/-- The group that holds entry `e` of a core's port, and the entry within it. -/
def State.entryOwner (s : State) (core port e : Nat) : Option (Nat × Nat) :=
  (s.groups.find? fun p => p.2.core == core && p.2.port == port && decide (p.2.base ≤ e) && decide (e < p.2.base + p.2.alloc)).map
    fun p => (p.1, e - p.2.base)
def State.annexOwner (s : State) (core port e : Nat) : Option (Nat × Nat) :=
  (s.groups.find? fun p =>
      p.2.core == core && p.2.port == port && decide (p.2.annexBase ≤ e) && decide (e < p.2.annexBase + p.2.annexAlloc)).map
    fun p => (p.1, e - p.2.annexBase)

/-- The key of a port entry that no allocation holds, in a lane. -/
def spareKey (port e L : Nat) : Nat := (port * 512 + e) * 32 + L

/-- The value of a port entry in a lane: a group's, or what a debugger left there outside every allocation (R50, R273). -/
def State.entryVal (s : State) (core port e L : Nat) : Word :=
  match s.entryOwner core port e with
  | some (h, i) => sget (s.grpAt h).v (i * 32 + L)
  | none => sget (s.coreAt core).spare (spareKey port e L)

/-- The value of an entry of the lent annex of a core, in a lane. -/
def State.annexVal (s : State) (core port e L : Nat) : Word :=
  match s.annexOwner core port e with
  | some (h, i) => sget (s.grpAt h).annex (i * 32 + L)
  | none => sget (s.coreAt (annexPartner core)).spare (spareKey port e L)

def State.putSpare (s : State) (core port e L : Nat) (w : Word) : State :=
  s.setCoreAt core { s.coreAt core with spare := sput (s.coreAt core).spare (spareKey port e L) w }

def State.putEntry (s : State) (core port e L : Nat) (w : Word) : State :=
  match s.entryOwner core port e with
  | some (h, i) => s.setGrpAt h { s.grpAt h with v := sput (s.grpAt h).v (i * 32 + L) w }
  | none => s.putSpare core port e L w

def State.putAnnex (s : State) (core port e L : Nat) (w : Word) : State :=
  match s.annexOwner core port e with
  | some (h, i) => s.setGrpAt h { s.grpAt h with annex := sput (s.grpAt h).annex (i * 32 + L) w }
  | none => s.putSpare (annexPartner core) port e L w

/-- Slot state in the layout of R200, with the slot as it stands. -/
def Group.slotNow (g : Group) (sel : SlotId) : Nat :=
  let t := g.slot sel
  if !t.live then 0
  else
    (if g.wholeSlot sel then 3 else if t.ck.recipe.isNone then 2 else 1) * 2 ^ 10 + (if t.parked then 2 ^ 13 else 0)
      + t.pcur.toNat * 2 ^ 14 + t.offset.toNat * 2 ^ 16 + t.mask.toNat * 2 ^ 46 + joinBits t.pjoin * 2 ^ 78
      + joinBits t.ck.recipe * 2 ^ 108 + t.ck.mask.toNat * 2 ^ 138 + t.ck.base % 256 * 2 ^ 146 + t.ck.count % 65536 * 2 ^ 154

/-- Word `i` of a number. -/
def wordN (x i : Nat) : Word := BitVec.ofNat 32 (x / 2 ^ (32 * i))

/-- The state seen from a group. -/
def State.seen (s : State) (k : Nat) : State := { s with gid := k, sel := if (s.grpAt k).a.live then .A else .B }

/-- What an access finds. -/
def State.dbgFind (s : State) (k : Nat) (sp : DbgSpace) : DbgAt :=
  let g := s.grpAt k
  let ok (b : Bool) (w : Word) : DbgAt := if b then .val w none else .bad
  match sp with
  | .v e L =>
    if 32 ≤ L ∨ 1024 ≤ e then .bad
    else if e < 512 then
      if s.unitHeld g.core g.port (unitOf e) = false then .gated
      else
        .val (s.entryVal g.core g.port e L) (some (g.core, g.port * 16 + unitOf e))
    else if !(s.coreAt (annexPartner g.core)).lent || !isA g.core then .bad
    else
      .val (s.annexVal g.core g.port (e - 512) L) (some (annexPartner g.core, g.port * 16 + unitOf (e - 512)))
  | .s n => ok (n < 48) (sget g.s n)
  | .m n => ok (1 ≤ n && n < 8) (sget g.m n)
  | .xbase i => ok (i < 4) (sget g.xbase i)
  | .xlimit i => ok (i < 4) (sget g.xlimit i)
  | .xindex i L => ok (i < 4 && L < 32) (sget g.xindex (i * 32 + L))
  | .csr n L high =>
    match (if n < 4096 then csrOf (BitVec.ofNat _ n) else none) with
    | none => .bad
    | some c =>
      let v := (s.seen k).csr c L
      ok (L < 32) (if high then v.extractLsb' 32 32 else v.extractLsb' 0 32)
  | .slotState sel i => ok (i < 16) (wordN (g.slotNow sel) i)
  | .acc a r c =>
    ok (a < 4 && r < 128 && c < 128 && (s.coreAt g.core).mxOwner == some g.block)
      (sget ((s.coreAt g.core).accAt a).words (r * 128 + c))
  | .tile t i => ok (t < (s.lncAt g.launch).tiles && i < 4) (wordN (s.tileAt g.block t).bits i)

/-- The response of R274. -/
def dbgBits (bad notHalted drowsy gated : Bool) (w : Word) : DWord :=
  BitVec.ofNat 64 (w.toNat + (if gated then 2 ^ 32 else 0) + (if drowsy then 2 ^ 33 else 0) + (if notHalted then 2 ^ 34 else 0)
    + (if bad then 2 ^ 35 else 0))

def State.respondDbg (s : State) (r : DWord) : State := { s with porch := { s.porch with dbgResponse := r } }

/-- An access wakes the power unit it reads; whether it was drowsy. -/
def State.wakeUnit (s : State) (u : Option (Nat × Nat)) : Bool × State :=
  match u with
  | none => (false, s)
  | some (core, k) =>
    let c := s.coreAt core
    (c.drowsy.contains k, s.setCoreAt core { c with drowsy := c.drowsy.filter fun x => x != k })

/-- DBG.READ -/
def execDbgRead (ctx core group : Nat) (sp : DbgSpace) (s : State) : Host.Outcome State Fault Refusal :=
  match s.dbgGroup ctx core group with
  | none => .next (s.respondDbg (dbgBits true false false false 0#32))
  | some k =>
    match s.dbgFind k sp with
    | .bad => .next (s.respondDbg (dbgBits true false false false 0#32))
    | .gated => .next (s.respondDbg (dbgBits false false false true 0#32))
    | .val w u =>
      let r := s.wakeUnit u
      .next (r.2.respondDbg (dbgBits false false r.1 false w))

/-- Store a value where a space and an index name a place that software may write: the fields of a slot state and of a tile-table
entry are read-only (R4, R200, R204). R51 numbers control registers, and nothing says how a debugger names the halves of a 64-bit one: here a
flag `high` beside the number chooses, and for a 32-bit register it changes nothing. DESIGN CHOICE (log 24), unsafe. -/
def State.dbgPut (s : State) (k : Nat) (sp : DbgSpace) (w : Word) : State :=
  let g := s.grpAt k
  match sp with
  | .v e L => if e < 512 then s.putEntry g.core g.port e L w else s.putAnnex g.core g.port (e - 512) L w
  | .s n => s.setGrpAt k { g with s := sput g.s n w }
  | .m n => s.setGrpAt k { g with m := sput g.m n w }
  | .xbase i => s.setGrpAt k { g with xbase := sput g.xbase i w }
  | .xlimit i => s.setGrpAt k { g with xlimit := sput g.xlimit i w }
  | .xindex i L => s.setGrpAt k { g with xindex := sput g.xindex (i * 32 + L) w }
  | .csr n L _ =>
    match (if n < 4096 then csrOf (BitVec.ofNat _ n) else none) with
    | some .laneFlags => s.setGrpAt k { g with laneFlags := sput g.laneFlags L (sget g.laneFlags L &&& ~~~ w) }
    | some .trapEn => s.setGrpAt k { g with trapEn := w.extractLsb' 0 8 }
    | some .fpMode => s.setGrpAt k { g with fpMode := w.extractLsb' 0 2 }
    | _ => s
  | .slotState _ _ => s
  | .acc a r c =>
    let x := s.coreAt g.core
    let acc := x.accAt a
    (s.setCoreAt g.core (x.setAcc a { acc with words := sput acc.words (r * 128 + c) w })).dirty g.block a
  | .tile _ _ => s

/-- DBG.WRITE: the response carries the value now held. -/
def execDbgWrite (ctx core group : Nat) (sp : DbgSpace) (value : Word) (s : State) : Host.Outcome State Fault Refusal :=
  match s.dbgGroup ctx core group with
  | none => .next (s.respondDbg (dbgBits true false false false 0#32))
  | some k =>
    match s.dbgFind k sp with
    | .bad => .next (s.respondDbg (dbgBits true (!(s.grpAt k).isHalted) false false 0#32))
    | .gated => .next (s.respondDbg (dbgBits false (!(s.grpAt k).isHalted) false true 0#32))
    | .val w u =>
      let r := s.wakeUnit u
      if !(s.grpAt k).isHalted then .next (r.2.respondDbg (dbgBits false true r.1 false w))
      else
        let t := r.2.dbgPut k sp value
        let now := match t.dbgFind k sp with | .val x _ => x | _ => 0#32
        .next (t.respondDbg (dbgBits false false r.1 false now))

end Sys2Proof.Machine
end

