-- ==== Sys2Proof/Machine/Host.lean ====
section
/-! DEFINITION. What reaches the package from outside: the host (R136, R293), other packages and the links to them (R295, R296),
Ethernet and drives (R298, R299), translation invalidation (R109), and soft errors (R103, R275). -/

namespace Sys2Proof.Machine

/-! ## Answers -/

def State.answer (s : State) (r : Reply) : State := { s with porch := { s.porch with reply := r } }

/-- The poisoned 64-byte sectors of a range, counted from its first. -/
def State.poisonIn (s : State) (pa n : Nat) : List Nat :=
  (List.range ((pa + n - 1) / 64 - pa / 64 + 1)).filter fun i => s.poisoned ((pa / 64 + i) * 64)

/-- Physical address of a package offset. -/
def State.ofOff (s : State) (off : Nat) : Nat := s.pkgId * 2 ^ 43 + off

/-! ## The host (R136, R293) -/

/-- The stations of a partition, ascending. -/
def State.stationsOf (s : State) (part : Nat) : List Nat :=
  ((s.porch.caps.filter fun p => p.2.type == 2 && p.2.owner == part && p.2.state == 1).map fun p => p.2.id).foldl
    (fun (l : List Nat) k => insertNat k l) []

/-- Where an offset of BAR 4 leads, if all the bytes lie in one of the partition's stations (R293). -/
def State.barAddr (s : State) (part off len : Nat) : Option Nat :=
  match (s.stationsOf part)[off / 2 ^ 32]? with
  | some st => if off % 2 ^ 32 + len ≤ 2 ^ 32 then some (s.ofOff (st * 2 ^ 32 + off % 2 ^ 32)) else none
  | none => none

/-- An atomic that comes from outside, at its home, with the operands of each lane that it combines, in their order: the answer has each
lane's old value. It is one step; a poisoned sector is read and not written (R103, R119, R134). -/
def State.homeAtom (s : State) (fn : Nat) (wide : Bool) (pa : Nat) (ops : List (DWord × DWord)) : State :=
  if s.poisoned pa then s.answer (.data (s.physRead pa (if wide then 8 else 4)) [0])
  else
    let r := s.atomsAt fn (if wide then .b64 else .b32) (ops.map fun o => (pa, o.1, o.2))
    r.2.answer (.data r.1.flatten [])

/-- Bytes that replace those of a number from a byte on. -/
def putBytesN (x : Nat) : Nat → List Byte → Nat
  | _, [] => x
  | i, b :: bs => putBytesN (x - x / 2 ^ (8 * i) % 256 * 2 ^ (8 * i) + b.toNat * 2 ^ (8 * i)) (i + 1) bs

/-- The command in a partition's window runs (R271, R289). -/
def State.fpSend (s : State) (part : Nat) (cmd : BitVec 128) : State :=
  match fpOp cmd with
  | 1 => nextOf s (execFqPop part cmd s)
  | 2 => nextOf s (execCtxResume part cmd s)
  | 3 => nextOf s (execCtxKill part cmd s)
  | _ => s.fpStatus part 3

/-- A write to a partition's window: its command register takes the bytes that lie in it, every other byte is read-only, and a write
of bytes 0x108 to 0x10F sends the command (R289, R4); a write of only some of those sends nothing. DEDUCED (log 78), unsafe. -/
def State.windowWrite (s : State) (part off : Nat) (data : List Byte) : State :=
  match tget? s.porch.parts part with
  | none => s
  | some x =>
    let bs := ((List.range data.length).zip data).filter fun b => decide (0x100 ≤ off + b.1) && decide (off + b.1 < 0x110)
    let cmd : BitVec 128 :=
      BitVec.ofNat 128 (putBytesN x.fpCmd.toNat ((max off 0x100) - 0x100) (bs.map Prod.snd))
    let t : State := { s with porch := { s.porch with parts := tput s.porch.parts part { x with fpCmd := cmd } } }
    if off ≤ 0x108 ∧ 0x110 ≤ off + data.length then t.fpSend part cmd else t

/-- The READY bitmap in PF 0 BAR 0; what else the command window holds is not stated: a free value (R293, R297).
DESIGN CHOICE (log 80), partly unsafe. -/
def State.porchByte (s : State) (off : Nat) : Byte :=
  if 0x100 ≤ off ∧ off < 0x110 then byteAt s.porch.ready.toNat (off - 0x100) else (Config.freeValue (s.free + off)).setWidth 8

/-- Where a host access goes, if anywhere: the partition's virtual function is enabled while the partition exists, and the access
lies within the BAR or the partition's stations (R293). -/
def State.hostReach (s : State) (bar : HostBar) (off len : Nat) : Bool :=
  match bar with
  | .porch => off + len ≤ 2 ^ 20
  | .window part => (tget? s.porch.parts part).isSome && off + len ≤ 2 ^ 16
  | .memory part => (tget? s.porch.parts part).isSome && (s.barAddr part off len).isSome

/-- Bytes of an AtomicOp, or of a write. -/
def hostOpLen : HostOp → Nat
  | .write data => data.length
  | .atom _ wide _ _ => if wide then 8 else 4

/-- The AtomicOps that PCIe has: FetchAdd, Swap and CAS of 32 or 64 bits (R120, R293). -/
def hostOpLegal : HostOp → Bool
  | .write _ => true
  | .atom fn wide _ _ => if wide then fn == 1 || fn == 0x0A || fn == 0x0C else fn == 0 || fn == 9 || fn == 0x0B

/-- A host write or AtomicOp is performed once the home slice accepts it (R136, R293). Registers complete no AtomicOp. -/
def execHostWrite (bar : HostBar) (off : Nat) (op : HostOp) (s : State) : Host.Outcome State Fault Refusal :=
  let e := Instr.hostWrite bar off op
  if !s.hostReach bar off (hostOpLen op) || !hostOpLegal op then .next (s.answer .unsupported)
  else
    match bar, op with
    | .porch, .write _ => .next (s.answer (.data [] []))
    | .porch, .atom _ _ _ _ => .next (s.answer .unsupported)
    | .window part, .write data => .next ((s.windowWrite part off data).answer (.data [] []))
    | .window _, .atom _ _ _ _ => .next (s.answer .unsupported)
    | .memory part, op =>
      let pa := (s.barAddr part off (hostOpLen op)).getD 0
      if s.lineHeld [(pa, (hostOpLen op))] then .next (s.hold e)
      else
        match op with
        | .write data => .next ((s.store [(pa, data)]).answer (.data [] []))
        | .atom fn wide x y =>
          if pa % (hostOpLen op) ≠ 0 then .next (s.answer .unsupported) else .next (s.homeAtom fn wide pa [(x, y)])

/-- A host read (R289, R293, R297). -/
def execHostRead (bar : HostBar) (off len : Nat) (s : State) : Host.Outcome State Fault Refusal :=
  let e := Instr.hostRead bar off len
  if !s.hostReach bar off len then .next (s.answer .unsupported)
  else
    match bar with
    | .porch =>
      .next (State.answer { s with free := s.free + 2 ^ 20 } (.data ((List.range len).map fun i => s.porchByte (off + i)) []))
    | .window part => .next (s.answer (.data ((List.range len).map fun i => s.windowByte part (off + i)) []))
    | .memory part =>
      let pa := (s.barAddr part off len).getD 0
      if s.lineHeld [(pa, len)] then .next (s.hold e)
      else .next ((s.touchRange pa len).answer (.data (s.physRead pa len) (s.poisonIn pa len)))

/-! ## Ramrex (R295, R296) -/

/-- A packet of another package at its home line here: it runs on a hit in L2, or at the station (R171). -/
def State.farIn (s : State) (p : FarPacket) : Packet :=
  { gid := 0, core := 0, tagKey := 0, gtag := 0#6, ctx := 0, launch := 0, offset := 0#30, hdr := p.hdr, words := p.words,
    unis := p.unis, first := 0, lanes := p.lanes, line := p.line, pages := p.pages, place := false, fromL1 := false, tag := true,
    rc := false, phase := .accepted, code := if s.l2Whole (paOff (p.line * 128) / 128) then 4#4 else 5#4, bad := none,
    fpMode := p.fpMode, regs := p.regs, s := p.sregs, m := p.masks, planes := p.planes, flags := [], num := p.num,
    routine := false }

/-- It runs as one indivisible step, and its results return (R173, R175, R296). -/
def State.runFar (s : State) (p : FarPacket) : State :=
  let q := s.farIn p
  let s := if q.below then s.l2Drop (paOff (p.line * 128) / 128) else s
  let l := s.sinkLine q
  let r := q.runOn l.1 l.2
  let t := if r.bad.isNone then s.sinkHome q r else s
  t.answer (.landed r.t.grp.v r.t.grp.laneFlags q.code r.bad)

/-- A request from another package is performed at its home slice, without the partition check (R296); an offset that does not
exist is PA_RANGE at the remote end (R94). -/
def execRemoteRequestArrive (req : RemoteReq) (s : State) : Host.Outcome State Fault Refusal :=
  let e := Instr.remoteRequestArrive req
  let pa := (reqSpan req).1
  let n := (reqSpan req).2
  if !s.ownPa pa || !s.ownPa (pa + n - 1) then .next (s.answer .paRange)
  else if s.lineHeld [(pa, n)] then .next (s.hold e)
  else
    match req with
    | .load _ _ => .next ((s.touchRange pa n).answer (.data (s.physRead pa n) (s.poisonIn pa n)))
    | .store _ d bad =>
      let u := s.store [(pa, d)]
      .next ((bad.foldl (fun (v : State) i => v.spoilSector (paOff pa / 64 + i)) u).answer (.data [] []))
    | .atom fn w _ ops => .next (s.homeAtom fn w pa ops)
    | .packet p => .next (s.runFar p)

/-- A flit that fails its CRC is sent again from the replay buffer: timing only (R296). -/
def execLinkFlitRetry (_link : Nat) (s : State) : Host.Outcome State Fault Refusal := .next s

/-- A link goes down: its READY bit clears, and its requests take other routes, none lost (R296). -/
def execLinkDown (link : Nat) (s : State) : Host.Outcome State Fault Refusal :=
  if 18 ≤ link then .next s
  else
    .next { s with porch := { s.porch with
      linksUp := s.porch.linksUp &&& ~~~ BitVec.ofNat 18 (2 ^ link)
      ready := s.porch.ready &&& ~~~ BitVec.ofNat 128 (2 ^ (9 + link)) } }

/-- The fabric manager sets the presence map and the routes (R295). -/
def execRouteTableSet (presence : BitVec 432) (routes : List (Nat × List Nat)) (s : State) : Host.Outcome State Fault Refusal :=
  .next { s with porch := { s.porch with presence := presence, routes := routes } }

/-! ## Ethernet and drives (R298, R299) -/

/-- Whether package bytes lie in a partition's stations. -/
def State.partBytes (s : State) (part pa len : Nat) : Bool := len != 0 && s.ownsRange part pa len

/-- A frame arrives: into its partition's buffers, or to the porch's management agent while the port is FREE (R298). -/
def execEthernetFrameReceive (port pa : Nat) (frame : List Byte) (s : State) : Host.Outcome State Fault Refusal :=
  let e := Instr.ethernetFrameReceive port pa frame
  if 9216 < frame.length then .next s
  else
    match s.cap? 4 port with
    | none => .next s
    | some (_, c) =>
      if c.state = 0 then
        .next { s with porch := { s.porch with frames := s.porch.frames ++ [(port, frame)] } }
      else if c.state ≠ 1 || !s.partBytes c.owner pa frame.length then .next s
      else if s.lineHeld [(pa, frame.length)] then .next (s.hold e)
      else .next (s.store [(pa, frame)])

/-- A drive's transfer: checked against the stations of the partition that owns the namespace (R299). -/
def execNvmeDataTransfer (ns pa len : Nat) (data : List Byte) (toDrive : Bool) (s : State) : Host.Outcome State Fault Refusal :=
  let e := Instr.nvmeDataTransfer ns pa len data toDrive
  let err (b : Bool) (t : State) : State := { t with porch := { t.porch with nvmeError := b } }
  match s.cap? 5 ns with
  | none => .next (err true s)
  | some (_, c) =>
    if c.state ≠ 1 || !s.partBytes c.owner pa len || (!toDrive && data.length != len) then .next (err true s)
    else if s.lineHeld [(pa, len)] then .next (s.hold e)
    else if toDrive then .next (err false (s.answer (.data (s.physRead pa len) (s.poisonIn pa len))))
    else .next (err false (s.store [(pa, data)]))

/-! ## Translation invalidation (R109) -/

/-- Whether an access or a packet of a context to another agent is still on its way. -/
def State.farOuts (s : State) (c : Nat) : Bool :=
  (s.outs.any fun p => (s.grpAt p.2.gid).ctx == c && !s.homeReq p.2)
    || s.packets.any fun p => p.2.ctx == c && p.2.phase == .accepted && s.farPacket p.2

/-- Whether a copy job of a context that is not complete has moved a row of a range. -/
def State.jobsIn (s : State) (c va len : Nat) : Bool :=
  s.cores.any fun x => x.2.copyQ.any fun j =>
    (s.blkAt j.2.block).ctx == c && (List.range j.2.row).any fun r => meets [(s.rowVa j.2 r, j.2.rowb)] [(va, len)]

/-- An entry of a TLB maps a page of a context's range. -/
def TlbEntry.inRange (c va len : Nat) (e : TlbEntry) : Bool :=
  e.ctx == c && decide (e.vpage * 2 ^ e.log2 < va + len) && decide (va < (e.vpage + 1) * 2 ^ e.log2)

/-- No TLB and no walker holds an entry of a context's range. -/
def State.dropEntries (s : State) (c va len : Nat) : State :=
  let keep (l : List TlbEntry) : List TlbEntry := l.filter fun e => !e.inRange c va len
  { s with
    cores := tmap s.cores fun _ (x : Core) => { x with tlb := keep x.tlb }
    quads := tmap s.quads fun _ (q : Quad) => { q with tlb := keep q.tlb }
    descs := s.descs.filter fun e => e.ctx != c }

/-- The request completes: no TLB or walker holds an entry of the range, stores are performed, loads and accepted packets in flight
are done, and packets that their home has not accepted are cancelled. While an access to another agent is on its way, a load waits
for a line that its home slice holds, or a copy job has moved some of its rows through the range, it cannot complete. DEDUCED (log 56), safe. -/
def execTlbInvalidate (ctx va len : Nat) (s : State) : Host.Outcome State Fault Refusal :=
  if s.farOuts ctx || s.jobsIn ctx va len || s.outs.any fun p => (s.grpAt p.2.gid).ctx == ctx && s.outHeld p.2 then .next s
  else
    let s := s.drainAll
    let s := (s.outs.filter fun p => (s.grpAt p.2.gid).ctx == ctx).foldl (fun (t : State) p => t.respond p.1 p.2 (t.homeResp p.2)) s
    let s := (s.packets.filter fun p => p.2.ctx == ctx && p.2.phase != .executed).foldl
      (fun (t : State) p => if p.2.phase = .formed then t.cancelPacket p.1 p.2 else nextOf t (execSinkPacketExecute p.1 t)) s
    .next (s.dropEntries ctx va len)

/-! ## Soft errors (R103, R275) -/

/-- A saturating count. -/
def countUp (w : Word) : Word := if w = BitVec.ofNat 32 (2 ^ 32 - 1) then w else w + 1#32

/-- Change a unit's counters: correctable, uncorrectable. -/
def State.errCount (s : State) (u : ErrUnit) (f g : Word → Word) : State :=
  match u with
  | .core n => let c := s.coreAt n; s.setCoreAt n { c with errC := f c.errC, errU := g c.errU }
  | .station n => let x := s.stationAt n; s.setStationAt n { x with errC := f x.errC, errU := g x.errU }
  | .slice n =>
    { s with porch := { s.porch with
      sliceErrC := tput s.porch.sliceErrC n (f ((tget? s.porch.sliceErrC n).getD 0#32))
      sliceErrU := tput s.porch.sliceErrU n (g ((tget? s.porch.sliceErrU n).getD 0#32)) } }
  | .channel n =>
    { s with porch := { s.porch with
      channelErrC := tput s.porch.channelErrC n (f ((tget? s.porch.channelErrC n).getD 0#32))
      channelErrU := tput s.porch.channelErrU n (g ((tget? s.porch.channelErrU n).getD 0#32)) } }

/-- A core's copies of a sector are poisoned: its L1's, its constant cache's and its read-only cache's (R103). -/
def Core.spoil (c : Core) (sec : Nat) : Core :=
  let bad (x : Copy) : Copy := { x with poison := true }
  let path (m : Map (Nat × Nat) Copy) : Map (Nat × Nat) Copy := tmap m fun k x => if k.2 = sec then bad x else x
  { c with l1 := tmod c.l1 sec bad, cc := path c.cc, ro := path c.ro }

/-- An uncorrectable error strikes the copy of a sector that its unit holds: a core's caches', L2's in a slice, the memory-side cache's at
a station, DRAM's at a pseudo-channel (R103, R275). -/
def State.spoil (s : State) (u : ErrUnit) (pa : Nat) : State :=
  let k := paOff pa / 64
  match u with
  | .core n => s.setCoreAt n ((s.coreAt n).spoil (pa / 64))
  | .slice _ => if s.ownPa pa then s.spoilL2 k else s
  | .station _ => if s.ownPa pa then s.spoilMsc k else s
  | .channel _ => if s.ownPa pa then s.spoilDram k else s

/-- A soft error is met: counted, and where it is uncorrectable, data is poisoned and the context that owns state is killed.
DEDUCED (log 42), safe. -/
def execSoftError (u : ErrUnit) (hit : ErrHit) (s : State) : Host.Outcome State Fault Refusal :=
  match hit with
  | .corrected => .next (s.errCount u countUp id)
  | .data pa =>
    .next ((s.errCount u id countUp).spoil u pa)
  | .scratch b off =>
    let t := s.errCount u id countUp
    match tget? t.blocks b with
    | none => .next t
    | some x => .next (t.setBlkAt b { x with scratchPoison := insertNat (off / 64) x.scratchPoison })
  | .groupState g =>
    let t := s.errCount u id countUp
    match tget? t.groups g with
    | none => .next t
    | some x => .next (t.kill x.ctx (t.mkRecord x .A { cause := .stateError, mask := 0#32 } false false 0#4))
  | .tileEntry b =>
    let t := s.errCount u id countUp
    match tget? t.blocks b with
    | none => .next t
    | some x => .next (t.kill x.ctx (t.plainRecord x.ctx .stateError))

/-- The porch clears a counter. -/
def execErrorCounterClear (u : ErrUnit) (correctable : Bool) (s : State) : Host.Outcome State Fault Refusal :=
  let zero (_ : Word) : Word := 0#32
  .next (if correctable then s.errCount u zero id else s.errCount u id zero)

end Sys2Proof.Machine
end

