-- ==== Sys2Proof/Machine/Sched.lean ====
section
/-! DEFINITION. Which thing happens next, decided by plain data: the passing of time with the events it brings (R231, R283,
R287, R288, R292, R193), the choice of the slot that issues (R23, R191), and the work left to the package's units. -/

namespace Sys2Proof.Machine

/-- Multiples of a period in (a, b]. -/
def crosses (a b period : Nat) : Bool := a / period != b / period

/-- The quads with a governor at work: those that are ready and not retired, whatever they hold (R287). -/
def State.governed (s : State) : List Nat :=
  (s.porch.caps.filter fun p => p.2.type == 1 && p.2.state != 3).map fun p => p.2.id

/-- The events due when the timebase moves from `a` to `b`. -/
def State.dueEvents (s : State) (a b : Nat) : List Instr :=
  (if crosses a b 1000 then
      Instr.bucketRefill :: (s.cores.map fun p => Instr.mxWindowEnd p.1) ++ (s.governed.map fun q => Instr.governorWindow q)
    else [])
    ++ ((s.leases.filter fun p => a < p.2.expiry && p.2.expiry ≤ b).map fun p => Instr.leaseExpiry p.1)
    ++ (match s.shedDue with
        | some t => if a < t && t ≤ b then [Instr.sheddingStep] else []
        | none => [])

/-- Slices stand still while contexts are paused (R288), and while a group of the context is halted (R273). -/
def State.holdSlices (s : State) : Table Ctx :=
  tmap s.ctxs fun c (x : Ctx) => if 4 ≤ s.porch.shed || s.hasHalted c then { x with sliceEnd := x.sliceEnd + s.tickNs } else x

/-- Time passes by the step's length, and what falls due joins the agenda. DESIGN CHOICE (log 5), partly unsafe. -/
def State.tick (s : State) : State :=
  let t := s.timebase + BitVec.ofNat 64 s.tickNs
  { s with timebase := t, ctxs := s.holdSlices, agenda := s.agenda ++ s.dueEvents s.timebase.toNat t.toNat }

/-- Select a slot of a group. -/
def State.focus (s : State) (k : Nat) (sel : SlotId) : State := { s with gid := k, sel := sel }

/-- Whether the slot's job card can be accepted (R213). -/
def State.copyDue (s : State) : Bool := s.slot.cpy.any s.copyReady

/-- What a slot that waits can go on with: a trap whose turn has come (R266), a deferred cause (R266), a stack entry's read
(R68), a job card that can be accepted (R213), a barrier phase that has completed (R73). -/
def State.slotEvent (s : State) : Option Instr :=
  let sl := s.slot
  if !s.awake then none
  else if sl.trap.isSome then
    if (s.grp.slot (otherSlot s.sel)).inTrap then none else some (.trapEntry s.gid s.sel)
  else if sl.parked || sl.stopped then none
  else if !sl.deferred.isEmpty && sl.atIssue then
    some (.deferredTrapTake s.gid s.sel)
  else if sl.joinRead then some (.joinEntryReadReturn s.gid s.sel)
  else if s.copyDue then some (.copyJobAccept s.gid s.sel)
  else
    match sl.meet with
    | some tok =>
      match s.barOwner ((scopeOf? (tok.extractLsb' 0 3)).getD .sys) with
      | some o =>
        if (s.barAt o (tok.extractLsb' 4 4).toNat).gen != tok.extractLsb' 8 24 then some (.barWaitProceed s.gid s.sel)
        else none
      | none => none
    | none => none

/-! ## Issue among groups (R23, R191) -/

/-- Whether a slot has something to go on with: an instruction, one beyond its header, or what it waited for. -/
def State.mayMove (s : State) (k : Nat) (sel : SlotId) : Bool :=
  let u := s.focus k sel
  u.slot.live && ((u.ready && u.engGo && !u.fetchHeld) || u.slotEvent.isSome || (u.aheadNext k sel).isSome)

/-- A group's age: one that has not been ready yet has none, and its slot A comes first. -/
def State.ageOf (s : State) (k : Nat) : Age := (tget? s.ages k).getD ⟨none, .B⟩

/-- The slot of a group that moves next: of the two that can, the one that did not issue last. -/
def State.moverBy (s : State) (can : Nat → SlotId → Bool) (k : Nat) : Option SlotId :=
  let last := (s.ageOf k).last
  if can k (otherSlot last) then some (otherSlot last) else if can k last then some last else none

/-- The groups that are ready, each with the slot that moves next. -/
def State.moversBy (s : State) (can : Nat → SlotId → Bool) : Table SlotId :=
  s.groups.filterMap fun p => (s.moverBy can p.1).map fun sel => (p.1, sel)

/-- Every group's age as it stands: a group that has become ready is ready from now on, one that is not has no age. -/
def State.stampAges (s : State) (ready : Table SlotId) : State :=
  { s with ages := s.groups.map fun p =>
      (p.1, { s.ageOf p.1 with
        since := if (tget? ready p.1).isSome then some ((s.ageOf p.1).since.getD s.timebase.toNat) else none }) }

/-- A stage's output queue is full: it owns a defined tile of the block, and none of those is EMPTY (R191, R207). -/
def Block.stageFull (b : Block) (stage : BitVec 2) : Bool :=
  let own := (tvals b.tiles).filter fun t => t.defd && t.owner == stage.setWidth 3
  !own.isEmpty && own.all fun t => t.state != .empty

/-- Nanoseconds after which a ready LOW group ranks HIGH: 128 cycles at the nominal 2.4 GHz, rounded up (R191, R286).
DESIGN CHOICE (log 10), unsafe. -/
def promoteNs : Nat := 54

/-- Whether a group ranks LOW: its stage's output queue is full, and it has not been ready for 128 cycles without issuing (R191). -/
def State.ranksLow (s : State) (k : Nat) : Bool :=
  let g := s.grpAt k
  (match g.stage with | some st => (s.blkAt g.block).stageFull st | none => false)
    && decide (s.timebase.toNat < (s.ageOf k).since.getD s.timebase.toNat + promoteNs)

/-- The order of roles at equal age: matrix, copy, epilogue, general (R189, R191). -/
def State.roleRank (s : State) (g : Group) : Nat :=
  match g.stage with
  | none => 3
  | some st =>
    match (s.lncAt g.launch).stageD st.toNat / 2 ^ 29 % 4 with
    | 2 => 0 | 1 => 1 | 3 => 2 | _ => 3

/-- What a port's choice goes by: rank, age, role, number in the block, residency order of the block (R191). -/
def State.issueKey (s : State) (k : Nat) : List Nat :=
  let g := s.grpAt k
  [if s.ranksLow k then 1 else 0, (s.ageOf k).since.getD 0, s.roleRank g, g.num, s.blocks.findIdx fun p => p.1 == g.block]

/-- Lexicographic order. -/
def lexLt : List Nat → List Nat → Bool
  | _, [] => false
  | [], _ :: _ => true
  | a :: as, b :: bs => if a < b then true else if b < a then false else lexLt as bs

/-- The first of the least elements of a list by a key. -/
def leastBy (key : Nat → List Nat) : List Nat → Option Nat
  | [] => none
  | a :: as =>
    match leastBy key as with
    | none => some a
    | some b => if lexLt (key b) (key a) then some b else some a

/-- The group that each port chooses of those that are ready (R191). -/
def State.portChoices (s : State) (ready : Table SlotId) : List Nat :=
  let ports := ready.map fun p => (p.1, (s.grpAt p.1).core * 4 + (s.grpAt p.1).port)
  ((ports.map Prod.snd).eraseDups).filterMap fun q => leastBy s.issueKey ((ports.filter fun p => p.2 == q).map Prod.fst)

/-- The slot that moves next of those that are ready: each port has chosen its group, and of the ports the one whose group has been ready
longest goes first. DESIGN CHOICE (log 10), unsafe. -/
def State.pickFrom (s : State) (ready : Table SlotId) : Option State :=
  let t := s.stampAges ready
  match leastBy (fun k => [(t.ageOf k).since.getD 0]) (t.portChoices ready) with
  | none => none
  | some k =>
    (tget? ready k).map fun sel => State.focus { t with ages := tput t.ages k ⟨some t.timebase.toNat, sel⟩ } k sel

/-- What units could go on with when no slot can act, in the order in which it is tried: performed stores, walks, returns of this
package, sunk packets, matrix commands, follow-ons, copy jobs, near commands, records that wait. -/
def State.unitWork (s : State) : List Instr :=
  (s.stores.map fun p => Instr.storePerformed p.1)
    ++ ((s.walks.filter fun p => !p.2.ended).map fun p => Instr.pageWalkComplete p.1)
    ++ ((s.outs.filter fun p => s.homeReq p.2).map fun p => Instr.loadReturn p.1 (.data [] []))
    ++ (s.packets.map fun p =>
        match p.2.phase with
        | .formed => Instr.sinkPacketAccept p.1
        | .accepted => Instr.sinkPacketExecute p.1
        | .executed => Instr.sinkPacketLand p.1)
    ++ (s.cores.flatMap fun p =>
        (p.2.mxQ.take 1).map (fun _ => Instr.matrixCommandExecute p.1) ++ (p.2.followQ.take 1).map (fun _ => Instr.followOnEnqueue p.1)
          ++ (p.2.copyQ.filter fun j => !j.2.stopped).map fun j => Instr.copyJobComplete p.1 j.1)
    ++ (((s.near.filter fun p => !p.2.started).map fun p => p.2.ctx).eraseDups.map fun c => Instr.nearCommandStart c)
    ++ ((s.near.filter fun p => p.2.started).filterMap fun p => if p.2.stalled then some (Instr.nearStall p.1) else nearOp p.2.op p.1)
    ++ (s.ctxs.filter fun p => !p.2.fqWait.isEmpty).map (fun p => Instr.faultRecordPost p.1)

/-- What the scheduler does before an instruction issues: a dependence that is met, a context that yields, blocks that become resident or a
context that resumes. -/
def State.schedWork (s : State) : Option Instr :=
  match s.depDue with
  | some e => some e
  | none => match s.nextSlice with | some e => some e | none => s.nextServed

/-- A slot but for what it keeps while its instruction waits to issue. -/
def Slot.bare (t : Slot) : Slot := { t with paid := [], eng := none, cpy := none, waitUni := false }

/-- No power unit that a group could reach is drowsy. -/
def State.allAwake (s : State) : Bool :=
  (s.coreAt s.grp.core).drowsy.isEmpty && (s.coreAt (annexPartner s.grp.core)).drowsy.isEmpty

/-- The entries an instruction reads: its operands after the destination, what an FBP saves, a header's inputs (R50, R165, R195). -/
def State.wakeReads (s : State) (w : IWord) (f : Form) : List Nat :=
  if fld w 88 8 == 0x90#8 then
    match decSink id w with
    | .ok h => ((sinkIns h).map BitVec.toNat).filter fun n => n < 192
    | .error _ => []
  else (f.opds.drop 1).flatMap (s.grp.touches f.lanes) ++ fbpTouches w f

/-- The reads of an instruction that passes its issue checks wake the power units they reach; one that is held back or traps at them
reaches none (R50). DESIGN CHOICE (log 61), safe. -/
def State.wakeFor (s : State) (w : IWord) : State :=
  if s.allAwake then s
  else
    match formOf w s with
    | .error _ => s
    | .ok f => if s.heldBack (aheadWord w) || (f.check s).isSome then s else s.wakeEntries s.grp (s.wakeReads w f)

/-- Whether the slot of `u` has gone on in `t` with some of some lanes: no trap, no wait, not every lane parked. -/
def State.wentOn (u t : State) (lanes : Lanes) : Bool :=
  let a := u.slot
  let b := (t.grpAt u.gid).slot u.sel
  (tget? t.groups u.gid).isSome && b.live && (b.offset != a.offset || b.pcur != a.pcur) && b.trap.isNone && b.inTrap == a.inTrap
    && b.mask &&& lanes != 0#32

/-- The destination of an instruction that has had its effect wakes the units it is written to: an instruction that traps or waits writes
none, and a value that comes later wakes them when it is written (R50). -/
def State.wakeDest (u : State) (w : IWord) (t : State) : State :=
  if u.allAwake then t
  else
    match formOf w u with
    | .error _ => t
    | .ok f =>
      if fld w 88 8 == 0x90#8 || !u.wentOn t f.lanes then t
      else t.wakeEntries u.grp ((f.opds.take 1).flatMap (u.grp.touches f.lanes))

/-- The lanes an encoding trap carries (R265). -/
def State.wordLanes (s : State) (w : IWord) : Lanes :=
  match wordClass w with
  | .V => s.execLanes (fld w 77 3) (w.getLsbD 76)
  | .S => s.slot.mask

/-- The line addresses a fetch translates stay in the TLBs (R108). -/
def State.fetchTlb (s : State) : State :=
  s.tlbFills s.grp.core s.grp.ctx ((s.grp.occupied s.slot.mask).map fun p => s.lnc.lineVa p.toNat (lineOf s.slot.offset))

/-- What the fetch of the selected slot leaves: the word to run with the slot's UNI bit set, or the next state of a trap or a
fetch fault. A trap of R27 records the pass and the lanes as the UNI bit and the word stand, though their parity may have failed:
R27 and R265 do not say what they count for then. DEDUCED (log 82), unsafe. -/
def State.fetched (s : State) : Except State (IWord × State) :=
  match s.fetch with
  | .fault c va => .error (s.slotFault c va .fetch)
  | .trap c uni w =>
    let t : State := { s with uni := uni }
    .error (t.takeTrap { cause := c, mask := match w with | some w => t.wordLanes w | none => s.slot.mask })
  | .word w uni => .ok (w, { s.fetchTlb with uni := uni })

/-- Whether the slot's turn is a branch that issues whatever it does: it may lead back to its own offset (R63, R66). -/
def State.branches (u : State) : Bool :=
  match u.slotEvent, u.fetched with
  | none, .ok (w, v) =>
    let held := v.mreg (fld w 34 3).toNat
    !v.heldBack (aheadWord w)
      && ((fld w 88 8 == 5#8 && (fld w 80 8).toNat ≤ 8)
        || (fld w 88 8 == 6#8 && v.passLanes &&& (if w.getLsbD 33 then held else ~~~ held) == 0#32))
  | _, _ => false

/-- A step under DBG.STEP is over once its slot has issued: it has moved, or branched to where it stands, waits for what it has issued, has
parked or traps; a charge that is noted or a walk that is waited for is no issue (R273). DESIGN CHOICE (log 77), safe. -/
def State.endStep (u t : State) : State :=
  if u.grp.step == some u.sel && (((t.grpAt u.gid).slot u.sel).bare != u.slot.bare || u.branches) then
    { t with groups := tmod t.groups u.gid fun (g : Group) => { g with step := none } }
  else t

end Sys2Proof.Machine
end

