-- ==== Sys2Proof/Machine/Fetch.lean ====
section
/-! DEFINITION. A word placed where the next step fetches its instruction: the helpers of State.withFetchWord. -/

namespace Sys2Proof.Machine

/-- The line word of a line whose slots are all uniform and all branch targets, given the parities of its words (R26). -/
def openLineWord (ps : BitVec 5) : Word := BitVec.ofNat 32 (0x3FF + ps.toNat * 2 ^ 26)

/-- A fetch line with one word in slot 0 and NOPs after it (R25, R26, R36). -/
def oneWordLine (w : IWord) : List Byte :=
  leBytes 12 w.toNat ++ leBytes 48 0 ++ leBytes 4 (openLineWord (BitVec.ofNat 5 (if parity w then 1 else 0))).toNat

/-- The packet of the launch that a placed word runs in: code at address 0, a stride of 64 KiB, one plane, 192 registers. -/
def placedPkt : BitVec 1024 := BitVec.ofNat 1024 (1 + 24 * 2 ^ 192 + 1024 * 2 ^ 160)

/-- The leaf that maps the first 64 KiB of virtual space to the first of the package, with every permission. -/
def placedLeaf (pkg : Nat) : Pte := BitVec.ofNat 64 (pkg * 2 ^ 43 + 0x139)

/-- A context, launch, block and group are made resident, as a launch makes them, with the word at the group's offset 0 in
memory that its translation reaches; it has been ready the longest. DESIGN CHOICE (log 4), safe. -/
def State.placeGroup (s : State) (w : IWord) : State :=
  let c := tfresh s.ctxs; let l := tfresh s.launches; let b := tfresh s.blocks; let k := tfresh s.groups
  let lanes : Lanes := BitVec.ofNat 32 0xFFFFFFFF
  let ck : Checkpoint := { Checkpoint.blank with lanes := lanes }
  let g : Group :=
    { Group.blank with ctx := c, launch := l, block := b, alloc := 192, alive := lanes,
                       a := { Slot.free with live := true, mask := lanes, ck := ck } }
  { s with
    ctxs := tput s.ctxs c { Ctx.blank with sliceEnd := s.timebase.toNat + 2000000 }
    launches := tput s.launches l { Launch.blank with pkt := placedPkt, state := .running, depOk := true, started := 1 }
    blocks := tput s.blocks b { Block.blank with ctx := c, launch := l, groups := [k] }
    groups := (k, g) :: s.groups
    ages := [(k, ⟨some 0, .B⟩)]
    next := max s.next (max b k + 1)
    cores := tput s.cores 0 { s.coreAt 0 with tlb := ⟨c, 0, 16, placedLeaf s.pkgId⟩ :: (s.coreAt 0).tlb }
    porch := { s.porch with
      shed := 0
      caps := (tfresh s.porch.caps, ⟨2, 0, 1, 0, 4, 4, 0, 0⟩) :: s.porch.caps }
    mem := writeBytes s.mem 0 (oneWordLine w) }

/-- The word is stored at the position of a slot that can issue; the line word is set for it. -/
def State.placeAt (s u : State) (pa : Nat) (w : IWord) : State :=
  let k := slotIn u.slot.offset
  let mem := writeBytes s.mem (paOff pa + 12 * k) (leBytes 12 w.toNat)
  let ws := [0, 1, 2, 3, 4].map fun i => parity (slotWord (readBytes mem (paOff pa) 64) i)
  let ps := ws.foldr (fun b n => (if b then 1 else 0) + 2 * n) 0
  { s with mem := writeBytes mem (paOff pa + 60) (leBytes 4 (openLineWord (BitVec.ofNat 5 ps)).toNat) }

/-- Where the next slot to issue fetches its word: one plane occupied, in this package's memory, no event before it. -/
def State.fetchPa (u : State) : Option Nat :=
  if u.slotEvent.isSome then none
  else
    match u.grp.occupied u.slot.mask with
    | [p] =>
      match translate u (some u.grp.core) u.grp.ctx (u.lnc.lineVa p.toNat (lineOf u.slot.offset)) .fetch with
      | .ok x => if u.ownPa x.pa then some x.pa else none
      | .error _ => none
    | _ => none

/-- The word where the next step fetches: in the code of the slot that issues next, or in a group made resident for it. -/
def State.placeWord (s : State) (w : IWord) : State :=
  let s := { s with agenda := [], unitsNext := false }
  match s.tick.pickFrom (s.tick.moversBy s.tick.mayMove) with
  | some u => match u.fetchPa with | some pa => s.placeAt u pa w | none => s.placeGroup w
  | none => s.placeGroup w

end Sys2Proof.Machine
end

