-- ==== Sys2Proof/Machine/Bits.lean ====
section
/-! DEFINITION. Bit fields (R82) and integer division (R83, R84): majors 0x23 and 0x24. -/

namespace Sys2Proof.Machine

/-- a field of A (R82) -/
def execVxtrB32 (x : RegF) (s : State) : Host.Outcome State Fault Refusal :=
  vecPlain rVVV x (lane2 xtrU x) s

/-- a field of A, sign-extended (R82) -/
def execVxtrI32 (x : RegF) (s : State) : Host.Outcome State Fault Refusal :=
  vecPlain rVVV x (lane2 xtrS x) s

/-- A put into a field of C (R82) -/
def execVinsB32 (x : RegF) (s : State) : Host.Outcome State Fault Refusal :=
  vecPlain rVVVV x (lane3 insB x) s

/-- number of one bits (R82) -/
def execVpopcB32 (x : RegF) (s : State) : Host.Outcome State Fault Refusal :=
  vecPlain rVV x (lane1 (fun a => BitVec.ofNat 32 (popc a)) x) s

/-- leading zeros (R82) -/
def execVclzB32 (x : RegF) (s : State) : Host.Outcome State Fault Refusal :=
  vecPlain rVV x (lane1 (fun a => BitVec.ofNat 32 (clz a)) x) s

/-- trailing zeros (R82) -/
def execVctzB32 (x : RegF) (s : State) : Host.Outcome State Fault Refusal :=
  vecPlain rVV x (lane1 (fun a => BitVec.ofNat 32 (ctz a)) x) s

/-- bits reversed (R82) -/
def execVbrevB32 (x : RegF) (s : State) : Host.Outcome State Fault Refusal :=
  vecPlain rVV x (lane1 brev x) s

/-- bytes of B:A picked by C (R82) -/
def execVbselB8 (x : RegF) (s : State) : Host.Outcome State Fault Refusal :=
  vecPlain rVVVV x (lane3 bsel x) s

/-- B:A shifted right by C (R82) -/
def execVfunB32 (x : RegF) (s : State) : Host.Outcome State Fault Refusal :=
  vecPlain rVVVV x (lane3 fun64 x) s

/-- signed quotient (R83, R84) -/
def execVdivI32 (x : RegF) (s : State) : Host.Outcome State Fault Refusal :=
  vecEv rVVV x (laneDiv divS (fun q _ => [q]) x) s

/-- signed remainder (R83, R84) -/
def execVremI32 (x : RegF) (s : State) : Host.Outcome State Fault Refusal :=
  vecEv rVVV x (laneDiv divS (fun _ r => [r]) x) s

/-- unsigned quotient (R83, R84) -/
def execVdivB32 (x : RegF) (s : State) : Host.Outcome State Fault Refusal :=
  vecEv rVVV x (laneDiv divU (fun q _ => [q]) x) s

/-- unsigned remainder (R83, R84) -/
def execVremB32 (x : RegF) (s : State) : Host.Outcome State Fault Refusal :=
  vecEv rVVV x (laneDiv divU (fun _ r => [r]) x) s

/-- signed quotient and remainder (R83, R84) -/
def execVdivremI32 (x : RegF) (s : State) : Host.Outcome State Fault Refusal :=
  vecEv rDivrem x (laneDiv divS (fun q r => [q, r]) x) s

/-- unsigned quotient and remainder (R83, R84) -/
def execVdivremB32 (x : RegF) (s : State) : Host.Outcome State Fault Refusal :=
  vecEv rDivrem x (laneDiv divU (fun q r => [q, r]) x) s


end Sys2Proof.Machine
end

