-- ==== Sys2Proof/Machine/Cvt.lean ====
section
/-! DEFINITION. The conversions (R158 to R160): major 0x45. -/

namespace Sys2Proof.Machine

/-! ## Element formats (R142, R158) -/

/-- The float element formats by EF; INT8 is EF 5 (R158). -/
def elemFmt (ef : BitVec 4) : Fmt :=
  match ef.toNat with
  | 0 => e4m3 | 1 => e5m2 | 2 => e3m2 | 3 => e2m3 | _ => e2m1

/-- Bits an element takes in its register position, and the bits its code has (R159). -/
def elemSlot (ef : BitVec 4) : Nat := if ef = 4#4 then 4 else 8
def cvtBits (ef : BitVec 4) : Nat := if ef = 4#4 then 4 else if ef = 2#4 ∨ ef = 3#4 then 6 else 8

/-- The element at a position, and a register with it replaced (R159). -/
def elemGet (ef : BitVec 4) (pos : BitVec 3) (w : Word) : Nat :=
  (w >>> (elemSlot ef * pos.toNat)).toNat % 2 ^ cvtBits ef
def elemPut (ef : BitVec 4) (pos : BitVec 3) (w : Word) (c : Nat) : Word :=
  let sh := elemSlot ef * pos.toNat
  (w &&& ~~~ (BitVec.ofNat 32 (2 ^ elemSlot ef - 1) <<< sh)) ||| (BitVec.ofNat 32 (c % 2 ^ elemSlot ef) <<< sh)

/-- A byte as a signed integer. -/
def sext8 (c : Nat) : Int := (BitVec.ofNat 8 c).toInt

/-- The value of a block element under an E8M0 scale: a NaN scale makes it NaN (R145). -/
def mxValue (f : Fmt) (c s : Nat) : Exact :=
  let x := unpack f c
  if s % 256 = 255 then ⟨.nan, snEv [x]⟩
  else
    match x.v with
    | .num n m e st => ⟨.num n m (e + (s % 256 : Nat) - 127) st, 0#8⟩
    | v => ⟨v, snEv [x]⟩

/-- A float rounded to INT8: saturation sets QSAT, and NX when finite (R160). -/
def toInt8 (mode : Nat) (scale : Int) (a : FSrc) : Nat × Events :=
  match a.v with
  | .nan => (0, evNV)
  | .inf n => (if n then 0x80 else 0x7F, evQSAT)
  | .num n m e st =>
    let r := roundInt mode n m (e + scale) st
    let i : Int := if n then -(r.1 : Int) else r.1
    if i < -128 then (0x80, evQSAT ||| evNX)
    else if 127 < i then (0x7F, evQSAT ||| evNX)
    else ((BitVec.ofInt 8 i).toNat, if r.2 then evNX else 0#8)

/-- A float rounded to an element format (R160). -/
def toElem (ef : BitVec 4) (mode : Nat) (sat : Bool) (scale : Int) (a : FSrc) : Nat × Events :=
  if ef = 5#4 then toInt8 mode scale a else roundVal (elemFmt ef) mode sat scale ⟨a.v, snEv [a]⟩

/-! ## Conversions (R159) -/

/-- A signed or unsigned integer to FP32. -/
def laneFromInt (signed : Bool) (rms : BitVec 3) (x : RegF) : LaneFn := fun e =>
  let a := e.rd x.a 0
  one (finish fp32 (rmsMode rms e.rm) x.scale 0#2 (ofInteger (if signed then a.toInt else a.toNat)))
/-- FP32 to an integer in a range. -/
def laneToInt (lo hi : Int) (rms : BitVec 3) (x : RegF) : LaneFn := fun e =>
  let r := toInteger lo hi (rmsMode rms e.rm) x.scale.toInt (e.fa x)
  ([BitVec.ofInt 32 r.1], r.2)
/-- A half to FP32, exactly. -/
def laneFromHalf (f : Fmt) (hi : Bool) (x : RegF) : LaneFn := fun e =>
  let a := srcH f x.absa x.nega (e.rd x.a 0) (if hi then 1 else 0)
  one (roundVal fp32 0 false 0 ⟨a.v, snEv [a]⟩)
/-- Two FP32 values to a packed register. -/
def laneToPair (f : Fmt) (rms : BitVec 3) (x : RegF) : LaneFn := fun e =>
  let r (a : FSrc) := finish f (rmsMode rms e.rm) x.scale x.clamp ⟨a.v, snEv [a]⟩
  two (r (e.fa x)) (r (e.fb x))
/-- C with one element replaced. -/
def laneToElem (ex : ElemX) (x : RegF) : LaneFn := fun e =>
  let r := toElem ex.ef (rmsMode ex.rms e.rm) (x.clamp == 3#2) x.scale.toInt (e.fa x)
  ([elemPut ex.ef ex.pos (e.rd x.c 0) r.1], r.2)
/-- An element to FP32, under a scale with SCB. -/
def laneFromElem (ex : ElemX) (x : RegF) : LaneFn := fun e =>
  let c := elemGet ex.ef ex.pos (e.rd x.a 0)
  let v : Exact :=
    if ex.ef = 5#4 then ofInteger (sext8 c)
    else if ex.scb then mxValue (elemFmt ex.ef) c (byteOf (e.rd x.b 0) 0).toNat
    else ⟨(unpack (elemFmt ex.ef) c).v, snEv [unpack (elemFmt ex.ef) c]⟩
  one (roundVal fp32 (rmsMode ex.rms e.rm) false 0 v)
/-- An E8M0 scale to FP32. -/
def fromE8m0 (w : Word) : Word :=
  let s := (byteOf w 0).toNat
  if s = 255 then fNan else fPow2 ((s : Int) - 127)

/-- R159 -/
def execVcvtF32I32 (x : RegF) (rms : BitVec 3) (s : State) : Host.Outcome State Fault Refusal :=
  vecEv rCvtP x (laneFromInt true rms x) s

/-- R159 -/
def execVcvtF32B32 (x : RegF) (rms : BitVec 3) (s : State) : Host.Outcome State Fault Refusal :=
  vecEv rCvtP x (laneFromInt false rms x) s

/-- R159, R160 -/
def execVcvtI32F32 (x : RegF) (rms : BitVec 3) (s : State) : Host.Outcome State Fault Refusal :=
  vecEv rCvtNP x (laneToInt (-2147483648) 2147483647 rms x) s

/-- R159, R160 -/
def execVcvtB32F32 (x : RegF) (rms : BitVec 3) (s : State) : Host.Outcome State Fault Refusal :=
  vecEv rCvtNP x (laneToInt 0 4294967295 rms x) s

/-- R159 -/
def execVcvtF32F16 (x : RegF) (hi : Bool) (s : State) : Host.Outcome State Fault Refusal :=
  vecEv rCvtN x (laneFromHalf fp16 hi x) s

/-- R159 -/
def execVcvtF32Bf16 (x : RegF) (hi : Bool) (s : State) : Host.Outcome State Fault Refusal :=
  vecEv rCvtN x (laneFromHalf bf16 hi x) s

/-- R159 -/
def execVcvtF16x2F32 (x : RegF) (rms : BitVec 3) (s : State) : Host.Outcome State Fault Refusal :=
  vecEv rF2 x (laneToPair fp16 rms x) s

/-- R159 -/
def execVcvtBf16x2F32 (x : RegF) (rms : BitVec 3) (s : State) : Host.Outcome State Fault Refusal :=
  vecEv rF2 x (laneToPair bf16 rms x) s

/-- R159, R160: CLAMP 1 and 2 are not permitted. -/
def execVcvtFmtF32 (x : RegF) (ex : ElemX) (s : State) : Host.Outcome State Fault Refusal :=
  issue true (regForm rCvtE x (x.clamp == 0#2 || x.clamp == 3#2))
    (fun s => s.writeEv x.d (s.execLanes x.guard x.ginv) fun L => laneToElem ex x (s.env L)) s

/-- R159, R145 -/
def execVcvtF32Fmt (x : RegF) (ex : ElemX) (s : State) : Host.Outcome State Fault Refusal :=
  vecEv (rFromElem ex) x (laneFromElem ex x) s

/-- R159 -/
def execVcvtF32E8m0 (x : RegF) (s : State) : Host.Outcome State Fault Refusal :=
  vecPlain rVV x (lane1 fromE8m0 x) s


end Sys2Proof.Machine
end

