-- ==== Sys2Proof/Machine/Lane.lean ====
section
/-! DEFINITION. The instructions across the lanes of a slot (R86 to R90, R161 to R163): shuffles, polls, reductions, the scan,
the rotation and the quantisation; plane numbers (R69) and index registers (R46). Majors 0x25, 0x26, 0x46, 0x91 and 0x93. -/

namespace Sys2Proof.Machine

/-! ## Shuffles and broadcasts (R87, R88) -/

/-- The uniform operand: LANE5 with USEI, otherwise a scalar register (R87). -/
def State.uniform (s : State) (x : RegF) (lx : LaneX) : Nat :=
  if lx.usei then lx.lane5.toNat else (s.grp.rdS x.b 0).toNat

/-- The source lane of functions 0x00 to 0x05, where there is one. -/
def srcLane (s : State) (fn : Nat) (x : RegF) (lx : LaneX) (L : Lane) : Option Lane :=
  let u := s.uniform x lx
  match fn with
  | 0 => some ((if lx.usei then lx.lane5.toNat else (s.grp.rd x.b 0 L).toNat) % 32)
  | 1 => if u ≤ L then some (L - u) else none
  | 2 => if L + u ≤ 31 then some (L + u) else none
  | 3 => some (L ^^^ (u % 32))
  | 4 => some (L ^^^ 1)
  | _ => some (u % 32)

/-- The sign flip of VSWAPP. -/
def swapSign (fn : Nat) (lx : LaneX) (L : Lane) (w : Word) : Word :=
  if fn = 4 ∧ ((lx.sgn = 1#2 ∧ L % 2 = 0) ∨ (lx.sgn = 2#2 ∧ L % 2 = 1)) then w ^^^ 0x80000000#32 else w

/-- The registers a shuffle writes in a lane. -/
def shuffled (s : State) (fn : Nat) (x : RegF) (lx : LaneX) (E : Lanes) (L : Lane) : List Word :=
  let src := match srcLane s fn x lx L with | some k => if laneIn E k then k else L | none => L
  let w (j : Nat) : Word := swapSign fn lx L (s.grp.rd x.a j src)
  if lx.w64 then [w 0, w 1] else [w 0]

/-- Functions 0x00 to 0x05 of major 0x25. -/
def shuffle (fn : Nat) (x : RegF) (lx : LaneX) (s : State) : Host.Outcome State Fault Refusal :=
  regIssue (rLane fn lx) x (fun s =>
    let E := s.execLanes x.guard x.ginv
    .done (s.setLanes x.d E (shuffled s fn x lx E))) s

/-- B[L] mod 32 (R87) -/
def execVxlnPick (x : RegF) (lx : LaneX) (s : State) : Host.Outcome State Fault Refusal := shuffle 0 x lx s
/-- L − δ (R87) -/
def execVxlnLower (x : RegF) (lx : LaneX) (s : State) : Host.Outcome State Fault Refusal := shuffle 1 x lx s
/-- L + δ (R87) -/
def execVxlnUpper (x : RegF) (lx : LaneX) (s : State) : Host.Outcome State Fault Refusal := shuffle 2 x lx s
/-- L xor δ (R87) -/
def execVxlnMirror (x : RegF) (lx : LaneX) (s : State) : Host.Outcome State Fault Refusal := shuffle 3 x lx s
/-- the paired lane (R87) -/
def execVswapp (x : RegF) (lx : LaneX) (s : State) : Host.Outcome State Fault Refusal := shuffle 4 x lx s
/-- one lane for every lane (R87) -/
def execVxlnFan (x : RegF) (lx : LaneX) (s : State) : Host.Outcome State Fault Refusal := shuffle 5 x lx s

/-- A lane's value to a scalar, 0 from a lane outside E (R88). -/
def execVxlnTake (x : RegF) (lx : LaneX) (s : State) : Host.Outcome State Fault Refusal :=
  regIssue (rLane 6 lx) x (fun s =>
    let E := s.execLanes x.guard x.ginv
    let k := s.uniform x lx % 32
    .done (s.setS x.d (if laneIn E k then s.grp.rd x.a 0 k else 0#32))) s

/-- A scalar to one lane of E (R88). -/
def execVxlnPut (x : RegF) (lx : LaneX) (s : State) : Host.Outcome State Fault Refusal :=
  regIssue (rLane 7 lx) x (fun s =>
    let E := s.execLanes x.guard x.ginv
    let k := s.uniform x lx % 32
    .done (s.setLanes x.d (E &&& laneBit k) fun _ => [s.grp.rdS x.a 0])) s

/-! ## Polls, reductions and the scan (R89, R90) -/

/-- A lane's value of A. -/
def State.laneA (s : State) (x : RegF) (L : Lane) : Word := s.grp.rd x.a 0 L

/-- A poll that writes a scalar; nothing is written when E is empty. -/
def poll (x : RegF) (f : State → Lanes → Word) (s : State) : Host.Outcome State Fault Refusal :=
  regIssue rPoll x (fun s =>
    let E := s.execLanes x.guard x.ginv
    if E = 0#32 then .done s else .done (s.setS x.d (f s E))) s

/-- 1 if some lane of E is nonzero (R89) -/
def execVpollSome (x : RegF) (s : State) : Host.Outcome State Fault Refusal :=
  poll x (fun s E => boolWord ((lanesOf E).any fun L => s.laneA x L != 0#32)) s
/-- 1 if every lane of E is nonzero (R89) -/
def execVpollEvery (x : RegF) (s : State) : Host.Outcome State Fault Refusal :=
  poll x (fun s E => boolWord ((lanesOf E).all fun L => s.laneA x L != 0#32)) s
/-- the set of nonzero lanes of E (R89) -/
def execVpollMap (x : RegF) (s : State) : Host.Outcome State Fault Refusal :=
  poll x (fun s E => E &&& maskWhere fun L => s.laneA x L != 0#32) s
/-- 1 if the value is the same in every lane of E (R89) -/
def execVpollSame (x : RegF) (s : State) : Host.Outcome State Fault Refusal :=
  poll x (fun s E => boolWord ((lanesOf E).all fun L => (lanesOf E).all fun K => s.laneA x L == s.laneA x K)) s
/-- in each lane of E the set of lanes of E with its value (R89) -/
def execVpollPeers (x : RegF) (s : State) : Host.Outcome State Fault Refusal :=
  regIssue rPeers x (fun s =>
    let E := s.execLanes x.guard x.ginv
    .done (s.setLanes x.d E fun L => [E &&& maskWhere fun K => s.laneA x K == s.laneA x L])) s

/-- A reduction's result goes to the scalar D or to every lane of E (R89). -/
def State.setRed (s : State) (o : Opd) (E : Lanes) (w : Word) : State :=
  match o with
  | .v _ => s.setLanes o E fun _ => [w]
  | _ => s.setS o w

/-- An integer reduction, exact modulo 2^32 (R90). -/
def redInt (x : RegF) (op : Word → Word → Word) (s : State) : Host.Outcome State Fault Refusal :=
  regIssue rRed x (fun s =>
    let E := s.execLanes x.guard x.ginv
    match lanesOf E with
    | [] => .done s
    | L :: Ls => .done (s.setRed x.d E (Ls.foldl (fun a K => op a (s.laneA x K)) (s.laneA x L)))) s

/-- sum mod 2^32 (R89) -/
def execVredAddI32 (x : RegF) (s : State) : Host.Outcome State Fault Refusal := redInt x (· + ·) s
/-- signed minimum (R89) -/
def execVredMinI32 (x : RegF) (s : State) : Host.Outcome State Fault Refusal := redInt x minS s
/-- signed maximum (R89) -/
def execVredMaxI32 (x : RegF) (s : State) : Host.Outcome State Fault Refusal := redInt x maxS s
/-- unsigned minimum (R89) -/
def execVredMinB32 (x : RegF) (s : State) : Host.Outcome State Fault Refusal := redInt x minU s
/-- unsigned maximum (R89) -/
def execVredMaxB32 (x : RegF) (s : State) : Host.Outcome State Fault Refusal := redInt x maxU s
/-- AND of all (R89) -/
def execVredAndB32 (x : RegF) (s : State) : Host.Outcome State Fault Refusal := redInt x (· &&& ·) s
/-- OR of all (R89) -/
def execVredOrB32 (x : RegF) (s : State) : Host.Outcome State Fault Refusal := redInt x (· ||| ·) s
/-- XOR of all (R89) -/
def execVredXorB32 (x : RegF) (s : State) : Host.Outcome State Fault Refusal := redInt x (· ^^^ ·) s

/-- Combine the values of two lanes, where both are in E (R90). -/
def redPair (op : Word → Word → Word × Events) (a b : Option Word) : Option Word × Events :=
  match a, b with
  | some a, some b => (some (op a b).1, (op a b).2)
  | none, b => (b, 0#8)
  | a, none => (a, 0#8)

/-- The tree of R90: at each stage the lower half of the list meets the upper half. -/
def redTree (op : Word → Word → Word × Events) : Nat → List (Option Word) → Option Word × Events
  | 0, vs => (vs.headD none, 0#8)
  | n + 1, vs =>
    let ps := List.zipWith (redPair op) (vs.take (2 ^ n)) (vs.drop (2 ^ n))
    let r := redTree op n (ps.map Prod.fst)
    (r.1, ps.foldl (fun e p => e ||| p.2) r.2)

/-- Events of a group-wide float instruction: an enabled one traps with mask E, otherwise all go to every lane of E (R90,
R162). -/
def State.groupEv (s : State) (E : Lanes) (ev : Events) (t : State) : Issue :=
  if ev &&& s.grp.trapEn != 0#8 ∧ E ≠ 0#32 then
    .trap { cause := trapCause s.grp.trapEn E fun _ => ev, mask := E }
  else .done (t.setGrp (t.grp.orFlags (fun _ => ev) (lanesOf E)))

/-- An FP32 reduction (R90). -/
def redFp (x : RegF) (op : Nat → Word → Word → Word × Events) (s : State) : Host.Outcome State Fault Refusal :=
  regIssue rRed x (fun s =>
    let E := s.execLanes x.guard x.ginv
    let r := redTree (op s.grp.fpMode.toNat) 5 (allLanes.map fun L => if laneIn E L then some (s.laneA x L) else none)
    match r.1 with
    | none => .done s
    | some w => s.groupEv E r.2 (s.setRed x.d E w)) s

/-- FP32 sum by the tree (R90) -/
def execVredAddF32 (x : RegF) (s : State) : Host.Outcome State Fault Refusal := redFp x fAdd s
/-- FP32 minimum by the tree (R90) -/
def execVredMinF32 (x : RegF) (s : State) : Host.Outcome State Fault Refusal := redFp x (fun _ => fMin) s
/-- FP32 maximum by the tree (R90) -/
def execVredMaxF32 (x : RegF) (s : State) : Host.Outcome State Fault Refusal := redFp x (fun _ => fMax) s

/-- in each lane of E the sum mod 2^32 over the lanes of E up to it (R89) -/
def execVscanAddI32 (x : RegF) (s : State) : Host.Outcome State Fault Refusal :=
  regIssue rPeers x (fun s =>
    let E := s.execLanes x.guard x.ginv
    .done (s.setLanes x.d E fun L =>
      [((lanesOf E).filter fun K => K ≤ L).foldl (fun a K => a + s.laneA x K) 0#32])) s

/-! ## The rotation (R162) -/

/-- One stage of butterflies at a distance, with the events of its operations. -/
def hadStage (d : Nat) (vs : List Word) : List (Word × Events) :=
  allLanes.map fun L =>
    if L &&& d = 0 then fAdd 0 (vs.getD L 0#32) (vs.getD (L + d) 0#32)
    else fSub 0 (vs.getD (L - d) 0#32) (vs.getD L 0#32)

/-- The stages in order. -/
def hadStages : List Nat → List Word → Events → List Word × Events
  | [], vs, ev => (vs, ev)
  | d :: ds, vs, ev =>
    let r := hadStage d vs
    hadStages ds (r.map Prod.fst) (r.foldl (fun e p => e ||| p.2) ev)

/-- The 32-point transform; `norm` multiplies by 1/√32. -/
def had32 (norm : Bool) (vs : List Word) : List Word × Events :=
  let r := hadStages [1, 2, 4, 8, 16] vs 0#8
  if norm then
    let m := r.1.map fun w => fMul 0 w 0x3E3504F3#32
    (m.map Prod.fst, m.foldl (fun e p => e ||| p.2) r.2)
  else r

def rotate (norm : Bool) (x : RegF) (s : State) : Host.Outcome State Fault Refusal :=
  regIssue rHad x (fun s =>
    let E := s.execLanes x.guard x.ginv
    let r := had32 norm (allLanes.map fun L => if laneIn E L then s.laneA x L else 0#32)
    s.groupEv E r.2 (s.setLanes x.d E fun L => [r.1.getD L 0#32])) s

/-- the transform (R162) -/
def execVhad32 (x : RegF) (s : State) : Host.Outcome State Fault Refusal := rotate false x s
/-- the transform times 1/√32 (R162) -/
def execVhad32N (x : RegF) (s : State) : Host.Outcome State Fault Refusal := rotate true x s

/-! ## The quantisation (R163) -/

/-- Element format and exponent of its largest finite value by QF (R161, R163). -/
def quantFmt (qf : BitVec 4) : Fmt × Int :=
  match qf.toNat with
  | 0 => (e4m3, 8) | 1 => (e5m2, 15) | 2 => (e4m3, 8) | 3 => (e3m2, 4) | 4 => (e2m3, 2) | _ => (e2m1, 2)
/-- Bits of a packed element. -/
def quantBits (qf : BitVec 4) : Nat := match qf.toNat with | 3 => 6 | 4 => 6 | 5 => 4 | _ => 8

/-- Whether the target has a scale. -/
def quantMx (qf : BitVec 4) : Bool := 2 ≤ qf.toNat

/-- ⌊log2⌋ of a positive finite FP32 magnitude. -/
def floorLog2 (v : Val) : Int := match v with | .num _ m e _ => e + bitLen m - 1 | _ => 0

/-- The block's scale: 127 with no finite nonzero value (R163). -/
def quantScale (emax : Int) (vs : List Val) : Nat :=
  let fs := vs.filter fun v => !v.isNan && !v.isInf && !v.isZero
  match fs.map floorLog2 with
  | [] => 127
  | k :: ks => (max (-127) (min 127 (ks.foldl max k - emax)) + 127).toNat

/-- One element: round_rne, saturating, with the events of R163. -/
def quantElem (f : Fmt) (scale : Nat) (x : FSrc) : Nat × Events :=
  match x.v with
  | .nan => (f.nan, snEv [x])
  | .inf n => (f.signed n f.max, evQSAT)
  | .num n m e st => roundNum f 0 true true n m (e + 127 - scale) st

/-- Whether the block is the NaN block of R163. -/
def quantNan (qf : BitVec 4) (vs : List FSrc) : Bool := quantMx qf && vs.any fun x => x.v.isNan

/-- Word k of the packed stream (R144). -/
def packedWord (bits : Nat) (es : List Nat) (k : Nat) : Word :=
  BitVec.ofNat 32 (es.foldr (fun c n => c % 2 ^ bits + 2 ^ bits * n) 0 / 2 ^ (32 * k))

/-- quantise to one block (R163) -/
def execVquant (x : RegF) (qx : QuantX) (s : State) : Host.Outcome State Fault Refusal :=
  regIssue rHad x (fun s =>
    let E := s.execLanes x.guard x.ginv
    let f := quantFmt qx.qf
    let src (L : Lane) : FSrc := unp32 (s.laneA x L)
    let bad := quantNan qx.qf ((lanesOf E).map src)
    let scale : Nat :=
      if bad then 255 else if quantMx qx.qf then quantScale f.2 ((lanesOf E).map fun L => (src L).v) else 127
    let el (L : Lane) : Nat × Events :=
      if bad then (0, if (src L).v.isNan then evNV else 0#8) else quantElem f.1 scale (src L)
    let T := trapLanes s.grp.trapEn E fun L => (el L).2
    if T != 0#32 then .trap { cause := trapCause s.grp.trapEn T fun L => (el L).2, mask := T }
    else
      let es := allLanes.map fun L => if laneIn E L then (el L).1 else 0
      let bits := quantBits qx.qf
      let t : State :=
        if qx.pack then
          s.setLanes x.d (E &&& maskWhere fun L => L < bits) fun L => [packedWord bits es L]
        else s.setLanes x.d E fun L => [BitVec.ofNat 32 (el L).1]
      let t : State :=
        match opdOf qx.scd with
        | some o => if quantMx qx.qf then t.setS o (BitVec.ofNat 32 scale) else t
        | none => t
      .done (t.setGrp (t.grp.orFlags (fun L => (el L).2) (lanesOf E)))) s

/-! ## Plane numbers (R17, R69) -/

/-- plane numbers from A; a number of P or more traps and nothing changes (R69) -/
def execPset (x : RegF) (s : State) : Host.Outcome State Fault Refusal :=
  regIssue rPset x (fun s =>
    let E := s.passLanes
    let p (L : Lane) : BitVec 2 := (s.laneA x L).extractLsb' 0 2
    let bad := E &&& maskWhere fun L => s.lnc.planes ≤ (p L).toNat
    if bad != 0#32 then .trap { cause := .planeRange, mask := bad }
    else .done (s.setGrp { s.grp with planes := sputMany s.grp.planes p (lanesOf E) })) s

/-- plane numbers to D (R69) -/
def execPget (x : RegF) (s : State) : Host.Outcome State Fault Refusal :=
  regIssue rPget x (fun s => .done (s.setLanes x.d s.passLanes fun L => [(s.grp.planeOf L).setWidth 32])) s

/-! ## Index registers (R46) -/

/-- Whether entries [lo, hi] lie in one part of the indirect space. -/
def State.inIndirect (s : State) (lo hi : Nat) : Bool :=
  hi < s.grp.alloc || (s.lnc.hot && 512 ≤ lo && hi < 512 + s.grp.annexAlloc)

/-- Per-lane indices of the executing lanes. -/
def State.setIndex (s : State) (k : BitVec 2) (E : Lanes) (f : Lane → Word) : State :=
  s.setGrp { s.grp with xindex := sputMany s.grp.xindex (fun n => f (n % 32)) ((lanesOf E).map fun L => k.toNat * 32 + L) }

/-- index, BASE and LIMIT (R46) -/
def execXset (x : RegF) (k : BitVec 2) (s : State) : Host.Outcome State Fault Refusal :=
  regIssue rXset x (fun s =>
    let E := s.execLanes x.guard x.ginv
    let base := s.grp.rdS x.b 0
    let lim := s.grp.rdS x.c 0
    if lim = 0#32 ∨ s.inIndirect base.toNat (base.toNat + lim.toNat - 1) = false then
      .trap { cause := .indexRange, mask := s.slot.mask }
    else
      let t := s.setGrp { s.grp with xbase := sput s.grp.xbase k.toNat base, xlimit := sput s.grp.xlimit k.toNat lim }
      .done (t.setIndex k E (s.laneA x))) s

/-- index only (R46) -/
def execXidx (x : RegF) (k : BitVec 2) (s : State) : Host.Outcome State Fault Refusal :=
  regIssue rXidx x (fun s => .done (s.setIndex k (s.execLanes x.guard x.ginv) (s.laneA x))) s

/-- add to the index (R46) -/
def execXadd (x : RegF) (k : BitVec 2) (s : State) : Host.Outcome State Fault Refusal :=
  regIssue rXidx x (fun s =>
    .done (s.setIndex k (s.execLanes x.guard x.ginv) fun L =>
      sget s.grp.xindex (k.toNat * 32 + L) + s.laneA x L)) s

/-- read the index (R46) -/
def execXget (x : RegF) (k : BitVec 2) (s : State) : Host.Outcome State Fault Refusal :=
  regIssue rXget x (fun s =>
    .done (s.setLanes x.d (s.execLanes x.guard x.ginv) fun L => [sget s.grp.xindex (k.toNat * 32 + L)])) s

end Sys2Proof.Machine
end

