-- ==== Sys2Proof/Machine/Scalar.lean ====
section
/-! DEFINITION. The scalar instructions (R58 to R60): majors 0x01, 0x02 and 0x03. -/

namespace Sys2Proof.Machine

/-- the sum mod 2^32 (R58, R59) -/
def execSaddI32 (x : RegF) (s : State) : Host.Outcome State Fault Refusal :=
  sclPlain rSSS x (scl2 (· + ·) x) s

/-- the difference mod 2^32 (R58, R59) -/
def execSsubI32 (x : RegF) (s : State) : Host.Outcome State Fault Refusal :=
  sclPlain rSSS x (scl2 (· - ·) x) s

/-- the low 32 bits of the product (R58, R59) -/
def execSmulI32 (x : RegF) (s : State) : Host.Outcome State Fault Refusal :=
  sclPlain rSSS x (scl2 (· * ·) x) s

/-- bits 63:32 of the signed product (R58, R59) -/
def execSmulhiI32 (x : RegF) (s : State) : Host.Outcome State Fault Refusal :=
  sclPlain rSSS x (scl2 mulHiS x) s

/-- bits 63:32 of the unsigned product (R58, R59) -/
def execSmulhiB32 (x : RegF) (s : State) : Host.Outcome State Fault Refusal :=
  sclPlain rSSS x (scl2 mulHiU x) s

/-- A & B (R58, R59) -/
def execSandB32 (x : RegF) (s : State) : Host.Outcome State Fault Refusal :=
  sclPlain rSSS x (scl2 (· &&& ·) x) s

/-- A | B (R58, R59) -/
def execSorB32 (x : RegF) (s : State) : Host.Outcome State Fault Refusal :=
  sclPlain rSSS x (scl2 (· ||| ·) x) s

/-- A ^ B (R58, R59) -/
def execSxorB32 (x : RegF) (s : State) : Host.Outcome State Fault Refusal :=
  sclPlain rSSS x (scl2 (· ^^^ ·) x) s

/-- A & ~B (R58, R59) -/
def execSandnB32 (x : RegF) (s : State) : Host.Outcome State Fault Refusal :=
  sclPlain rSSS x (scl2 andn x) s

/-- shift left (R58, R59) -/
def execSshlB32 (x : RegF) (s : State) : Host.Outcome State Fault Refusal :=
  sclPlain rSSS x (scl2 shl x) s

/-- logical shift right (R58, R59) -/
def execSshrB32 (x : RegF) (s : State) : Host.Outcome State Fault Refusal :=
  sclPlain rSSS x (scl2 shrU x) s

/-- arithmetic shift right (R58, R59) -/
def execSshrI32 (x : RegF) (s : State) : Host.Outcome State Fault Refusal :=
  sclPlain rSSS x (scl2 shrS x) s

/-- signed minimum (R58, R59) -/
def execSminI32 (x : RegF) (s : State) : Host.Outcome State Fault Refusal :=
  sclPlain rSSS x (scl2 minS x) s

/-- signed maximum (R58, R59) -/
def execSmaxI32 (x : RegF) (s : State) : Host.Outcome State Fault Refusal :=
  sclPlain rSSS x (scl2 maxS x) s

/-- unsigned minimum (R58, R59) -/
def execSminB32 (x : RegF) (s : State) : Host.Outcome State Fault Refusal :=
  sclPlain rSSS x (scl2 minU x) s

/-- unsigned maximum (R58, R59) -/
def execSmaxB32 (x : RegF) (s : State) : Host.Outcome State Fault Refusal :=
  sclPlain rSSS x (scl2 maxU x) s

/-- A (R58) -/
def execSmovB32 (x : RegF) (s : State) : Host.Outcome State Fault Refusal :=
  sclPlain rSS x (scl1 (fun a => a) x) s

/-- 64-bit sum (R58) -/
def execSaddB64 (x : RegF) (s : State) : Host.Outcome State Fault Refusal :=
  scl64 x (· + ·) s

/-- 64-bit difference (R58) -/
def execSsubB64 (x : RegF) (s : State) : Host.Outcome State Fault Refusal :=
  scl64 x (· - ·) s

/-- number of one bits (R58) -/
def execSpopcB32 (x : RegF) (s : State) : Host.Outcome State Fault Refusal :=
  sclPlain rSS x (scl1 (fun a => BitVec.ofNat 32 (popc a)) x) s

/-- leading zero bits (R58) -/
def execSclzB32 (x : RegF) (s : State) : Host.Outcome State Fault Refusal :=
  sclPlain rSS x (scl1 (fun a => BitVec.ofNat 32 (clz a)) x) s

/-- low 32 bits of A × B + C (R58) -/
def execSmadI32 (x : RegF) (s : State) : Host.Outcome State Fault Refusal :=
  sclPlain rSSSS x (scl3 mad x) s

/-- the sum mod 2^32, IMM in the place of B (R58) -/
def execSaddI32Imm (x : ImmF) (s : State) : Host.Outcome State Fault Refusal :=
  sclImm iSS x (sclI (· + ·) x) s

/-- the difference mod 2^32, IMM in the place of B (R58) -/
def execSsubI32Imm (x : ImmF) (s : State) : Host.Outcome State Fault Refusal :=
  sclImm iSS x (sclI (· - ·) x) s

/-- the low 32 bits of the product, IMM in the place of B (R58) -/
def execSmulI32Imm (x : ImmF) (s : State) : Host.Outcome State Fault Refusal :=
  sclImm iSS x (sclI (· * ·) x) s

/-- bits 63:32 of the signed product, IMM in the place of B (R58) -/
def execSmulhiI32Imm (x : ImmF) (s : State) : Host.Outcome State Fault Refusal :=
  sclImm iSS x (sclI mulHiS x) s

/-- bits 63:32 of the unsigned product, IMM in the place of B (R58) -/
def execSmulhiB32Imm (x : ImmF) (s : State) : Host.Outcome State Fault Refusal :=
  sclImm iSS x (sclI mulHiU x) s

/-- A & B, IMM in the place of B (R58) -/
def execSandB32Imm (x : ImmF) (s : State) : Host.Outcome State Fault Refusal :=
  sclImm iSS x (sclI (· &&& ·) x) s

/-- A | B, IMM in the place of B (R58) -/
def execSorB32Imm (x : ImmF) (s : State) : Host.Outcome State Fault Refusal :=
  sclImm iSS x (sclI (· ||| ·) x) s

/-- A ^ B, IMM in the place of B (R58) -/
def execSxorB32Imm (x : ImmF) (s : State) : Host.Outcome State Fault Refusal :=
  sclImm iSS x (sclI (· ^^^ ·) x) s

/-- A & ~B, IMM in the place of B (R58) -/
def execSandnB32Imm (x : ImmF) (s : State) : Host.Outcome State Fault Refusal :=
  sclImm iSS x (sclI andn x) s

/-- shift left, IMM in the place of B (R58) -/
def execSshlB32Imm (x : ImmF) (s : State) : Host.Outcome State Fault Refusal :=
  sclImm iSS x (sclI shl x) s

/-- logical shift right, IMM in the place of B (R58) -/
def execSshrB32Imm (x : ImmF) (s : State) : Host.Outcome State Fault Refusal :=
  sclImm iSS x (sclI shrU x) s

/-- arithmetic shift right, IMM in the place of B (R58) -/
def execSshrI32Imm (x : ImmF) (s : State) : Host.Outcome State Fault Refusal :=
  sclImm iSS x (sclI shrS x) s

/-- signed minimum, IMM in the place of B (R58) -/
def execSminI32Imm (x : ImmF) (s : State) : Host.Outcome State Fault Refusal :=
  sclImm iSS x (sclI minS x) s

/-- signed maximum, IMM in the place of B (R58) -/
def execSmaxI32Imm (x : ImmF) (s : State) : Host.Outcome State Fault Refusal :=
  sclImm iSS x (sclI maxS x) s

/-- unsigned minimum, IMM in the place of B (R58) -/
def execSminB32Imm (x : ImmF) (s : State) : Host.Outcome State Fault Refusal :=
  sclImm iSS x (sclI minU x) s

/-- unsigned maximum, IMM in the place of B (R58) -/
def execSmaxB32Imm (x : ImmF) (s : State) : Host.Outcome State Fault Refusal :=
  sclImm iSS x (sclI maxU x) s

/-- IMM (R58) -/
def execSmovB32Imm (x : ImmF) (s : State) : Host.Outcome State Fault Refusal :=
  sclImm iS x (fun _ => x.imm) s

/-- 1 if A = B, otherwise 0 (R60) -/
def execScmpEqB32 (x : RegF) (s : State) : Host.Outcome State Fault Refusal :=
  sclPlain rSSS x (sclCmp cEq x) s

/-- 1 if A ≠ B, otherwise 0 (R60) -/
def execScmpNeB32 (x : RegF) (s : State) : Host.Outcome State Fault Refusal :=
  sclPlain rSSS x (sclCmp cNe x) s

/-- 1 if signed A < B, otherwise 0 (R60) -/
def execScmpLtI32 (x : RegF) (s : State) : Host.Outcome State Fault Refusal :=
  sclPlain rSSS x (sclCmp cLtS x) s

/-- 1 if signed A ≤ B, otherwise 0 (R60) -/
def execScmpLeI32 (x : RegF) (s : State) : Host.Outcome State Fault Refusal :=
  sclPlain rSSS x (sclCmp cLeS x) s

/-- 1 if signed A > B, otherwise 0 (R60) -/
def execScmpGtI32 (x : RegF) (s : State) : Host.Outcome State Fault Refusal :=
  sclPlain rSSS x (sclCmp cGtS x) s

/-- 1 if signed A ≥ B, otherwise 0 (R60) -/
def execScmpGeI32 (x : RegF) (s : State) : Host.Outcome State Fault Refusal :=
  sclPlain rSSS x (sclCmp cGeS x) s

/-- 1 if unsigned A < B, otherwise 0 (R60) -/
def execScmpLtB32 (x : RegF) (s : State) : Host.Outcome State Fault Refusal :=
  sclPlain rSSS x (sclCmp cLtU x) s

/-- 1 if unsigned A ≤ B, otherwise 0 (R60) -/
def execScmpLeB32 (x : RegF) (s : State) : Host.Outcome State Fault Refusal :=
  sclPlain rSSS x (sclCmp cLeU x) s

/-- 1 if unsigned A > B, otherwise 0 (R60) -/
def execScmpGtB32 (x : RegF) (s : State) : Host.Outcome State Fault Refusal :=
  sclPlain rSSS x (sclCmp cGtU x) s

/-- 1 if unsigned A ≥ B, otherwise 0 (R60) -/
def execScmpGeB32 (x : RegF) (s : State) : Host.Outcome State Fault Refusal :=
  sclPlain rSSS x (sclCmp cGeU x) s

/-- C ≠ 0 chooses A, otherwise B (R60) -/
def execSselB32 (x : RegF) (s : State) : Host.Outcome State Fault Refusal :=
  sclPlain rSSSS x (scl3 (fun a b c => if c = 0#32 then b else a) x) s


end Sys2Proof.Machine
end

