-- ==== Sys2Proof/Machine/Dispatch.lean ====
section
/-! DEFINITION. The dispatcher: one arm per constructor of Instr, each one direct call of its meaning. -/

namespace Sys2Proof.Machine

def exec (i : Instr) (s : State) : Host.Outcome State Fault Refusal :=
  match i with
  | .nop => Sys2Proof.Machine.execNop s
  | .mand x => Sys2Proof.Machine.execMand x s
  | .mor x => Sys2Proof.Machine.execMor x s
  | .mxor x => Sys2Proof.Machine.execMxor x s
  | .mandn x => Sys2Proof.Machine.execMandn x s
  | .mnot x => Sys2Proof.Machine.execMnot x s
  | .mmov x => Sys2Proof.Machine.execMmov x s
  | .mtos x => Sys2Proof.Machine.execMtos x s
  | .stom x => Sys2Proof.Machine.execStom x s
  | .mpopc x => Sys2Proof.Machine.execMpopc x s
  | .mffs x => Sys2Proof.Machine.execMffs x s
  | .many x => Sys2Proof.Machine.execMany x s
  | .mall x => Sys2Proof.Machine.execMall x s
  | .meq x => Sys2Proof.Machine.execMeq x s
  | .vaddI32 x => Sys2Proof.Machine.execVaddI32 x s
  | .vsubI32 x => Sys2Proof.Machine.execVsubI32 x s
  | .vaddSatI32 x => Sys2Proof.Machine.execVaddSatI32 x s
  | .vsubSatI32 x => Sys2Proof.Machine.execVsubSatI32 x s
  | .vaddSatB32 x => Sys2Proof.Machine.execVaddSatB32 x s
  | .vsubSatB32 x => Sys2Proof.Machine.execVsubSatB32 x s
  | .vmulI32 x => Sys2Proof.Machine.execVmulI32 x s
  | .vmulhiI32 x => Sys2Proof.Machine.execVmulhiI32 x s
  | .vmulhiB32 x => Sys2Proof.Machine.execVmulhiB32 x s
  | .vmadI32 x => Sys2Proof.Machine.execVmadI32 x s
  | .vmadwI32 x => Sys2Proof.Machine.execVmadwI32 x s
  | .vmadwB32 x => Sys2Proof.Machine.execVmadwB32 x s
  | .vaddB64 x => Sys2Proof.Machine.execVaddB64 x s
  | .vsubB64 x => Sys2Proof.Machine.execVsubB64 x s
  | .vminI32 x => Sys2Proof.Machine.execVminI32 x s
  | .vmaxI32 x => Sys2Proof.Machine.execVmaxI32 x s
  | .vminB32 x => Sys2Proof.Machine.execVminB32 x s
  | .vmaxB32 x => Sys2Proof.Machine.execVmaxB32 x s
  | .vabsI32 x => Sys2Proof.Machine.execVabsI32 x s
  | .vnegI32 x => Sys2Proof.Machine.execVnegI32 x s
  | .vandB32 x => Sys2Proof.Machine.execVandB32 x s
  | .vorB32 x => Sys2Proof.Machine.execVorB32 x s
  | .vxorB32 x => Sys2Proof.Machine.execVxorB32 x s
  | .vandnB32 x => Sys2Proof.Machine.execVandnB32 x s
  | .vnotB32 x => Sys2Proof.Machine.execVnotB32 x s
  | .vshlB32 x => Sys2Proof.Machine.execVshlB32 x s
  | .vshrB32 x => Sys2Proof.Machine.execVshrB32 x s
  | .vshrI32 x => Sys2Proof.Machine.execVshrI32 x s
  | .vmovB32 x => Sys2Proof.Machine.execVmovB32 x s
  | .vselB32 x selm => Sys2Proof.Machine.execVselB32 x selm s
  | .vdp4I8 x => Sys2Proof.Machine.execVdp4I8 x s
  | .vdp4B8 x => Sys2Proof.Machine.execVdp4B8 x s
  | .vaddI32Imm x => Sys2Proof.Machine.execVaddI32Imm x s
  | .vsubI32Imm x => Sys2Proof.Machine.execVsubI32Imm x s
  | .vaddSatI32Imm x => Sys2Proof.Machine.execVaddSatI32Imm x s
  | .vsubSatI32Imm x => Sys2Proof.Machine.execVsubSatI32Imm x s
  | .vaddSatB32Imm x => Sys2Proof.Machine.execVaddSatB32Imm x s
  | .vsubSatB32Imm x => Sys2Proof.Machine.execVsubSatB32Imm x s
  | .vmulI32Imm x => Sys2Proof.Machine.execVmulI32Imm x s
  | .vmulhiI32Imm x => Sys2Proof.Machine.execVmulhiI32Imm x s
  | .vmulhiB32Imm x => Sys2Proof.Machine.execVmulhiB32Imm x s
  | .vminI32Imm x => Sys2Proof.Machine.execVminI32Imm x s
  | .vmaxI32Imm x => Sys2Proof.Machine.execVmaxI32Imm x s
  | .vminB32Imm x => Sys2Proof.Machine.execVminB32Imm x s
  | .vmaxB32Imm x => Sys2Proof.Machine.execVmaxB32Imm x s
  | .vandB32Imm x => Sys2Proof.Machine.execVandB32Imm x s
  | .vorB32Imm x => Sys2Proof.Machine.execVorB32Imm x s
  | .vxorB32Imm x => Sys2Proof.Machine.execVxorB32Imm x s
  | .vandnB32Imm x => Sys2Proof.Machine.execVandnB32Imm x s
  | .vshlB32Imm x => Sys2Proof.Machine.execVshlB32Imm x s
  | .vshrB32Imm x => Sys2Proof.Machine.execVshrB32Imm x s
  | .vshrI32Imm x => Sys2Proof.Machine.execVshrI32Imm x s
  | .vmovB32Imm x => Sys2Proof.Machine.execVmovB32Imm x s
  | .vcmpEqB32 x comb => Sys2Proof.Machine.execVcmpEqB32 x comb s
  | .vcmpNeB32 x comb => Sys2Proof.Machine.execVcmpNeB32 x comb s
  | .vcmpLtI32 x comb => Sys2Proof.Machine.execVcmpLtI32 x comb s
  | .vcmpLeI32 x comb => Sys2Proof.Machine.execVcmpLeI32 x comb s
  | .vcmpGtI32 x comb => Sys2Proof.Machine.execVcmpGtI32 x comb s
  | .vcmpGeI32 x comb => Sys2Proof.Machine.execVcmpGeI32 x comb s
  | .vcmpLtB32 x comb => Sys2Proof.Machine.execVcmpLtB32 x comb s
  | .vcmpLeB32 x comb => Sys2Proof.Machine.execVcmpLeB32 x comb s
  | .vcmpGtB32 x comb => Sys2Proof.Machine.execVcmpGtB32 x comb s
  | .vcmpGeB32 x comb => Sys2Proof.Machine.execVcmpGeB32 x comb s
  | .vaddF32 x => Sys2Proof.Machine.execVaddF32 x s
  | .vsubF32 x => Sys2Proof.Machine.execVsubF32 x s
  | .vmulF32 x => Sys2Proof.Machine.execVmulF32 x s
  | .vfmaF32 x => Sys2Proof.Machine.execVfmaF32 x s
  | .vrndF32 x rms => Sys2Proof.Machine.execVrndF32 x rms s
  | .vldexpF32 x => Sys2Proof.Machine.execVldexpF32 x s
  | .vclassF32 x => Sys2Proof.Machine.execVclassF32 x s
  | .vaddF32Imm x => Sys2Proof.Machine.execVaddF32Imm x s
  | .vsubF32Imm x => Sys2Proof.Machine.execVsubF32Imm x s
  | .vmulF32Imm x => Sys2Proof.Machine.execVmulF32Imm x s
  | .vsubrF32 x => Sys2Proof.Machine.execVsubrF32 x s
  | .vfcmpEqF32 x comb => Sys2Proof.Machine.execVfcmpEqF32 x comb s
  | .vfcmpNeF32 x comb => Sys2Proof.Machine.execVfcmpNeF32 x comb s
  | .vfcmpLtF32 x comb => Sys2Proof.Machine.execVfcmpLtF32 x comb s
  | .vfcmpLeF32 x comb => Sys2Proof.Machine.execVfcmpLeF32 x comb s
  | .vfcmpGtF32 x comb => Sys2Proof.Machine.execVfcmpGtF32 x comb s
  | .vfcmpGeF32 x comb => Sys2Proof.Machine.execVfcmpGeF32 x comb s
  | .vfcmpUnF32 x comb => Sys2Proof.Machine.execVfcmpUnF32 x comb s
  | .vfcmpOrdF32 x comb => Sys2Proof.Machine.execVfcmpOrdF32 x comb s
  | .vminF32 x => Sys2Proof.Machine.execVminF32 x s
  | .vmaxF32 x => Sys2Proof.Machine.execVmaxF32 x s
  | .ldG x sx => Sys2Proof.Machine.execLdG x sx s
  | .stG x => Sys2Proof.Machine.execStG x s
  | .atomAddI32 x sp => Sys2Proof.Machine.execAtomAddI32 x sp s
  | .atomAddB64 x sp => Sys2Proof.Machine.execAtomAddB64 x sp s
  | .atomMinI32 x sp => Sys2Proof.Machine.execAtomMinI32 x sp s
  | .atomMaxI32 x sp => Sys2Proof.Machine.execAtomMaxI32 x sp s
  | .atomMinB32 x sp => Sys2Proof.Machine.execAtomMinB32 x sp s
  | .atomMaxB32 x sp => Sys2Proof.Machine.execAtomMaxB32 x sp s
  | .atomAndB32 x sp => Sys2Proof.Machine.execAtomAndB32 x sp s
  | .atomOrB32 x sp => Sys2Proof.Machine.execAtomOrB32 x sp s
  | .atomXorB32 x sp => Sys2Proof.Machine.execAtomXorB32 x sp s
  | .atomExchB32 x sp => Sys2Proof.Machine.execAtomExchB32 x sp s
  | .atomExchB64 x sp => Sys2Proof.Machine.execAtomExchB64 x sp s
  | .atomCasB32 x sp => Sys2Proof.Machine.execAtomCasB32 x sp s
  | .atomCasB64 x sp => Sys2Proof.Machine.execAtomCasB64 x sp s
  | .atomAddF32 x sp => Sys2Proof.Machine.execAtomAddF32 x sp s
  | .atomIncB32 x sp => Sys2Proof.Machine.execAtomIncB32 x sp s
  | .atomDecB32 x sp => Sys2Proof.Machine.execAtomDecB32 x sp s
  | .joinEntryReadReturn gid slot => Sys2Proof.Machine.execJoinEntryReadReturn gid slot s
  | .barWaitProceed gid slot => Sys2Proof.Machine.execBarWaitProceed gid slot s
  | .loadReturn k resp => Sys2Proof.Machine.execLoadReturn k resp s
  | .sinkPacketAccept k => Sys2Proof.Machine.execSinkPacketAccept k s
  | .sinkPacketExecute k => Sys2Proof.Machine.execSinkPacketExecute k s
  | .sinkPacketLand k => Sys2Proof.Machine.execSinkPacketLand k s
  | .copyJobAccept gid slot => Sys2Proof.Machine.execCopyJobAccept gid slot s
  | .copyJobComplete core k => Sys2Proof.Machine.execCopyJobComplete core k s
  | .followOnEnqueue core => Sys2Proof.Machine.execFollowOnEnqueue core s
  | .matrixCommandExecute core => Sys2Proof.Machine.execMatrixCommandExecute core s
  | .mxWindowEnd core => Sys2Proof.Machine.execMxWindowEnd core s
  | .leaseExpiry k => Sys2Proof.Machine.execLeaseExpiry k s
  | .registerUnitDrowsy core port unit => Sys2Proof.Machine.execRegisterUnitDrowsy core port unit s
  | .trapEntry gid slot => Sys2Proof.Machine.execTrapEntry gid slot s
  | .deferredTrapTake gid slot => Sys2Proof.Machine.execDeferredTrapTake gid slot s
  | .faultRecordPost k => Sys2Proof.Machine.execFaultRecordPost k s
  | .fqPop part cmd => Sys2Proof.Machine.execFqPop part cmd s
  | .ctxResume part cmd => Sys2Proof.Machine.execCtxResume part cmd s
  | .ctxKill part cmd => Sys2Proof.Machine.execCtxKill part cmd s
  | .dbgHalt ctx core group => Sys2Proof.Machine.execDbgHalt ctx core group s
  | .dbgStep ctx core group slot => Sys2Proof.Machine.execDbgStep ctx core group slot s
  | .dbgGo ctx core group => Sys2Proof.Machine.execDbgGo ctx core group s
  | .dbgBkpt ctx on => Sys2Proof.Machine.execDbgBkpt ctx on s
  | .dbgRead ctx core group sp => Sys2Proof.Machine.execDbgRead ctx core group sp s
  | .dbgWrite ctx core group sp value => Sys2Proof.Machine.execDbgWrite ctx core group sp value s
  | .queueCreate ctx base log2n status => Sys2Proof.Machine.execQueueCreate ctx base log2n status s
  | .doorbellWrite bell value => Sys2Proof.Machine.execDoorbellWrite bell value s
  | .packetAccept q => Sys2Proof.Machine.execPacketAccept q s
  | .dependenceRead launch => Sys2Proof.Machine.execDependenceRead launch s
  | .blockResident launch places => Sys2Proof.Machine.execBlockResident launch places s
  | .launchComplete launch => Sys2Proof.Machine.execLaunchComplete launch s
  | .queueDestroy q abort => Sys2Proof.Machine.execQueueDestroy q abort s
  | .timeSliceExpiry ctx => Sys2Proof.Machine.execTimeSliceExpiry ctx s
  | .contextResume ctx places => Sys2Proof.Machine.execContextResume ctx places s
  | .tlbInvalidate ctx va len => Sys2Proof.Machine.execTlbInvalidate ctx va len s
  | .hostWrite bar off op => Sys2Proof.Machine.execHostWrite bar off op s
  | .hostAccessCompletion k status data => Sys2Proof.Machine.execHostAccessCompletion k status data s
  | .hostAccessTimeout k => Sys2Proof.Machine.execHostAccessTimeout k s
  | .fabricTimeout k => Sys2Proof.Machine.execFabricTimeout k s
  | .linkFlitRetry link => Sys2Proof.Machine.execLinkFlitRetry link s
  | .linkDown link => Sys2Proof.Machine.execLinkDown link s
  | .functionReady bit namespaces => Sys2Proof.Machine.execFunctionReady bit namespaces s
  | .nearCommandStart ctx => Sys2Proof.Machine.execNearCommandStart ctx s
  | .nnop k => Sys2Proof.Machine.execNnop k s
  | .cgraCfg k => Sys2Proof.Machine.execCgraCfg k s
  | .cgraRun k => Sys2Proof.Machine.execCgraRun k s
  | .nearStall k => Sys2Proof.Machine.execNearStall k s
  | .ireduce k => Sys2Proof.Machine.execIreduce k s
  | .bseq k => Sys2Proof.Machine.execBseq k s
  | .nrtSet part cmd => Sys2Proof.Machine.execNrtSet part cmd s
  | .nrtClear part cmd => Sys2Proof.Machine.execNrtClear part cmd s
  | .partCreate p res minQuads minGiB image imageLen entry => Sys2Proof.Machine.execPartCreate p res minQuads minGiB image imageLen entry s
  | .partGrow p res => Sys2Proof.Machine.execPartGrow p res s
  | .partShrink p res => Sys2Proof.Machine.execPartShrink p res s
  | .partDestroy p => Sys2Proof.Machine.execPartDestroy p s
  | .capSet entry field value => Sys2Proof.Machine.execCapSet entry field value s
  | .ctxBudget ctx what => Sys2Proof.Machine.execCtxBudget ctx what s
  | .resourceRetire r => Sys2Proof.Machine.execResourceRetire r s
  | .bucketRefill => Sys2Proof.Machine.execBucketRefill s
  | .governorWindow quad => Sys2Proof.Machine.execGovernorWindow quad s
  | .ilimNAssert => Sys2Proof.Machine.execIlimNAssert s
  | .ilimNDeassert => Sys2Proof.Machine.execIlimNDeassert s
  | .sheddingStep => Sys2Proof.Machine.execSheddingStep s
  | .nvmeDataTransfer ns pa len data toDrive => Sys2Proof.Machine.execNvmeDataTransfer ns pa len data toDrive s
  | .packageReset => Sys2Proof.Machine.execPackageReset s
  | .mailboxImage img => Sys2Proof.Machine.execMailboxImage img s
  | .flashWrite img => Sys2Proof.Machine.execFlashWrite img s
  | .hartStart part hart entry => Sys2Proof.Machine.execHartStart part hart entry s
  | .attest part nonce => Sys2Proof.Machine.execAttest part nonce s
  | .contextCreate ctx part root => Sys2Proof.Machine.execContextCreate ctx part root s
  | .timeSliceSet ctx ns => Sys2Proof.Machine.execTimeSliceSet ctx ns s
  | .storePerformed k => Sys2Proof.Machine.execStorePerformed k s
  | .pageWalkComplete k => Sys2Proof.Machine.execPageWalkComplete k s
  | .softError u hit => Sys2Proof.Machine.execSoftError u hit s
  | .errorCounterClear u correctable => Sys2Proof.Machine.execErrorCounterClear u correctable s
  | .remoteRequestArrive req => Sys2Proof.Machine.execRemoteRequestArrive req s
  | .routeTableSet presence routes => Sys2Proof.Machine.execRouteTableSet presence routes s
  | .ethernetFrameReceive port pa frame => Sys2Proof.Machine.execEthernetFrameReceive port pa frame s
  | .hostRead bar off len => Sys2Proof.Machine.execHostRead bar off len s
  | .resEvictDone ctx h => Sys2Proof.Machine.execResEvictDone ctx h s
  | .saddI32 x => Sys2Proof.Machine.execSaddI32 x s
  | .ssubI32 x => Sys2Proof.Machine.execSsubI32 x s
  | .smulI32 x => Sys2Proof.Machine.execSmulI32 x s
  | .smulhiI32 x => Sys2Proof.Machine.execSmulhiI32 x s
  | .smulhiB32 x => Sys2Proof.Machine.execSmulhiB32 x s
  | .sandB32 x => Sys2Proof.Machine.execSandB32 x s
  | .sorB32 x => Sys2Proof.Machine.execSorB32 x s
  | .sxorB32 x => Sys2Proof.Machine.execSxorB32 x s
  | .sandnB32 x => Sys2Proof.Machine.execSandnB32 x s
  | .sshlB32 x => Sys2Proof.Machine.execSshlB32 x s
  | .sshrB32 x => Sys2Proof.Machine.execSshrB32 x s
  | .sshrI32 x => Sys2Proof.Machine.execSshrI32 x s
  | .sminI32 x => Sys2Proof.Machine.execSminI32 x s
  | .smaxI32 x => Sys2Proof.Machine.execSmaxI32 x s
  | .sminB32 x => Sys2Proof.Machine.execSminB32 x s
  | .smaxB32 x => Sys2Proof.Machine.execSmaxB32 x s
  | .smovB32 x => Sys2Proof.Machine.execSmovB32 x s
  | .saddB64 x => Sys2Proof.Machine.execSaddB64 x s
  | .ssubB64 x => Sys2Proof.Machine.execSsubB64 x s
  | .spopcB32 x => Sys2Proof.Machine.execSpopcB32 x s
  | .sclzB32 x => Sys2Proof.Machine.execSclzB32 x s
  | .smadI32 x => Sys2Proof.Machine.execSmadI32 x s
  | .saddI32Imm x => Sys2Proof.Machine.execSaddI32Imm x s
  | .ssubI32Imm x => Sys2Proof.Machine.execSsubI32Imm x s
  | .smulI32Imm x => Sys2Proof.Machine.execSmulI32Imm x s
  | .smulhiI32Imm x => Sys2Proof.Machine.execSmulhiI32Imm x s
  | .smulhiB32Imm x => Sys2Proof.Machine.execSmulhiB32Imm x s
  | .sandB32Imm x => Sys2Proof.Machine.execSandB32Imm x s
  | .sorB32Imm x => Sys2Proof.Machine.execSorB32Imm x s
  | .sxorB32Imm x => Sys2Proof.Machine.execSxorB32Imm x s
  | .sandnB32Imm x => Sys2Proof.Machine.execSandnB32Imm x s
  | .sshlB32Imm x => Sys2Proof.Machine.execSshlB32Imm x s
  | .sshrB32Imm x => Sys2Proof.Machine.execSshrB32Imm x s
  | .sshrI32Imm x => Sys2Proof.Machine.execSshrI32Imm x s
  | .sminI32Imm x => Sys2Proof.Machine.execSminI32Imm x s
  | .smaxI32Imm x => Sys2Proof.Machine.execSmaxI32Imm x s
  | .sminB32Imm x => Sys2Proof.Machine.execSminB32Imm x s
  | .smaxB32Imm x => Sys2Proof.Machine.execSmaxB32Imm x s
  | .smovB32Imm x => Sys2Proof.Machine.execSmovB32Imm x s
  | .scmpEqB32 x => Sys2Proof.Machine.execScmpEqB32 x s
  | .scmpNeB32 x => Sys2Proof.Machine.execScmpNeB32 x s
  | .scmpLtI32 x => Sys2Proof.Machine.execScmpLtI32 x s
  | .scmpLeI32 x => Sys2Proof.Machine.execScmpLeI32 x s
  | .scmpGtI32 x => Sys2Proof.Machine.execScmpGtI32 x s
  | .scmpGeI32 x => Sys2Proof.Machine.execScmpGeI32 x s
  | .scmpLtB32 x => Sys2Proof.Machine.execScmpLtB32 x s
  | .scmpLeB32 x => Sys2Proof.Machine.execScmpLeB32 x s
  | .scmpGtB32 x => Sys2Proof.Machine.execScmpGtB32 x s
  | .scmpGeB32 x => Sys2Proof.Machine.execScmpGeB32 x s
  | .sselB32 x => Sys2Proof.Machine.execSselB32 x s
  | .bra x => Sys2Proof.Machine.execBra x s
  | .braAny x => Sys2Proof.Machine.execBraAny x s
  | .braAll x => Sys2Proof.Machine.execBraAll x s
  | .braNz x => Sys2Proof.Machine.execBraNz x s
  | .braZ x => Sys2Proof.Machine.execBraZ x s
  | .brx x => Sys2Proof.Machine.execBrx x s
  | .call x => Sys2Proof.Machine.execCall x s
  | .callx x => Sys2Proof.Machine.execCallx x s
  | .ret x => Sys2Proof.Machine.execRet x s
  | .dbra x => Sys2Proof.Machine.execDbra x s
  | .join x => Sys2Proof.Machine.execJoin x s
  | .exit x => Sys2Proof.Machine.execExit x s
  | .pset x => Sys2Proof.Machine.execPset x s
  | .pget x => Sys2Proof.Machine.execPget x s
  | .barArrive x bid => Sys2Proof.Machine.execBarArrive x bid s
  | .barWait x bid => Sys2Proof.Machine.execBarWait x bid s
  | .barMeet x bid => Sys2Proof.Machine.execBarMeet x bid s
  | .csrr x => Sys2Proof.Machine.execCsrr x s
  | .csrw x => Sys2Proof.Machine.execCsrw x s
  | .trap x => Sys2Proof.Machine.execTrap x s
  | .bkpt x => Sys2Proof.Machine.execBkpt x s
  | .vxtrB32 x => Sys2Proof.Machine.execVxtrB32 x s
  | .vxtrI32 x => Sys2Proof.Machine.execVxtrI32 x s
  | .vinsB32 x => Sys2Proof.Machine.execVinsB32 x s
  | .vpopcB32 x => Sys2Proof.Machine.execVpopcB32 x s
  | .vclzB32 x => Sys2Proof.Machine.execVclzB32 x s
  | .vctzB32 x => Sys2Proof.Machine.execVctzB32 x s
  | .vbrevB32 x => Sys2Proof.Machine.execVbrevB32 x s
  | .vbselB8 x => Sys2Proof.Machine.execVbselB8 x s
  | .vfunB32 x => Sys2Proof.Machine.execVfunB32 x s
  | .vdivI32 x => Sys2Proof.Machine.execVdivI32 x s
  | .vremI32 x => Sys2Proof.Machine.execVremI32 x s
  | .vdivB32 x => Sys2Proof.Machine.execVdivB32 x s
  | .vremB32 x => Sys2Proof.Machine.execVremB32 x s
  | .vdivremI32 x => Sys2Proof.Machine.execVdivremI32 x s
  | .vdivremB32 x => Sys2Proof.Machine.execVdivremB32 x s
  | .vxlnPick x lx => Sys2Proof.Machine.execVxlnPick x lx s
  | .vxlnLower x lx => Sys2Proof.Machine.execVxlnLower x lx s
  | .vxlnUpper x lx => Sys2Proof.Machine.execVxlnUpper x lx s
  | .vxlnMirror x lx => Sys2Proof.Machine.execVxlnMirror x lx s
  | .vswapp x lx => Sys2Proof.Machine.execVswapp x lx s
  | .vxlnFan x lx => Sys2Proof.Machine.execVxlnFan x lx s
  | .vxlnTake x lx => Sys2Proof.Machine.execVxlnTake x lx s
  | .vxlnPut x lx => Sys2Proof.Machine.execVxlnPut x lx s
  | .vpollSome x => Sys2Proof.Machine.execVpollSome x s
  | .vpollEvery x => Sys2Proof.Machine.execVpollEvery x s
  | .vpollMap x => Sys2Proof.Machine.execVpollMap x s
  | .vpollSame x => Sys2Proof.Machine.execVpollSame x s
  | .vpollPeers x => Sys2Proof.Machine.execVpollPeers x s
  | .vredAddI32 x => Sys2Proof.Machine.execVredAddI32 x s
  | .vredMinI32 x => Sys2Proof.Machine.execVredMinI32 x s
  | .vredMaxI32 x => Sys2Proof.Machine.execVredMaxI32 x s
  | .vredMinB32 x => Sys2Proof.Machine.execVredMinB32 x s
  | .vredMaxB32 x => Sys2Proof.Machine.execVredMaxB32 x s
  | .vredAndB32 x => Sys2Proof.Machine.execVredAndB32 x s
  | .vredOrB32 x => Sys2Proof.Machine.execVredOrB32 x s
  | .vredXorB32 x => Sys2Proof.Machine.execVredXorB32 x s
  | .vredAddF32 x => Sys2Proof.Machine.execVredAddF32 x s
  | .vredMinF32 x => Sys2Proof.Machine.execVredMinF32 x s
  | .vredMaxF32 x => Sys2Proof.Machine.execVredMaxF32 x s
  | .vscanAddI32 x => Sys2Proof.Machine.execVscanAddI32 x s
  | .vaddF16x2 x bf => Sys2Proof.Machine.execVaddF16x2 x bf s
  | .vsubF16x2 x bf => Sys2Proof.Machine.execVsubF16x2 x bf s
  | .vmulF16x2 x bf => Sys2Proof.Machine.execVmulF16x2 x bf s
  | .vfmaF16x2 x bf => Sys2Proof.Machine.execVfmaF16x2 x bf s
  | .vminF16x2 x bf => Sys2Proof.Machine.execVminF16x2 x bf s
  | .vmaxF16x2 x bf => Sys2Proof.Machine.execVmaxF16x2 x bf s
  | .vdot2F32F16x2 x bf => Sys2Proof.Machine.execVdot2F32F16x2 x bf s
  | .vfdiv x => Sys2Proof.Machine.execVfdiv x s
  | .vfsqrt x => Sys2Proof.Machine.execVfsqrt x s
  | .vsinr x => Sys2Proof.Machine.execVsinr x s
  | .vcosr x => Sys2Proof.Machine.execVcosr x s
  | .vsinpi x => Sys2Proof.Machine.execVsinpi x s
  | .vcospi x => Sys2Proof.Machine.execVcospi x s
  | .vexp2 x => Sys2Proof.Machine.execVexp2 x s
  | .vlog2 x => Sys2Proof.Machine.execVlog2 x s
  | .vrcp x => Sys2Proof.Machine.execVrcp x s
  | .vrsq x => Sys2Proof.Machine.execVrsq x s
  | .vcvtF32I32 x rms => Sys2Proof.Machine.execVcvtF32I32 x rms s
  | .vcvtF32B32 x rms => Sys2Proof.Machine.execVcvtF32B32 x rms s
  | .vcvtI32F32 x rms => Sys2Proof.Machine.execVcvtI32F32 x rms s
  | .vcvtB32F32 x rms => Sys2Proof.Machine.execVcvtB32F32 x rms s
  | .vcvtF32F16 x hi => Sys2Proof.Machine.execVcvtF32F16 x hi s
  | .vcvtF32Bf16 x hi => Sys2Proof.Machine.execVcvtF32Bf16 x hi s
  | .vcvtF16x2F32 x rms => Sys2Proof.Machine.execVcvtF16x2F32 x rms s
  | .vcvtBf16x2F32 x rms => Sys2Proof.Machine.execVcvtBf16x2F32 x rms s
  | .vcvtFmtF32 x ex => Sys2Proof.Machine.execVcvtFmtF32 x ex s
  | .vcvtF32Fmt x ex => Sys2Proof.Machine.execVcvtF32Fmt x ex s
  | .vcvtF32E8m0 x => Sys2Proof.Machine.execVcvtF32E8m0 x s
  | .vhad32 x => Sys2Proof.Machine.execVhad32 x s
  | .vhad32N x => Sys2Proof.Machine.execVhad32N x s
  | .vquant x qx => Sys2Proof.Machine.execVquant x qx s
  | .ldS x sx => Sys2Proof.Machine.execLdS x sx s
  | .stS x => Sys2Proof.Machine.execStS x s
  | .ldRs x sx => Sys2Proof.Machine.execLdRs x sx s
  | .stRs x => Sys2Proof.Machine.execStRs x s
  | .ldC x sx => Sys2Proof.Machine.execLdC x sx s
  | .ldRo x sx => Sys2Proof.Machine.execLdRo x sx s
  | .fenceAcq x => Sys2Proof.Machine.execFenceAcq x s
  | .fenceRel x => Sys2Proof.Machine.execFenceRel x s
  | .fenceAr x => Sys2Proof.Machine.execFenceAr x s
  | .fenceRo x => Sys2Proof.Machine.execFenceRo x s
  | .pfG x level => Sys2Proof.Machine.execPfG x level s
  | .resSet x h prio => Sys2Proof.Machine.execResSet x h prio s
  | .resDemote x h => Sys2Proof.Machine.execResDemote x h s
  | .resEvict x h => Sys2Proof.Machine.execResEvict x h s
  | .sink x => Sys2Proof.Machine.execSink x s
  | .fbp x mask => Sys2Proof.Machine.execFbp x mask s
  | .xset x k => Sys2Proof.Machine.execXset x k s
  | .xidx x k => Sys2Proof.Machine.execXidx x k s
  | .xadd x k => Sys2Proof.Machine.execXadd x k s
  | .xget x k => Sys2Proof.Machine.execXget x k s
  | .launch x => Sys2Proof.Machine.execLaunch x s
  | .nqpost x => Sys2Proof.Machine.execNqpost x s
  | .nqpoll x => Sys2Proof.Machine.execNqpoll x s
  | .tdef x pitch owner => Sys2Proof.Machine.execTdef x pitch owner s
  | .trel x => Sys2Proof.Machine.execTrel x s
  | .trelPub x => Sys2Proof.Machine.execTrelPub x s
  | .tstate x => Sys2Proof.Machine.execTstate x s
  | .cpy x => Sys2Proof.Machine.execCpy x s
  | .cpySt x => Sys2Proof.Machine.execCpySt x s
  | .cpyGath x => Sys2Proof.Machine.execCpyGath x s
  | .cpyScat x => Sys2Proof.Machine.execCpyScat x s
  | .cpyMx x => Sys2Proof.Machine.execCpyMx x s
  | .mldw x => Sys2Proof.Machine.execMldw x s
  | .mma x => Sys2Proof.Machine.execMma x s
  | .accz x => Sys2Proof.Machine.execAccz x s
  | .accrd x ax => Sys2Proof.Machine.execAccrd x ax s
  | .accrdReg x ax => Sys2Proof.Machine.execAccrdReg x ax s
  | .accst x => Sys2Proof.Machine.execAccst x s
  | .accstW x => Sys2Proof.Machine.execAccstW x s
  | .accprom x => Sys2Proof.Machine.execAccprom x s
  | .lease x => Sys2Proof.Machine.execLease x s

end Sys2Proof.Machine
end

