-- ==== Sys2Proof/Machine/Turn.lean ====
section
/-! DEFINITION. A turn: one issue of the slot that moves next, or the work of a unit. -/

namespace Sys2Proof.Machine

/-- What a word's run leaves, with the units of what it has written awake (R50). -/
def ranOf (t : State) (w : IWord) : Host.Outcome State Fault Refusal → Host.Outcome State Fault Refusal
  | .next v => .next (t.wakeDest w v)
  | r => r

/-- The selected slot fetches, decodes and executes one word, or takes the trap of its encoding (R37). A slot held back by
parked lanes waits before a word that does not decode (R21). -/
noncomputable def runSlot (s : State) : Host.Outcome State Fault Refusal :=
  match s.fetched with
  | .error t => .next t
  | .ok (w, t) =>
    match decode w with
    | .ok i => ranOf t w (exec i (t.wakeFor w))
    | .error c =>
      if t.heldBack (wordClass w == .V) then .next t else .next (t.takeTrap { cause := c, mask := t.wordLanes w })

/-- The first of some events that changes the state. -/
def firstMove (s : State) : List Instr → Host.Outcome State Fault Refusal
  | [] => .next s
  | e :: es =>
    match exec e s with
    | .next t => if t = s then firstMove s es else .next t
    | r => r

/-- A slot issues beyond a SINK header whose packets are outstanding (R177). -/
noncomputable def runAhead (s : State) : Host.Outcome State Fault Refusal :=
  match s.aheadNext s.gid s.sel with
  | none => .next s
  | some x =>
    match x.kind with
    | .own =>
      match decode x.w with
      | .error _ => .next s
      | .ok i => match ranOf x.u x.w (exec i (x.u.fetchTlb.wakeFor x.w)) with | .next v => .next (s.aheadKeep s.gid x v) | _ => .next s
    | _ => .next (s.aheadQueue (x.u.fetchTlb.wakeFor x.w) s.gid x)

/-- What a slot does when its turn comes: an event that was due to it, its next word, or one beyond its header. -/
noncomputable def slotMove (u : State) : Host.Outcome State Fault Refusal :=
  match u.slotEvent with
  | some e => exec e u
  | none => if u.ready || u.slot.pending.isEmpty then runSlot u else runAhead u

/-! ## Issue among groups (R23, R191) -/

/-- Whether a slot can issue, or go on: its turn would change something, or is a branch to where it stands. One whose instruction waits, for
a tile, the matrix unit, a parked slot, a home line, a queue or a budget, is not ready (R21, R23, R191, R206). -/
noncomputable def State.canMove (s : State) (k : Nat) (sel : SlotId) : Bool :=
  let u := s.focus k sel
  s.mayMove k sel && (u.branches || (match slotMove u with | .next t => u.endStep t != u | _ => true))

/-- The slot that moves next. -/
noncomputable def State.pick (s : State) : Option State := s.pickFrom (s.moversBy s.canMove)

/-! ## Turns -/

/-- What follows a slot's turn: a debugger's step ends once the group has moved (R273), and a slot that could not move leaves the
turn to the units it waits for. DESIGN CHOICE (log 10), unsafe. -/
def afterTurn (u : State) : Host.Outcome State Fault Refusal → Host.Outcome State Fault Refusal
  | .next t => if u.endStep t = u then firstMove u u.unitWork else .next (u.endStep t)
  | r => r

/-- A slot's turn. -/
noncomputable def issueSlot (u : State) : Host.Outcome State Fault Refusal := afterTurn u (slotMove u)

/-- The slots' turn: the slot that moves next, and where none can act a unit. -/
noncomputable def slotTurn (t : State) : Host.Outcome State Fault Refusal :=
  match t.pick with
  | some u => issueSlot u
  | none => firstMove t t.unitWork

/-- The units' turn, which the slots take where no unit moves. -/
noncomputable def unitTurn (t : State) : Host.Outcome State Fault Refusal :=
  match firstMove t t.unitWork with
  | .next v => if v = t then slotTurn t else .next v
  | r => r

/-- The turn after this one is the other side's. -/
def State.flipTurn (t : State) : State := { t with unitsNext := !t.unitsNext }

/-- Slots and units take turns, so that a program that waits in a loop does not hold up what it waits for.
DESIGN CHOICE (log 10), unsafe. -/
noncomputable def nextTurn (t : State) : Host.Outcome State Fault Refusal :=
  if t.unitsNext then unitTurn t.flipTurn else slotTurn t.flipTurn

end Sys2Proof.Machine
end

