-- ==== Sys2Proof/Machine/Step.lean ====
section
/-! DEFINITION. One step of the machine: the head of the agenda, or the scheduler's move, or a turn of the slots or the units, or
time passing. -/

namespace Sys2Proof.Machine

/-- What a step does before what slots have issued ahead is looked at. -/
noncomputable def move (s : State) : Host.Outcome State Fault Refusal :=
  let t := s.tick
  match s.agenda with
  | e :: _ => exec e { t with agenda := t.agenda.drop 1 }
  | [] =>
    match t.schedWork with
    | some e => exec e t
    | none => nextTurn t

/-- One step. -/
noncomputable def step (s : State) : Host.Outcome State Fault Refusal :=
  match move s with
  | .next t => .next t.settleAhead
  | r => r

/-- The state with a word where the next step fetches its instruction; `w` numbers the bits as the opcode table does. -/
def State.withFetchWord (s : State) (nbits w : Nat) : State := s.placeWord (BitVec.ofNat 96 (w % 2 ^ (min nbits 96)))

end Sys2Proof.Machine
end

