-- ==== Sys2Proof/Safety.lean ====
section
/-! DEFINITION. What the claims about the machine are stated in: when a word issues, what an instruction leaves unchanged, and
the form a state keeps. -/

namespace Sys2Proof.Machine

/-- The selected slot may issue a word of form `f`, and no check of R37 refuses it; `ahead` where R21 lets such a word pass
parked lanes. -/
def State.issues (s : State) (ahead : Bool) (f : Form) : Bool := s.ready && !s.heldBack ahead && (f.check s).isNone

/-- The same, and falling through does not leave the plane (R25). -/
def State.goesOn (s : State) (ahead : Bool) (f : Form) : Bool := s.issues ahead f && !s.fallsOut

/-- A group without its slots, its stack and its fusion: its registers and what it was dispatched with. -/
def Group.regs (g : Group) : Group :=
  { g with a := Slot.free, b := Slot.free, splitJoin := none, outerJoin := none, fusion := .fused, stack := [], step := none }

/-- Every byte of memory reads as before. -/
def sameMemory (s t : State) : Prop := ∀ a, readByte t.mem a = readByte s.mem a

/-- Nothing outside the issuing group has changed: no other group, and no other part of the state. -/
def onlyGroup (s t : State) : Prop := { t with groups := s.groups } = s ∧ ∀ k, k ≠ s.gid → t.grpAt k = s.grpAt k

/-- What an operand names as a scalar register: register `n` among `w` of them. -/
def namesS (o : Opd) (w n : Nat) : Bool :=
  match o with
  | .s k => decide (k.val ≤ n) && decide (n < k.val + w)
  | _ => false

/-- What an operand names as a vector register of its own number (R38). -/
def namesV (o : Opd) (w n : Nat) : Bool :=
  match o with
  | .v k => decide (k.val ≤ n) && decide (n < k.val + w)
  | _ => false

/-- The form memory and the scratchpads keep: each lists its bytes in canonical form. -/
def State.wf (s : State) : Prop := Memory.wf s.mem = true ∧ ∀ p ∈ s.blocks, swf p.2.scratch = true

/-- A group's register files are in canonical form. -/
def Group.canon (g : Group) : Prop :=
  swf g.v = true ∧ swf g.annex = true ∧ swf g.s = true ∧ swf g.m = true ∧ swf g.xbase = true ∧ swf g.xlimit = true
    ∧ swf g.xindex = true ∧ swf g.planes = true ∧ swf g.laneFlags = true ∧ swf g.landing = true

/-- The form every group's registers keep. -/
def State.regsWf (s : State) : Prop := ∀ p ∈ s.groups, p.2.canon

/-- The same, of the groups that slots have issued ahead of a header as well, and of the landing codes of groups saved at pre-emption. -/
def State.canonical (s : State) : Prop :=
  s.regsWf ∧ (∀ p ∈ s.launches, ∀ b ∈ p.2.saved, ∀ g ∈ b.groups, swf g.landing = true)
    ∧ ∀ p ∈ s.ahead, p.2.tip.canon ∧ ∀ q ∈ p.2.queue, q.2.canon

end Sys2Proof.Machine
end

