-- ==== Sys2Proof/Certificates/Slice0/Obligations.lean ====
section
/-! DEFINITION. The statements for the provers. First the tables they range over, each naming instructions of one shape with
what the spec says each computes; then one definition a statement. -/

namespace Sys2Proof.Machine

/-! ## Instructions of one shape, with what each computes -/

/-- Class-S functions of two registers (R58, R59): register form, immediate form, each with its result in exact arithmetic narrowed to 32 bits. -/
noncomputable def scalarTable : List ((RegF → Instr) × (ImmF → Instr) × (Word → Word → Word)) :=
  [(.saddI32, .saddI32Imm, fun a b => BitVec.ofInt 32 (a.toInt + b.toInt)), (.ssubI32, .ssubI32Imm, fun a b => BitVec.ofInt 32 (a.toInt - b.toInt)),
   (.smulI32, .smulI32Imm, fun a b => BitVec.ofInt 32 (a.toInt * b.toInt)),
   (.smulhiI32, .smulhiI32Imm, fun a b => BitVec.ofInt 32 (a.toInt * b.toInt / 2 ^ 32)),
   (.smulhiB32, .smulhiB32Imm, fun a b => BitVec.ofNat 32 (a.toNat * b.toNat / 2 ^ 32)), (.sandB32, .sandB32Imm, fun a b => a &&& b),
   (.sorB32, .sorB32Imm, fun a b => a ||| b), (.sxorB32, .sxorB32Imm, fun a b => a ^^^ b), (.sandnB32, .sandnB32Imm, fun a b => a &&& ~~~ b),
   (.sshlB32, .sshlB32Imm, fun a b => if b.toNat < 32 then BitVec.ofNat 32 (a.toNat * 2 ^ b.toNat) else 0#32),
   (.sshrB32, .sshrB32Imm, fun a b => if b.toNat < 32 then BitVec.ofNat 32 (a.toNat / 2 ^ b.toNat) else 0#32),
   (.sshrI32, .sshrI32Imm, fun a b => if b.toNat < 32 then BitVec.ofInt 32 (a.toInt / 2 ^ b.toNat)
     else if a.toInt < 0 then 0xFFFFFFFF#32 else 0#32),
   (.sminI32, .sminI32Imm, fun a b => if a.toInt ≤ b.toInt then a else b), (.smaxI32, .smaxI32Imm, fun a b => if a.toInt ≤ b.toInt then b else a),
   (.sminB32, .sminB32Imm, fun a b => if a.toNat ≤ b.toNat then a else b), (.smaxB32, .smaxB32Imm, fun a b => if a.toNat ≤ b.toNat then b else a)]

/-- A compare's condition by its suffix (R60, R81). -/
noncomputable def compareTable : List ((RegF → Instr) × (RegF → BitVec 2 → Instr) × (Word → Word → Bool)) :=
  [(.scmpEqB32, .vcmpEqB32, fun a b => decide (a = b)), (.scmpNeB32, .vcmpNeB32, fun a b => decide (a ≠ b)),
   (.scmpLtI32, .vcmpLtI32, fun a b => decide (a.toInt < b.toInt)), (.scmpLeI32, .vcmpLeI32, fun a b => decide (a.toInt ≤ b.toInt)),
   (.scmpGtI32, .vcmpGtI32, fun a b => decide (a.toInt > b.toInt)), (.scmpGeI32, .vcmpGeI32, fun a b => decide (a.toInt ≥ b.toInt)),
   (.scmpLtB32, .vcmpLtB32, fun a b => decide (a.toNat < b.toNat)), (.scmpLeB32, .vcmpLeB32, fun a b => decide (a.toNat ≤ b.toNat)),
   (.scmpGtB32, .vcmpGtB32, fun a b => decide (a.toNat > b.toNat)), (.scmpGeB32, .vcmpGeB32, fun a b => decide (a.toNat ≥ b.toNat))]

/-- Class-V functions of two registers (R79): register form, and its immediate form where it has one. -/
noncomputable def vectorTable : List ((RegF → Instr) × (ImmF → Instr) × (Word → Word → Word)) :=
  [(.vaddI32, .vaddI32Imm, fun a b => BitVec.ofInt 32 (a.toInt + b.toInt)), (.vsubI32, .vsubI32Imm, fun a b => BitVec.ofInt 32 (a.toInt - b.toInt)),
   (.vaddSatI32, .vaddSatI32Imm, fun a b => BitVec.ofInt 32 (max (-2 ^ 31) (min (2 ^ 31 - 1) (a.toInt + b.toInt)))),
   (.vsubSatI32, .vsubSatI32Imm, fun a b => BitVec.ofInt 32 (max (-2 ^ 31) (min (2 ^ 31 - 1) (a.toInt - b.toInt)))),
   (.vaddSatB32, .vaddSatB32Imm, fun a b => BitVec.ofNat 32 (min (2 ^ 32 - 1) (a.toNat + b.toNat))),
   (.vsubSatB32, .vsubSatB32Imm, fun a b => BitVec.ofNat 32 (a.toNat - b.toNat)),
   (.vmulI32, .vmulI32Imm, fun a b => BitVec.ofInt 32 (a.toInt * b.toInt)),
   (.vmulhiI32, .vmulhiI32Imm, fun a b => BitVec.ofInt 32 (a.toInt * b.toInt / 2 ^ 32)),
   (.vmulhiB32, .vmulhiB32Imm, fun a b => BitVec.ofNat 32 (a.toNat * b.toNat / 2 ^ 32)),
   (.vminI32, .vminI32Imm, fun a b => if a.toInt ≤ b.toInt then a else b), (.vmaxI32, .vmaxI32Imm, fun a b => if a.toInt ≤ b.toInt then b else a),
   (.vminB32, .vminB32Imm, fun a b => if a.toNat ≤ b.toNat then a else b), (.vmaxB32, .vmaxB32Imm, fun a b => if a.toNat ≤ b.toNat then b else a),
   (.vandB32, .vandB32Imm, fun a b => a &&& b), (.vorB32, .vorB32Imm, fun a b => a ||| b), (.vxorB32, .vxorB32Imm, fun a b => a ^^^ b),
   (.vandnB32, .vandnB32Imm, fun a b => a &&& ~~~ b),
   (.vshlB32, .vshlB32Imm, fun a b => if b.toNat < 32 then BitVec.ofNat 32 (a.toNat * 2 ^ b.toNat) else 0#32),
   (.vshrB32, .vshrB32Imm, fun a b => if b.toNat < 32 then BitVec.ofNat 32 (a.toNat / 2 ^ b.toNat) else 0#32),
   (.vshrI32, .vshrI32Imm, fun a b => if b.toNat < 32 then BitVec.ofInt 32 (a.toInt / 2 ^ b.toNat)
     else if a.toInt < 0 then 0xFFFFFFFF#32 else 0#32)]

/-- Functions of one register (R79, R82, R151). -/
noncomputable def vectorTable1 : List ((RegF → Instr) × (Word → Word)) :=
  [(.vabsI32, fun a => BitVec.ofNat 32 a.toInt.natAbs), (.vnegI32, fun a => BitVec.ofInt 32 (-a.toInt)),
   (.vnotB32, fun a => ~~~ a), (.vmovB32, fun a => a),
   (.vpopcB32, fun a => BitVec.ofNat 32 (popc a)), (.vclzB32, fun a => BitVec.ofNat 32 (clz a)),
   (.vctzB32, fun a => BitVec.ofNat 32 (ctz a)), (.vbrevB32, fun a => a.reverse),
   (.vclassF32, fclass), (.vcvtF32E8m0, fromE8m0)]

/-- Functions of three registers (R79, R82). -/
noncomputable def vectorTable3 : List ((RegF → Instr) × (Word → Word → Word → Word)) :=
  [(.vmadI32, fun a b c => BitVec.ofInt 32 (a.toInt * b.toInt + c.toInt)), (.vdp4I8, dp4S), (.vdp4B8, dp4U),
   (.vinsB32, insB), (.vbselB8, bsel), (.vfunB32, fun a b c => BitVec.ofNat 32 ((b ++ a).toNat / 2 ^ (c.toNat % 64)))]

/-- Divisions (R84): what is written of the quotient and the remainder, and how the operands are read. -/
noncomputable def divisionTable : List ((RegF → Instr) × RegRow × (Word → Word → Word × Word × Events) × (Word → Word → List Word)) :=
  [(.vdivI32, rVVV, divS, fun q _ => [q]), (.vremI32, rVVV, divS, fun _ r => [r]),
   (.vdivB32, rVVV, divU, fun q _ => [q]), (.vremB32, rVVV, divU, fun _ r => [r]),
   (.vdivremI32, rDivrem, divS, fun q r => [q, r]), (.vdivremB32, rDivrem, divU, fun q r => [q, r])]

/-- The float instructions of one lane, each with its row and the function of its lane (R151 to R160). -/
noncomputable def floatTable : List ((RegF → Instr) × RegRow × (RegF → LaneFn)) :=
  [(.vaddF32, rF2, laneFp2 exAdd), (.vsubF32, rF2, laneFp2 exSub), (.vmulF32, rF2, laneFp2 fun _ => exMul),
   (.vfmaF32, rF3, laneFma), (.vldexpF32, rFldexp, laneLdexp), (.vminF32, rFminmax, laneMinMax false),
   (.vmaxF32, rFminmax, laneMinMax true), (.vfdiv, rF2, laneFp2 fun _ => exDiv), (.vfsqrt, rF1, laneFp1 exSqrt),
   (.vsinr, rF1, laneSfu .sinr), (.vcosr, rF1, laneSfu .cosr), (.vsinpi, rF1, laneSfu .sinpi),
   (.vcospi, rF1, laneSfu .cospi), (.vexp2, rF1, laneSfu .exp2), (.vlog2, rF1, laneSfu .log2),
   (.vrcp, rF1, laneSfu .rcp), (.vrsq, rF1, laneSfu .rsq)]

/-- The packed float instructions, by format (R152). -/
noncomputable def packedTable : List ((RegF → Bool → Instr) × RegRow × (Bool → RegF → LaneFn)) :=
  [(.vaddF16x2, rF2, fun bf => laneP2 bf exAdd), (.vsubF16x2, rF2, fun bf => laneP2 bf exSub),
   (.vmulF16x2, rF2, fun bf => laneP2 bf fun _ => exMul), (.vfmaF16x2, rF3, laneP3),
   (.vminF16x2, rFminmax, fun bf => laneMinMaxP bf false), (.vmaxF16x2, rFminmax, fun bf => laneMinMaxP bf true),
   (.vdot2F32F16x2, rF3, laneDot2)]

/-- The float instructions with an immediate (R151). -/
noncomputable def floatImmTable : List ((ImmF → Instr) × (ImmF → LaneFn)) :=
  [(.vaddF32Imm, laneFpImm exAdd), (.vsubF32Imm, laneFpImm exSub), (.vmulF32Imm, laneFpImm fun _ => exMul),
   (.vsubrF32, laneFpImm fun m a b => exSub m b a)]

/-- The float compares (R153): the relation on two values that are not NaN, the answer on a NaN, and whether only a signalling
NaN raises NV. -/
noncomputable def floatCompareTable : List ((RegF → BitVec 2 → Instr) × (Int → Bool) × Bool × Bool) :=
  [(.vfcmpEqF32, fun c => c == 0, false, true), (.vfcmpNeF32, fun c => c != 0, true, true),
   (.vfcmpLtF32, fun c => c < 0, false, false), (.vfcmpLeF32, fun c => c ≤ 0, false, false),
   (.vfcmpGtF32, fun c => 0 < c, false, false), (.vfcmpGeF32, fun c => 0 ≤ c, false, false),
   (.vfcmpUnF32, fun _ => false, true, true), (.vfcmpOrdF32, fun _ => true, false, true)]

/-- The conversions under a rounding mode RMS (R159). -/
noncomputable def roundedTable : List ((RegF → BitVec 3 → Instr) × RegRow × (BitVec 3 → RegF → LaneFn)) :=
  [(.vrndF32, rFrnd, laneRnd), (.vcvtF32I32, rCvtP, laneFromInt true), (.vcvtF32B32, rCvtP, laneFromInt false),
   (.vcvtI32F32, rCvtNP, laneToInt (-2 ^ 31) (2 ^ 31 - 1)), (.vcvtB32F32, rCvtNP, laneToInt 0 (2 ^ 32 - 1)),
   (.vcvtF16x2F32, rF2, laneToPair fp16), (.vcvtBf16x2F32, rF2, laneToPair bf16)]

/-- Masks of two masks and of one (R61): the new value of the active lanes' bits. -/
noncomputable def maskTable : List ((RegF → Instr) × RegRow × (Lanes → Lanes → Lanes)) :=
  [(.mand, rMMM, fun a b => a &&& b), (.mor, rMMM, fun a b => a ||| b), (.mxor, rMMM, fun a b => a ^^^ b),
   (.mandn, rMMM, fun a b => a &&& ~~~ b), (.mnot, rMM, fun a _ => ~~~ a), (.mmov, rMM, fun a _ => a)]

/-- Scalars of masks (R61): the value from the operands' masks and the active lanes `E`. -/
noncomputable def maskScalarTable : List ((RegF → Instr) × RegRow × (Lanes → Lanes → Lanes → Word)) :=
  [(.mtos, rSM, fun a _ _ => a), (.mpopc, rSM, fun a _ E => BitVec.ofNat 32 (lanesOf (a &&& E)).length),
   (.mffs, rSM, fun a _ E => BitVec.ofNat 32 ((lanesOf (a &&& E)).headD 32)),
   (.many, rSM, fun a _ E => if a &&& E = 0#32 then 0#32 else 1#32),
   (.mall, rSM, fun a _ E => if E &&& ~~~ a = 0#32 then 1#32 else 0#32),
   (.meq, rSMM, fun a b E => if (a ^^^ b) &&& E = 0#32 then 1#32 else 0#32)]

/-! ## What a state becomes -/

/-- Lane values of an operand. -/
def State.laneVal (s : State) (o : Opd) (L : Lane) : Word := s.grp.rd o 0 L

/-- Every executing lane has its results, and its events are in LANE_FLAGS (R52). -/
def State.withEvents (s : State) (o : Opd) (E : Lanes) (f : Lane → List Word × Events) : State :=
  s.setGrp ((s.grp.wrLanes o (fun L => (f L).1) (lanesOf E)).orFlags (fun L => (f L).2) (lanesOf E))

/-- No executing lane raises an event that TRAP_EN enables (R53). -/
def State.noTrap (s : State) (E : Lanes) (ev : Lane → Events) : Prop := trapLanes s.grp.trapEn E ev = 0#32

/-- The lane function of an instruction in every lane of the state. -/
def State.over (s : State) (f : LaneFn) : Lane → List Word × Events := fun L => f (s.env L)

end Sys2Proof.Machine

open Sys2Proof Sys2Proof.Machine

/-- R58, R59: a scalar function of two registers writes its result, exact and narrowed to 32 bits, and the slot goes on; an
immediate form puts IMM in the place of B of the register form with the same function. -/
def Obligations.ScalarFunctionResults : Prop :=
  (∀ p ∈ scalarTable, ∀ (x : RegF) (s : State), s.goesOn false (regForm rSSS x true s) = true →
    exec (p.1 x) s = .next (s.setS x.d (p.2.2 (s.grp.rdS x.a 0) (s.grp.rdS x.b 0))).advance)
  ∧ ((∀ p ∈ scalarTable, ∀ (x : ImmF) (s : State), s.goesOn false (immForm iSS x s) = true →
    exec (p.2.1 x) s = .next (s.setS x.d (p.2.2 (s.grp.rdS x.a 0) x.imm)).advance)
  ∧ ∀ (x : ImmF) (s : State), s.goesOn false (immForm iS x s) = true →
      exec (.smovB32Imm x) s = .next (s.setS x.d x.imm).advance)

/-- R58: the other scalar functions: moves, pairs (the named register low), counts and multiply-add. -/
def Obligations.ScalarUnaryAndPairResults : Prop :=
  ∀ (x : RegF) (s : State),
    let a := s.grp.rdS x.a 0
    let b := s.grp.rdS x.b 0
    let c := s.grp.rdS x.c 0
    (s.goesOn false (regForm rSS x true s) = true →
      exec (.smovB32 x) s = .next (s.setS x.d a).advance
      ∧ exec (.spopcB32 x) s = .next (s.setS x.d (BitVec.ofNat 32 (lanesOf a).length)).advance
      ∧ exec (.sclzB32 x) s = .next (s.setS x.d (BitVec.ofNat 32 (if a = 0#32 then 32 else 31 - Nat.log2 a.toNat))).advance)
    ∧ (s.goesOn false (regForm rSS64 x true s) = true →
      exec (.saddB64 x) s = .next (s.setS64 x.d (s.grp.rd64 x.a 0 + s.grp.rd64 x.b 0)).advance
      ∧ exec (.ssubB64 x) s = .next (s.setS64 x.d (s.grp.rd64 x.a 0 - s.grp.rd64 x.b 0)).advance)
    ∧ (s.goesOn false (regForm rSSSS x true s) = true →
      exec (.smadI32 x) s = .next (s.setS x.d (BitVec.ofInt 32 (a.toInt * b.toInt + c.toInt))).advance)

/-- R60: scalar compare and select: a compare writes 1 or 0, a select A where C is not 0 and otherwise B. A word of theirs has its
bits 27:0 zero, an s code or `%zero` in D, and in the operands it uses an s code, `%zero` or `%group` (R58). The figures of issue
and latency are timing, of which the model holds none (NOTES, Scope). -/
def Obligations.ScalarCompareResults : Prop :=
  (∀ p ∈ compareTable, ∀ (x : RegF) (s : State), s.goesOn false (regForm rSSS x true s) = true →
    exec (p.1 x) s = .next (s.setS x.d (if p.2.2 (s.grp.rdS x.a 0) (s.grp.rdS x.b 0) then 1#32 else 0#32)).advance)
  ∧ (∀ (x : RegF) (s : State), s.goesOn false (regForm rSSSS x true s) = true →
      exec (.sselB32 x) s
        = .next (s.setS x.d (if s.grp.rdS x.c 0 ≠ 0#32 then s.grp.rdS x.a 0 else s.grp.rdS x.b 0)).advance)
  ∧ ∀ (w : IWord) (x : RegF),
      let src := fun (o : Opd) => (∃ n, o = .s n) ∨ o = .zero ∨ o = .group
      let plain := w.extractLsb' 0 28 = 0#28 ∧ ((∃ n, x.d = .s n) ∨ x.d = .zero) ∧ src x.a ∧ src x.b
      (∀ p ∈ compareTable, decode w = .ok (p.1 x) → plain ∧ x.c = opdZero)
      ∧ (decode w = .ok (.sselB32 x) → plain ∧ src x.c)

/-- R61: mask logic writes only the bits of the active lanes, and mask counts look at them alone. -/
def Obligations.MaskInstructionResults : Prop :=
  (∀ p ∈ maskTable, ∀ (x : RegF) (s : State), s.goesOn false (regForm p.2.1 x true s) = true →
    exec (p.1 x) s = .next (s.setM x.d s.passLanes (p.2.2 (s.rdM x.a) (s.rdM x.b))).advance)
  ∧ (∀ p ∈ maskScalarTable, ∀ (x : RegF) (s : State), s.goesOn false (regForm p.2.1 x true s) = true →
    exec (p.1 x) s = .next (s.setS x.d (p.2.2 (s.rdM x.a) (s.rdM x.b) s.passLanes)).advance)
  ∧ ∀ (x : RegF) (s : State), s.goesOn false (regForm rMS x true s) = true →
      exec (.stom x) s = .next (s.setM x.d s.passLanes (s.grp.rdS x.a 0)).advance

/-- R79: a vector function of two registers, in each executing lane; its immediate form has IMM in the place of B. -/
def Obligations.VectorFunctionResults : Prop :=
  (∀ p ∈ vectorTable, ∀ (x : RegF) (s : State), s.goesOn true (regForm rVVV x true s) = true →
    exec (p.1 x) s = .next (s.setLanes x.d (s.execLanes x.guard x.ginv) fun L =>
      [p.2.2 (s.laneVal x.a L) (s.laneVal x.b L)]).advance)
  ∧ ((∀ p ∈ vectorTable, ∀ (x : ImmF) (s : State), s.goesOn true (immForm iVV x s) = true →
    exec (p.2.1 x) s = .next (s.setLanes x.d (s.execLanes x.guard x.ginv) fun L =>
      [p.2.2 (s.laneVal x.a L) x.imm]).advance)
  ∧ ∀ (x : ImmF) (s : State), s.goesOn true (immForm iV x s) = true →
      exec (.vmovB32Imm x) s = .next (s.setLanes x.d (s.execLanes x.guard x.ginv) fun _ => [x.imm]).advance)

/-- R79, R82, R151, R159: vector functions of one and of three registers, pairs, selection and bit fields. -/
def Obligations.VectorUnaryTernaryPairResults : Prop :=
  (∀ p ∈ vectorTable1, ∀ (x : RegF) (s : State), s.goesOn true (regForm rVV x true s) = true →
    exec (p.1 x) s = .next (s.setLanes x.d (s.execLanes x.guard x.ginv) fun L => [p.2 (s.laneVal x.a L)]).advance)
  ∧ (∀ p ∈ vectorTable3, ∀ (x : RegF) (s : State), s.goesOn true (regForm rVVVV x true s) = true →
    exec (p.1 x) s = .next (s.setLanes x.d (s.execLanes x.guard x.ginv) fun L =>
      [p.2 (s.laneVal x.a L) (s.laneVal x.b L) (s.laneVal x.c L)]).advance)
  ∧ ∀ (x : RegF) (s : State),
    let E := s.execLanes x.guard x.ginv
    let a := s.laneVal x.a
    let b := s.laneVal x.b
    (s.goesOn true (regForm rV64 x true s) = true →
      exec (.vaddB64 x) s = .next (s.setLanes x.d E fun L => words64 (s.grp.rd64 x.a L + s.grp.rd64 x.b L)).advance
      ∧ exec (.vsubB64 x) s = .next (s.setLanes x.d E fun L => words64 (s.grp.rd64 x.a L - s.grp.rd64 x.b L)).advance)
    ∧ (s.goesOn true (regForm rMadw x true s) = true →
      exec (.vmadwI32 x) s = .next (s.setLanes x.d E fun L =>
        words64 (BitVec.ofInt 64 ((a L).toInt * (b L).toInt + (s.grp.rd64 x.c L).toInt))).advance
      ∧ exec (.vmadwB32 x) s = .next (s.setLanes x.d E fun L =>
        words64 (BitVec.ofNat 64 ((a L).toNat * (b L).toNat + (s.grp.rd64 x.c L).toNat))).advance)
    ∧ (s.goesOn true (regForm rVVV x true s) = true →
      (∀ k, exec (.vselB32 x k) s = .next (s.setLanes x.d E fun L => [if laneIn (s.mreg k.toNat) L then a L else b L]).advance)
      ∧ exec (.vxtrB32 x) s = .next (s.setLanes x.d E fun L =>
        [BitVec.ofNat 32 ((a L).toNat / 2 ^ bfPos (b L) % 2 ^ bfLen (b L))]).advance
      ∧ exec (.vxtrI32 x) s = .next (s.setLanes x.d E fun L => [xtrS (a L) (b L)]).advance)

/-- R81, R43: a vector compare sets, ANDs or ORs the bits of the executing lanes of a mask register. -/
def Obligations.VectorCompareResults : Prop :=
  ∀ p ∈ compareTable, ∀ (x : RegF) (comb : BitVec 2) (s : State), s.goesOn true (regForm rCmp x true s) = true →
    exec (p.2.1 x comb) s
      = .next (s.setM x.d (s.execLanes x.guard x.ginv) (combine comb (s.rdM x.d)
          (maskWhere fun L => p.2.2 (s.laneVal x.a L) (s.laneVal x.b L)))).advance

/-- R84, R53: division writes quotient or remainder and its event in every executing lane; with an enabled event it writes no
lane and traps for the lanes that have one. The quotient truncates toward zero. -/
def Obligations.DivisionResults : Prop :=
  (∀ p ∈ divisionTable, ∀ (x : RegF) (s : State), s.goesOn true (regForm p.2.1 x true s) = true →
    let E := s.execLanes x.guard x.ginv
    let r := fun L => p.2.2.1 (s.laneVal x.a L) (s.laneVal x.b L)
    let f := fun L => (p.2.2.2 (r L).1 (r L).2.1, (r L).2.2)
    (s.noTrap E (fun L => (f L).2) → exec (p.1 x) s = .next (s.withEvents x.d E f).advance)
    ∧ (let T := trapLanes s.grp.trapEn E fun L => (f L).2
       (∀ L, laneIn T L = (laneIn E L && ((f L).2 &&& s.grp.trapEn) != 0#8))
       ∧ (T ≠ 0#32 → exec (p.1 x) s = .next (s.takeTrap
          { cause := if ∃ L ∈ lanesOf T, (f L).2.getLsbD 0 then .intDivzero else .intOverflow, mask := T }))))
  ∧ ((∀ n d : Word, d ≠ 0#32 → divU n d = (BitVec.ofNat 32 (n.toNat / d.toNat), BitVec.ofNat 32 (n.toNat % d.toNat), 0#8))
  ∧ (∀ n : Word, divU n 0#32 = (0xFFFFFFFF#32, n, 1#8) ∧ divS n 0#32 = (0xFFFFFFFF#32, n, 1#8))
  ∧ (∀ n d : Word, d ≠ 0#32 → ¬ (n = 0x80000000#32 ∧ d = 0xFFFFFFFF#32) →
      divS n d = (BitVec.ofInt 32 (n.toInt.tdiv d.toInt), BitVec.ofInt 32 (n.toInt.tmod d.toInt), 0#8))
  ∧ divS 0x80000000#32 0xFFFFFFFF#32 = (0x80000000#32, 0#32, 2#8))
namespace Sys2Proof.Machine

/-- An instruction that applies a function of one lane in each executing lane, with the trap rule of R53 and R149: with an
enabled event it writes no lane and no flag, and traps for the lanes that have one. -/
def lanewise (i : RegF → Instr) (r : RegRow) (f : RegF → LaneFn) : Prop :=
  ∀ (x : RegF) (s : State), s.goesOn true (regForm r x true s) = true →
    let E := s.execLanes x.guard x.ginv
    let ev := fun L => (s.over (f x) L).2
    (s.noTrap E ev → exec (i x) s = .next (s.withEvents x.d E (s.over (f x))).advance)
    ∧ (¬ s.noTrap E ev → exec (i x) s = .next (s.takeTrap
        { cause := trapCause s.grp.trapEn (trapLanes s.grp.trapEn E ev) ev, mask := trapLanes s.grp.trapEn E ev }))

/-- The lane that each shuffle reads, from its operand `u` and the reading lane: none where that lane does not exist (R87). -/
noncomputable def shuffleTable : List ((RegF → LaneX → Instr) × Nat × (Nat → Lane → Option Lane)) :=
  [(.vxlnPick, 0, fun u _ => some (u % 32)), (.vxlnLower, 1, fun u L => if u ≤ L then some (L - u) else none),
   (.vxlnUpper, 2, fun u L => if L + u ≤ 31 then some (L + u) else none), (.vxlnMirror, 3, fun u L => some (L ^^^ (u % 32))),
   (.vswapp, 4, fun _ L => some (L ^^^ 1)), (.vxlnFan, 5, fun u _ => some (u % 32))]

/-- The polls (R89): the scalar from the executing lanes, ascending, and their values. -/
noncomputable def pollTable : List ((RegF → Instr) × (List Lane → (Lane → Word) → Word)) :=
  [(.vpollSome, fun Ls a => if ∃ L ∈ Ls, a L ≠ 0#32 then 1#32 else 0#32),
   (.vpollEvery, fun Ls a => if ∀ L ∈ Ls, a L ≠ 0#32 then 1#32 else 0#32),
   (.vpollMap, fun Ls a => maskWhere fun L => Ls.contains L && a L != 0#32),
   (.vpollSame, fun Ls a => if ∀ L ∈ Ls, ∀ K ∈ Ls, a L = a K then 1#32 else 0#32)]

/-- The integer reductions (R89, R90): the operation on two values. -/
noncomputable def reduceTable : List ((RegF → Instr) × (Word → Word → Word)) :=
  [(.vredAddI32, fun a b => BitVec.ofInt 32 (a.toInt + b.toInt)), (.vredMinI32, fun a b => if a.toInt ≤ b.toInt then a else b),
   (.vredMaxI32, fun a b => if a.toInt ≤ b.toInt then b else a), (.vredMinB32, fun a b => if a.toNat ≤ b.toNat then a else b),
   (.vredMaxB32, fun a b => if a.toNat ≤ b.toNat then b else a), (.vredAndB32, fun a b => a &&& b),
   (.vredOrB32, fun a b => a ||| b), (.vredXorB32, fun a b => a ^^^ b)]

/-- The FP32 reductions (R90): the operation on two values under a rounding mode, with its events. -/
noncomputable def reduceFpTable : List ((RegF → Instr) × (Nat → Word → Word → Word × Events)) :=
  [(.vredAddF32, fAdd), (.vredMinF32, fun _ => fMin), (.vredMaxF32, fun _ => fMax)]

/-- The active lanes that a guard selects, for the instructions across lanes (R86). -/
def State.crossLanes (s : State) (x : RegF) : Lanes := s.passLanes &&& s.guardMask x.guard x.ginv

/-- The trap of a group-wide float instruction whose event is enabled: every executing lane is in its mask (R90, R162). -/
def State.groupTrap (s : State) (E : Lanes) (ev : Events) : Trap :=
  { cause := trapCause s.grp.trapEn E fun _ => ev, mask := E }

/-- One element of a block of VQUANT (R163): code and events; a NaN under a scaled target makes the whole block NaN. -/
def State.quantised (s : State) (x : RegF) (qx : QuantX) (E : Lanes) : Nat × (Lane → Nat × Events) :=
  let src := fun L => unp32 (s.laneVal x.a L)
  if quantMx qx.qf && (lanesOf E).any fun L => (src L).v.isNan then (255, fun L => (0, if (src L).v.isNan then evNV else 0#8))
  else
    let scale := if quantMx qx.qf then quantScale (quantFmt qx.qf).2 ((lanesOf E).map fun L => (src L).v) else 127
    (scale, fun L => quantElem (quantFmt qx.qf).1 scale (src L))

/-- What VQUANT writes: the elements, one a lane or packed, then the scale, then the events (R163). -/
def State.quantOut (s : State) (x : RegF) (qx : QuantX) (E : Lanes) (scale : Nat) (el : Lane → Nat × Events) : State :=
  let es := allLanes.map fun L => if laneIn E L then (el L).1 else 0
  let t : State :=
    if qx.pack then
      s.setLanes x.d (E &&& maskWhere fun L => L < quantBits qx.qf) fun L => [packedWord (quantBits qx.qf) es L]
    else s.setLanes x.d E fun L => [BitVec.ofNat 32 (el L).1]
  let t : State :=
    match opdOf qx.scd with
    | some o => if quantMx qx.qf then t.setS o (BitVec.ofNat 32 scale) else t
    | none => t
  t.setGrp (t.grp.orFlags (fun L => (el L).2) (lanesOf E))

end Sys2Proof.Machine

open Sys2Proof Sys2Proof.Machine

/-- R151 to R160: the float instructions of one lane write their result and OR their events into LANE_FLAGS in every executing lane;
with an enabled event they write no lane and trap. An immediate form reads IMM as an FP32 value in the place of B; VSUBR subtracts
A from it. -/
def Obligations.FloatInstructionResults : Prop :=
  ((∀ p ∈ floatTable, lanewise p.1 p.2.1 p.2.2)
  ∧ (∀ p ∈ packedTable, ∀ bf, lanewise (fun x => p.1 x bf) p.2.1 (p.2.2 bf))
  ∧ (∀ p ∈ roundedTable, ∀ rms, lanewise (fun x => p.1 x rms) p.2.1 (p.2.2 rms))
  ∧ (∀ hi, lanewise (fun x => .vcvtF32F16 x hi) rCvtN (laneFromHalf fp16 hi)
      ∧ lanewise (fun x => .vcvtF32Bf16 x hi) rCvtN (laneFromHalf bf16 hi))
  ∧ (∀ ex, lanewise (fun x => .vcvtF32Fmt x ex) (rFromElem ex) (laneFromElem ex))
  ∧ ∀ (x : RegF) (ex : ElemX) (s : State),
      s.goesOn true (regForm rCvtE x (x.clamp == 0#2 || x.clamp == 3#2) s) = true →
      let E := s.execLanes x.guard x.ginv
      let ev := fun L => (s.over (laneToElem ex x) L).2
      (s.noTrap E ev → exec (.vcvtFmtF32 x ex) s = .next (s.withEvents x.d E (s.over (laneToElem ex x))).advance)
      ∧ (¬ s.noTrap E ev → exec (.vcvtFmtF32 x ex) s = .next (s.takeTrap
          { cause := trapCause s.grp.trapEn (trapLanes s.grp.trapEn E ev) ev, mask := trapLanes s.grp.trapEn E ev })))
  ∧ (∀ p ∈ floatImmTable, ∀ (x : ImmF) (s : State), s.goesOn true (immForm iVV x s) = true →
    let E := s.execLanes x.guard x.ginv
    let ev := fun L => (s.over (p.2 x) L).2
    (s.noTrap E ev → exec (p.1 x) s = .next (s.withEvents x.d E (s.over (p.2 x))).advance)
    ∧ (¬ s.noTrap E ev → exec (p.1 x) s = .next (s.takeTrap
        { cause := trapCause s.grp.trapEn (trapLanes s.grp.trapEn E ev) ev, mask := trapLanes s.grp.trapEn E ev })))

/-- R153: a float compare; NaN gives false, and true for NE and UN; LT, LE, GT and GE raise NV on every NaN. With an enabled event
it writes no bit and traps for the lanes that have one. -/
def Obligations.FloatCompareResults : Prop :=
  ∀ p ∈ floatCompareTable, ∀ (x : RegF) (comb : BitVec 2) (s : State), s.goesOn true (regForm rFcmp x true s) = true →
    let E := s.execLanes x.guard x.ginv
    let a := fun L => (s.env L).fa x
    let b := fun L => (s.env L).fb x
    let nan := fun L => (a L).v.isNan || (b L).v.isNan
    let c := fun L => if nan L then p.2.2.1 else p.2.1 (cmpVal (a L).v (b L).v)
    let ev := fun L => if nan L then (if p.2.2.2 && !(a L).sn && !(b L).sn then 0#8 else evNV) else 0#8
    (s.noTrap E ev →
      exec (p.1 x comb) s
        = .next (let t := s.setM x.d E (combine comb (s.rdM x.d) (maskWhere c))
                 t.setGrp (t.grp.orFlags ev (lanesOf E))).advance)
    ∧ (¬ s.noTrap E ev → exec (p.1 x comb) s = .next (s.takeTrap
        { cause := trapCause s.grp.trapEn (trapLanes s.grp.trapEn E ev) ev, mask := trapLanes s.grp.trapEn E ev }))

/-- R147: rounding a magnitude m to a multiple n of 2^k: RNE takes the nearest, the even one at a tie; RTZ the one towards zero;
RUP and RDN the one towards +∞ and −∞. It says whether the result differs. -/
def Obligations.RoundingIsNearestOrDirected : Prop :=
  ∀ (neg : Bool) (m k : Nat), 0 < k →
    (let n := (roundAt 0 neg m 0 false k).1
     2 * (n * 2 ^ k) ≤ 2 * m + 2 ^ k ∧ 2 * m ≤ 2 * (n * 2 ^ k) + 2 ^ k
       ∧ (2 * m = 2 * (n * 2 ^ k) + 2 ^ k ∨ 2 * (n * 2 ^ k) = 2 * m + 2 ^ k → n % 2 = 0))
    ∧ (roundAt 1 neg m 0 false k).1 * 2 ^ k ≤ m ∧ m < ((roundAt 1 neg m 0 false k).1 + 1) * 2 ^ k
    ∧ (let up := (roundAt 2 false m 0 false k).1
       m ≤ up * 2 ^ k ∧ up * 2 ^ k < m + 2 ^ k ∧ roundAt 3 true m 0 false k = roundAt 2 false m 0 false k)
    ∧ (roundAt 2 true m 0 false k = roundAt 1 true m 0 false k ∧ roundAt 3 false m 0 false k = roundAt 1 false m 0 false k)
    ∧ ∀ mode, (roundAt mode neg m 0 false k).2 = true ↔ m % 2 ^ k ≠ 0

/-- R148: a NaN operand of FP32 addition, subtraction, multiplication, division or fused multiply-add gives the canonical quiet
NaN, without a clamp; it raises NV exactly when an operand is a signalling NaN or, in the fused form, 0 × ∞ is formed. -/
def Obligations.NanResultsAreCanonical : Prop :=
  ∀ (x : RegF) (e : LaneEnv), x.clamp = 0#2 →
    let a := e.fa x
    let b := e.fb x
    let c := e.fc x
    ((a.v.isNan || b.v.isNan) = true →
      (∀ f ∈ [laneFp2 exAdd x, laneFp2 exSub x, laneFp2 (fun _ => exMul) x, laneFp2 (fun _ => exDiv) x],
        f e = ([0x7FC00000#32], if a.sn || b.sn then 4#8 else 0#8)))
    ∧ ((a.v.isNan || b.v.isNan || c.v.isNan) = true →
      laneFma x e = ([0x7FC00000#32], if a.sn || b.sn || c.sn || badMul a.v b.v then 4#8 else 0#8))

/-- R87, R88: a shuffle reads, in each executing lane, the lane its function names where that is an executing lane, and
otherwise its own; VXLN.TAKE and VXLN.PUT move one lane's value to and from a scalar. -/
def Obligations.ShuffleResults : Prop :=
  (∀ p ∈ shuffleTable, ∀ (x : RegF) (lx : LaneX) (s : State), s.goesOn false (regForm (rLane p.2.1 lx) x true s) = true →
    let E := s.crossLanes x
    let u := fun L => if lx.usei then lx.lane5.toNat else (s.grp.rd x.b 0 (if p.2.1 = 0 then L else 0)).toNat
    let src := fun L => match p.2.2 (u L) L with | some k => if laneIn E k then k else L | none => L
    exec (p.1 x lx) s = .next (s.setLanes x.d E fun L =>
      (List.range (if lx.w64 then 2 else 1)).map fun j => swapSign p.2.1 lx L (s.grp.rd x.a j (src L))).advance)
  ∧ ∀ (x : RegF) (lx : LaneX) (s : State),
    let E := s.crossLanes x
    let k := (if lx.usei then lx.lane5.toNat else (s.grp.rdS x.b 0).toNat) % 32
    (s.goesOn false (regForm (rLane 6 lx) x true s) = true →
      exec (.vxlnTake x lx) s = .next (s.setS x.d (if laneIn E k then s.laneVal x.a k else 0#32)).advance)
    ∧ (s.goesOn false (regForm (rLane 7 lx) x true s) = true →
      exec (.vxlnPut x lx) s = .next (s.setLanes x.d (E &&& laneBit k) fun _ => [s.grp.rdS x.a 0]).advance)

/-- R89, R90: polls, integer reductions and the scan over the executing lanes; with none of them nothing is written. -/
def Obligations.PollReductionScanResults : Prop :=
  (∀ p ∈ pollTable, ∀ (x : RegF) (s : State), s.goesOn false (regForm rPoll x true s) = true →
    exec (p.1 x) s = .next (if s.crossLanes x = 0#32 then s
      else s.setS x.d (p.2 (lanesOf (s.crossLanes x)) (s.laneVal x.a))).advance)
  ∧ (∀ p ∈ reduceTable, ∀ (x : RegF) (s : State), s.goesOn false (regForm rRed x true s) = true →
    exec (p.1 x) s = .next (match lanesOf (s.crossLanes x) with
      | [] => s
      | L :: Ls => s.setRed x.d (s.crossLanes x) (Ls.foldl (fun a K => p.2 a (s.laneVal x.a K)) (s.laneVal x.a L))).advance)
  ∧ ∀ (x : RegF) (s : State), s.goesOn false (regForm rPeers x true s) = true →
      let E := s.crossLanes x
      exec (.vpollPeers x) s = .next (s.setLanes x.d E fun L =>
        [maskWhere fun K => laneIn E K && s.laneVal x.a K == s.laneVal x.a L]).advance
      ∧ exec (.vscanAddI32 x) s = .next (s.setLanes x.d E fun L =>
        [BitVec.ofInt 32 (((lanesOf E).filter fun K => K ≤ L).map fun K => (s.laneVal x.a K).toInt).sum]).advance

/-- R90, R162: the FP32 reductions by the tree of R90, and the rotation; an enabled event traps for every executing lane. -/
def Obligations.GroupFloatResults : Prop :=
  (∀ p ∈ reduceFpTable, ∀ (x : RegF) (s : State), s.goesOn false (regForm rRed x true s) = true →
    let E := s.crossLanes x
    let r := redTree (p.2 s.grp.fpMode.toNat) 5 (allLanes.map fun L => if laneIn E L then some (s.laneVal x.a L) else none)
    (E = 0#32 → exec (p.1 x) s = .next s.advance)
    ∧ ∀ w, r.1 = some w →
      (r.2 &&& s.grp.trapEn = 0#8 →
        exec (p.1 x) s = .next (let t := s.setRed x.d E w; t.setGrp (t.grp.orFlags (fun _ => r.2) (lanesOf E))).advance)
      ∧ (r.2 &&& s.grp.trapEn ≠ 0#8 → E ≠ 0#32 → exec (p.1 x) s = .next (s.takeTrap (s.groupTrap E r.2))))
  ∧ ∀ (x : RegF) (s : State), s.goesOn false (regForm rHad x true s) = true →
      let E := s.crossLanes x
      let vs := allLanes.map fun L => if laneIn E L then s.laneVal x.a L else 0#32
      (∀ (i : Instr) (norm : Bool), (i, norm) ∈ [(Instr.vhad32 x, false), (Instr.vhad32N x, true)] →
        let r := had32 norm vs
        (r.2 &&& s.grp.trapEn = 0#8 →
          exec i s = .next (let t := s.setLanes x.d E fun L => [r.1.getD L 0#32]
                            t.setGrp (t.grp.orFlags (fun _ => r.2) (lanesOf E))).advance)
        ∧ (r.2 &&& s.grp.trapEn ≠ 0#8 → E ≠ 0#32 → exec i s = .next (s.takeTrap (s.groupTrap E r.2))))

/-- R163: VQUANT writes the codes of one block under its scale, one a lane or packed, the scale to its register, and the events
of the lanes; an enabled event traps and writes nothing. -/
def Obligations.QuantisationResults : Prop :=
  ∀ (x : RegF) (qx : QuantX) (s : State), s.goesOn false (regForm rHad x true s) = true →
    let E := s.crossLanes x
    let q := s.quantised x qx E
    (s.noTrap E (fun L => (q.2 L).2) → exec (.vquant x qx) s = .next (s.quantOut x qx E q.1 q.2).advance)
    ∧ (¬ s.noTrap E (fun L => (q.2 L).2) → exec (.vquant x qx) s = .next (s.takeTrap
        { cause := trapCause s.grp.trapEn (trapLanes s.grp.trapEn E fun L => (q.2 L).2) fun L => (q.2 L).2,
          mask := trapLanes s.grp.trapEn E fun L => (q.2 L).2 }))

/-- R69, R46: PSET moves every active lane to the plane its operand names, or, when one of them is P or more, traps PLANE_RANGE and
moves none; PGET reads the plane numbers. XSET sets BASE, LIMIT and the executing lanes' indices where the range lies within the
indirect space, and traps INDEX_RANGE otherwise; XIDX, XADD and XGET set, add to and read the index. -/
def Obligations.PlaneAndIndexResults : Prop :=
  (∀ (x : RegF) (s : State),
    let p := fun L => (s.laneVal x.a L).extractLsb' 0 2
    (s.goesOn false (regForm rPset x true s) = true →
      ((∀ L ∈ lanesOf s.passLanes, (p L).toNat < s.lnc.planes) →
        exec (.pset x) s = .next (s.setGrp { s.grp with planes := sputMany s.grp.planes p (lanesOf s.passLanes) }).advance)
      ∧ ((∃ L ∈ lanesOf s.passLanes, s.lnc.planes ≤ (p L).toNat) →
        ∃ m, m ≠ 0#32 ∧ exec (.pset x) s = .next (s.takeTrap { cause := .planeRange, mask := m })))
    ∧ (s.goesOn false (regForm rPget x true s) = true →
      exec (.pget x) s = .next (s.setLanes x.d s.passLanes fun L => [(s.grp.planeOf L).setWidth 32]).advance))
  ∧ (∀ (x : RegF) (k : BitVec 2) (s : State),
    let E := s.crossLanes x
    let base := s.grp.rdS x.b 0
    let lim := s.grp.rdS x.c 0
    let idx := fun L => sget s.grp.xindex (k.toNat * 32 + L)
    (s.goesOn false (regForm rXset x true s) = true →
      (lim ≠ 0#32 → s.inIndirect base.toNat (base.toNat + lim.toNat - 1) = true →
        exec (.xset x k) s
          = .next ((s.setGrp { s.grp with xbase := sput s.grp.xbase k.toNat base,
                                          xlimit := sput s.grp.xlimit k.toNat lim }).setIndex k E (s.laneVal x.a)).advance)
      ∧ (lim = 0#32 ∨ s.inIndirect base.toNat (base.toNat + lim.toNat - 1) = false →
        exec (.xset x k) s = .next (s.takeTrap { cause := .indexRange, mask := s.slot.mask })))
    ∧ (s.goesOn false (regForm rXidx x true s) = true →
      exec (.xidx x k) s = .next (s.setIndex k E (s.laneVal x.a)).advance
      ∧ exec (.xadd x k) s = .next (s.setIndex k E fun L => idx L + s.laneVal x.a L).advance)
    ∧ (s.goesOn false (regForm rXget x true s) = true →
      exec (.xget x k) s = .next (s.setLanes x.d E fun L => [idx L]).advance))

namespace Sys2Proof.Machine

/-- The branches that move the slot (R63): the instruction, its row, whether R21 lets it pass parked lanes, when it is taken, its
target, and what it does beside moving: a call writes the next offset, a return leaves the trap routine. -/
noncomputable def branchTable :
    List ((BrF → Instr) × BrRow × Bool × (BrF → State → Prop) × (BrF → State → Target) × (BrF → State → State)) :=
  let disp := fun (x : BrF) (s : State) => s.dispTarget x
  let any := fun (x : BrF) (s : State) => ∃ L, laneIn s.passLanes L = true ∧ laneIn (s.condSet x) L = true
  let all := fun (x : BrF) (s : State) => ∀ L, laneIn s.passLanes L = true → laneIn (s.condSet x) L = true
  let call := fun (x : BrF) (s : State) => s.setS x.d ((nextOffset s.slot.offset).setWidth 32)
  [(.bra, bBra, true, fun _ _ => True, disp, fun _ s => s), (.braAny, bCond, true, any, disp, fun _ s => s),
   (.braAll, bCond, true, all, disp, fun _ s => s), (.braNz, bNz, true, fun x s => s.grp.rdS x.a 0 ≠ 0#32, disp, fun _ s => s),
   (.braZ, bNz, true, fun x s => s.grp.rdS x.a 0 = 0#32, disp, fun _ s => s), (.call, bCall, false, fun _ _ => True, disp, call),
   (.brx, bReg, true, fun _ _ => True, fun x s => s.regTarget true x, fun _ s => s),
   (.callx, bCallx, false, fun _ _ => True, fun x s => s.regTarget true x, call),
   (.ret, bReg, true, fun _ _ => True, fun x s => s.regTarget false x, fun _ s => s.setSlot { s.slot with inTrap := false })]

/-- An access to an entry of the slot's stack that goes through: it translates, its line is not held, and its sector is paid for
(R14, R174, R241, R284). -/
def State.stackReady (s : State) (i : Nat) : Prop :=
  s.walkHeld (some s.grp.core) s.grp.ctx [s.stackVa s.grp i] = false
    ∧ ∃ y, translate s (some s.grp.core) s.grp.ctx (s.stackVa s.grp i) .store = .ok y ∧ s.lineHeld [(y.pa, 16)] = false
    ∧ (s.pay [s.cost 1 y.pa 1]).1 = true

end Sys2Proof.Machine

open Sys2Proof Sys2Proof.Machine

/-- R63, R64: a taken branch moves the slot to its target with plane cursor 0, one not taken falls through; a call writes the
offset after it; a return leaves the trap routine. A taken branch whose target fails takes the target's trap for the active lanes,
or stops on the fault of the target line's fetch. A displacement's target is ((line + DISP) × 8) + SLOT, a register's is A. It
traps FETCH_RANGE when its line lies outside the plane, for a register also with bits 31:30 set or a slot above 4; otherwise,
except for RET, BRANCH_TARGET when the TGT bit of the slot in the target line is clear. That BRA.ANY and BRA.ALL judge, in a pass
of a non-uniform slot, the lanes of that pass alone is the model's choice (log 69). -/
def Obligations.BranchResults : Prop :=
  (∀ p ∈ branchTable, ∀ (x : BrF) (s : State),
    let taken := p.2.2.2.1 x s
    let target := p.2.2.2.2.1 x s
    (s.issues p.2.2.1 (brForm p.2.1 x s) = true → taken →
      (∀ o, target = .ok o → exec (p.1 x) s = .next ((p.2.2.2.2.2 x s).moveTo o))
      ∧ (∀ c, target = .trap c → exec (p.1 x) s = .next (s.takeTrap { cause := c, mask := s.slot.mask }))
      ∧ (∀ c va, target = .fault c va → exec (p.1 x) s = .next (s.slotFault c va .fetch)))
    ∧ (s.goesOn p.2.2.1 (brForm p.2.1 x s) = true → ¬ taken → exec (p.1 x) s = .next s.advance))
  ∧ (∀ (x : BrF) (s : State),
    let low := ((s.grp.occupied s.slot.mask).headD 0#2).toNat
    let line : Int := lineOf s.slot.offset + x.disp.toInt
    let lw := s.fetchLine s.grp low line.toNat
    (line < 0 ∨ s.lnc.stride < (line.toNat + 1) * 64 → s.dispTarget x = .trap .fetchRange)
    ∧ (0 ≤ line → (line.toNat + 1) * 64 ≤ s.lnc.stride →
      (∀ bs, lw = .ok bs → s.dispTarget x
        = if (lineWord bs).getLsbD x.slot.toNat then .ok (BitVec.ofNat 30 (line.toNat * 8 + x.slot.toNat))
          else .trap .branchTarget)
      ∧ ∀ c, lw = .error c → s.dispTarget x = .fault c (s.lnc.lineVa low line.toNat)))
  ∧ (∀ (x : BrF) (s : State),
    let a := s.grp.rdS x.a 0
    let low := ((s.grp.occupied s.slot.mask).headD 0#2).toNat
    let line := (a.extractLsb' 3 27).toNat
    let k := (a.extractLsb' 0 3).toNat
    let lw := s.fetchLine s.grp low line
    (a.extractLsb' 30 2 ≠ 0#2 ∨ 4 < k ∨ s.lnc.stride < (line + 1) * 64 → ∀ tgt, s.regTarget tgt x = .trap .fetchRange)
    ∧ (a.extractLsb' 30 2 = 0#2 → k ≤ 4 → (line + 1) * 64 ≤ s.lnc.stride →
      s.regTarget false x = .ok (a.extractLsb' 0 30)
      ∧ (∀ bs, lw = .ok bs → s.regTarget true x
          = if (lineWord bs).getLsbD k then .ok (a.extractLsb' 0 30) else .trap .branchTarget)
      ∧ ∀ c, lw = .error c → s.regTarget true x = .fault c (s.lnc.lineVa low line)))

/-- R13, R66: a divergent branch none of whose lanes takes it falls through, one that all take moves the slot; otherwise a FUSED
group with a free slot splits, and any other slot pushes the lanes that do not take it, to run later from the next offset; a full
stack traps DIVSTACK_OVERFLOW with the slot's active lanes. A branch that some lane takes has its target's traps. That in a pass of
a non-uniform slot the condition is judged over the pass's lanes alone, and that the lanes of other planes then go with those that
do not take the branch, or move with the slot where all of the pass take it, is the model's choice (log 69). -/
def Obligations.DivergentBranchResults : Prop :=
  (∀ (x : BrF) (s : State) (o : Offset), s.goesOn false (brForm bDbra x s) = true → s.dispTarget x = .ok o →
    let E := s.passLanes
    let T := s.condSet x &&& E
    let other := s.grp.slot (otherSlot s.sel)
    (T = 0#32 → exec (.dbra x) s = .next s.advance)
    ∧ (T ≠ 0#32 → T = E → exec (.dbra x) s = .next (s.moveTo o))
    ∧ (T ≠ 0#32 → T ≠ E → other.live = false ∧ s.grp.fusion = .fused →
        let u := s.split T (s.joinOf x) o
        let kept := u.grp.slot s.sel
        let new := u.grp.slot (otherSlot s.sel)
        exec (.dbra x) s = .next u
        ∧ kept.mask = T ∧ kept.offset = o ∧ new.live = true ∧ new.mask = s.slot.mask &&& ~~~ T ∧ new.pcur = 0#2
        ∧ new.offset = nextOffset s.slot.offset ∧ kept.pjoin = some (s.joinOf x) ∧ new.pjoin = some (s.joinOf x)
        ∧ u.grp.outerJoin = s.slot.pjoin ∧ u.grp.splitJoin = some (s.joinOf x) ∧ u.grp.fusion = .split
        ∧ u.grp.stack = s.grp.stack)
    ∧ (T ≠ 0#32 → T ≠ E → ¬ (other.live = false ∧ s.grp.fusion = .fused) → s.grp.stack.length < s.lnc.stackCap →
        s.stackReady s.grp.stack.length →
        ∃ u : State, exec (.dbra x) s = .next (u.moveTo o)
        ∧ u.grp.stack = s.grp.stack ++ [{ slot := s.sel, phase := false, outer := s.slot.pjoin, dead := false,
                                          join := s.joinOf x, resume := nextOffset s.slot.offset, mask := s.slot.mask &&& ~~~ T }]
        ∧ u.slot.mask = T ∧ u.slot.pjoin = some (s.joinOf x) ∧ u.grp.regs = s.grp.regs)
    ∧ (T ≠ 0#32 → T ≠ E → ¬ (other.live = false ∧ s.grp.fusion = .fused) → s.lnc.stackCap ≤ s.grp.stack.length →
        exec (.dbra x) s = .next (s.takeTrap { cause := .divstackOverflow, mask := s.slot.mask })))
  ∧ ∀ (x : BrF) (s : State), s.issues false (brForm bDbra x s) = true → s.condSet x &&& s.passLanes ≠ 0#32 →
    (∀ c, s.dispTarget x = .trap c → exec (.dbra x) s = .next (s.takeTrap { cause := c, mask := s.slot.mask }))
    ∧ ∀ c va, s.dispTarget x = .fault c va → exec (.dbra x) s = .next (s.slotFault c va .fetch)

/-- R15, R67, R68: a JOIN with no matching entry and no split join at its offset falls through; at the split join the slot that
comes first waits and the second fuses the group in slot A, with the union of the masks, after the JOIN with the outer pending join
and plane cursor 0; a slot alone goes on after it. With a matching entry that is not on chip the slot waits for its read. With one
of PHASE 0 whose lanes are left, the slot and the entry exchange their masks, PHASE becomes 1 and the slot goes to RESUME; otherwise
the lanes left in the entry come back, the pending join is OUTER, the entry is dead, and the slot goes on. -/
def Obligations.JoinResults : Prop :=
  ∀ (x : BrF) (s : State), s.goesOn false (brForm bJoin x s) = true →
    let g := s.grp
    let sl := s.slot
    let other := g.slot (otherSlot s.sel)
    let atSplit := g.fusion = .split ∧ g.splitJoin = some sl.offset
    (s.matching = none →
      (¬ atSplit → exec (.join x) s = .next s.advance)
      ∧ (atSplit → other.live = true → other.atJoin = true →
          let f := g.fuseAt (nextOffset sl.offset) g.outerJoin
          exec (.join x) s = .next (s.setGrp f)
          ∧ f.a.mask = g.a.mask ||| g.b.mask ∧ f.a.offset = nextOffset sl.offset ∧ f.a.pjoin = g.outerJoin ∧ f.a.pcur = 0#2
          ∧ f.b.live = false ∧ f.fusion = .fused ∧ f.splitJoin = none ∧ f.outerJoin = none)
      ∧ (atSplit → other.live = true → other.atJoin = false →
          exec (.join x) s = .next (s.setSlot { sl with atJoin := true }))
      ∧ (atSplit → other.live = false → exec (.join x) s = .next ((s.setGrp (g.fuseAlone s.sel)).syncStack s.gid g.stack)))
    ∧ ∀ i e, s.matching = some (i, e) →
      (sl.chip = false → exec (.join x) s = .next (s.setSlot { sl with joinRead := true }))
      ∧ (sl.chip = true → e.phase = false → e.mask &&& g.alive ≠ 0#32 → s.stackReady i →
        ∃ u : State, exec (.join x) s = .next (u.moveTo e.resume) ∧ u.slot.mask = e.mask ∧ u.slot.pjoin = sl.pjoin
          ∧ u.grp.stack = g.stack.modify i (fun k => { k with phase := true, mask := sl.mask }) ∧ u.grp.regs = g.regs
          ∧ (g.fusion ≠ .parked → (u.moveTo e.resume).slot.offset = e.resume ∧ (u.moveTo e.resume).slot.pcur = 0#2
              ∧ (u.moveTo e.resume).slot.mask = e.mask))
      ∧ (sl.chip = true → e.phase = true ∨ e.mask &&& g.alive = 0#32 →
        let st := dropDead (g.stack.modify i fun k => { k with dead := true })
        (i < st.length → s.stackReady i) →
        ∃ u : State, exec (.join x) s = .next u.advance ∧ u.slot.mask = (sl.mask ||| (e.mask &&& g.alive))
          ∧ u.slot.pjoin = e.outer ∧ u.slot.chip = false ∧ u.grp.stack = st ∧ u.grp.regs = g.regs)

/-- R16, R67: the active lanes in the condition set of EXIT leave the group: every slot's mask, every stack entry and the set
of lanes that are left; with none of them it falls through. -/
def Obligations.ExitResults : Prop :=
  ∀ (x : BrF) (s : State), s.goesOn false (brForm bExit x s) = true →
    let X := s.condSet x &&& s.passLanes
    let settle := fun (t : State) => ((t.syncStack s.gid s.grp.stack).endGroup s.gid).completeBars
    (X = 0#32 → exec (.exit x) s = .next s.advance)
    ∧ (X ≠ 0#32 → X ≠ s.slot.mask → exec (.exit x) s = .next (settle ((s.setGrp (s.grp.exitLanes X)).advanceFrom s.passPlane)))
    ∧ (X ≠ 0#32 → X = s.slot.mask →
        exec (.exit x) s = .next (settle (s.setGrp ((s.grp.setSlot s.sel { s.slot with inTrap := false }).exitLanes X))))
    ∧ ∀ (g : Group), (g.exitLanes X).alive = g.alive &&& ~~~ X ∧ (g.exitLanes X).a.mask &&& X = 0#32
        ∧ (g.exitLanes X).b.mask &&& X = 0#32 ∧ ∀ e ∈ (g.exitLanes X).stack, e.mask &&& X = 0#32

namespace Sys2Proof.Machine

/-- The translation of a lane's access that meets no fault. -/
def xlOf (acc : Lane → Except Cause Xlat) (L : Lane) : Xlat := match acc L with | .ok r => r | .error _ => ⟨0, 0, false⟩

/-- The state in which an access of a pass performs, and whether its requests are paid: its walks are over, its leaves are in the
TLBs, and no lane is left for later. -/
def State.accessing (s : State) (vas : List Nat) (rs : List Request) : Bool × State :=
  let p := (s.endWalks vas).pay rs
  (p.1, p.2.setSlot { p.2.slot with left := 0#32 })

/-- An access of the lanes `E` that waits for nothing: no walk is awaited, no value of its pass has been received, and no earlier
work of the group, no sink tag and no near command holds its bytes (R105, R137, R174, R241). -/
def State.unheld (s : State) (write : Bool) (vas : List Nat) (E : Lanes) (pa : Lane → Nat) (n : Nat) : Prop :=
  s.awaitWalks vas = none ∧ s.slot.got = []
  ∧ s.jobHazard write (vas.map fun a => (a, n)) = false
  ∧ s.nearHazard ((lanesOf E).map fun L => (pa L, n)) = false
  ∧ s.tagHazard ((lanesOf E).map fun L => (pa L, n)) = false

/-- What an instruction that reaches global memory through a pass is made of. -/
structure PassForm where
  instr : MemF → Instr
  row : MemRow
  /-- width of T -/
  tw : Nat
  kind : AccKind
  va : MemF → State → Lane → Nat
  /-- the checks of a lane's address that the whole instruction traps on (R93, R98) -/
  legal : MemF → State → Lane → Prop
  acc : MemF → State → Lane → Except Cause Xlat
  reqs : MemF → State → LaneXlats → List Request
  perform : MemF → State → Bool → Lanes → (Lane → Xlat) → State

/-- R93: a global address below 2^48 and aligned to its size. -/
def vaLegal (x : MemF) (s : State) (L : Lane) : Prop := s.va x L < 2 ^ 48 ∧ s.va x L % sizeBytes x.size = 0

/-- The forms of LD.G, ST.G, an atomic of SPACE 0, LD.C and LD.RO. -/
noncomputable def loadForm (sx : Bool) : PassForm :=
  ⟨fun x => .ldG x sx, mLoad, 1, .load, fun x s L => s.va x L, vaLegal, fun x s L => laneXlat s .load x.hint none (s.va x L),
    fun x s xs => execLdG.lineLoads x s xs, fun x => performLoad x sx⟩
noncomputable def storeForm : PassForm :=
  ⟨.stG, mStore, 1, .store, fun x s L => s.va x L, vaLegal, fun x s L => laneXlat s .store x.hint none (s.va x L),
    fun _ => lineRequests, performStores⟩
noncomputable def atomForm (i : MemF → Instr) (fn : Nat) (cas : Bool) (sz : Size) (sp : SpaceX) : PassForm :=
  ⟨i, mAtom cas sz sp, sizeRegs sz, .atomic, fun x s L => s.va x L, vaLegal,
    fun x s L => laneXlat s .atomic x.hint (some fn) (s.va x L), fun _ => atomRequests, fun x => performAtomics fn x⟩
noncomputable def constForm (sx : Bool) : PassForm :=
  ⟨fun x => .ldC x sx, mLoadC, 1, .load, fun x s L => (s.lnc.const + s.lowOff x L) % 2 ^ 64,
    fun x s L => s.lowOff x L % sizeBytes x.size = 0 ∧ s.lowOff x L + sizeBytes x.size ≤ 0x10000,
    fun x s L => constPath.xlat s .load ((s.lnc.const + s.lowOff x L) % 2 ^ 64), fun _ => constPath.reqs,
    fun x => constPath.perform x sx fun s L => s.constVa x L⟩
noncomputable def roForm (sx : Bool) : PassForm :=
  ⟨fun x => .ldRo x sx, mLoadRO, 1, .roLoad, fun x s L => s.va x L, vaLegal, fun x s L => roPath.xlat s .roLoad (s.va x L),
    fun _ => roPath.reqs, fun x => roPath.perform x sx fun s L => s.va x L⟩

/-- Whether the access is of a store or an atomic. -/
def PassForm.write (p : PassForm) : Bool := p.kind != .load && p.kind != .roLoad

/-- An access whose lanes all reach this package's memory and wait for nothing performs with them, once its requests are paid
(R285); the slot goes on, or waits where the model leaves the load in flight (log 9). -/
def PassForm.completes (p : PassForm) : Prop :=
  ∀ (x : MemF) (s : State), s.goesOn (p.row.cls == .V) (memForm p.row p.tw x s) = true →
    let E := s.memLanes x.guard x.ginv
    let acc := p.acc x s
    let xl := xlOf acc
    let vas := (lanesOf E).map (p.va x s)
    let u := s.accessing vas (p.reqs x s ((lanesOf E).map fun L => (L, xl L)))
    let t := p.perform x u.2 true E xl
    (∀ L ∈ lanesOf E, p.legal x s L) → (∀ L ∈ lanesOf E, acc L = .ok (xl L) ∧ s.ownPa (xl L).pa = true) →
    s.unheld p.write vas E (fun L => (xl L).pa) (sizeBytes x.size) → u.1 = true →
      exec (p.instr x) s = .next (if t.slot.pending = [] then t.advance else t)

/-- What a per-lane fault of some lanes leaves (R20, R124): a record with PARK 1 of the slot's instruction, its mask, cause, address
and plane cursor, in the context's fault queue or waiting to enter it; and the lanes parked in the free slot of a FUSED group, or the
whole slot stopped with no register and no byte of memory changed. -/
def laneFaulted (s t : State) (F : Lanes) (c : Cause) (va : Nat) : Prop :=
  let o := otherSlot s.sel
  ∃ r : Record, r.cause = c ∧ r.mask = F ∧ r.va = va ∧ r.offset = s.slot.offset ∧ r.pcur = s.passCur ∧ r.park = true
    ∧ r.whole = !s.canPark ∧ r.src = .instr
    ∧ (⟨r, .parked s.gid (if s.canPark then o else s.sel)⟩ : FqEntry) ∈ (t.ctxAt s.grp.ctx).fq ++ (t.ctxAt s.grp.ctx).fqWait
    ∧ (s.canPark = true → ((t.grpAt s.gid).slot o).live = true ∧ ((t.grpAt s.gid).slot o).parked = true
        ∧ ((t.grpAt s.gid).slot o).mask = F ∧ ((t.grpAt s.gid).slot o).offset = s.slot.offset
        ∧ ((t.grpAt s.gid).slot o).pcur = s.passCur ∧ (t.grpAt s.gid).fusion = .parked)
    ∧ (s.canPark = false → t.gid = s.gid ∧ t.sel = s.sel ∧ t.slot.stopped = true ∧ t.slot.offset = s.slot.offset
        ∧ t.slot.mask = s.slot.mask ∧ t.slot.pcur = s.passCur ∧ t.grp.regs = s.grp.regs ∧ sameMemory s t)

/-- An access some of whose lanes fault (R124): those whose translation, permission or poison check fails, and above a failing lane
of an SO page every lane of an SO page; the record has the lowest one's cause and address. The requests that leave the core are paid:
those of the lanes that meet poison (R284), and where the lanes can park those of the others, which wait for nothing. -/
def PassForm.faults (p : PassForm) : Prop :=
  ∀ (x : MemF) (s : State), s.goesOn (p.row.cls == .V) (memForm p.row p.tw x s) = true →
    let E := s.memLanes x.guard x.ginv
    let acc := p.acc x s
    let va := p.va x s
    let F := faultLanes s E va acc
    let G := E &&& ~~~ F
    let xl := xlOf acc
    let vas := (lanesOf E).map va
    (∀ L ∈ lanesOf E, p.legal x s L) → s.unheld p.write vas G (fun L => (xl L).pa) (sizeBytes x.size) →
    (s.canPark = true → ∀ L ∈ lanesOf G, s.ownPa (xl L).pa = true) →
    ((s.endWalks vas).pay (p.reqs x s (sentLanes s p.kind va acc
      (lanesOf ((if s.canPark then G else 0#32) ||| poisonLanes F acc))))).1 = true →
    ∀ L c, laneIn F L = true → (∀ K, K < L → laneIn F K = false) → acc L = .error c →
      ∃ t, exec (p.instr x) s = .next t ∧ laneFaulted s t F c (va L)

/-- The atomics of the table with their function, whether they take a compare value, and their width (R118). -/
noncomputable def atomTable : List ((MemF → SpaceX → Instr) × Nat × Bool × Size) :=
  [(.atomAddI32, 0x00, false, .b32), (.atomAddB64, 0x01, false, .b64), (.atomMinI32, 0x02, false, .b32),
   (.atomMaxI32, 0x03, false, .b32), (.atomMinB32, 0x04, false, .b32), (.atomMaxB32, 0x05, false, .b32),
   (.atomAndB32, 0x06, false, .b32), (.atomOrB32, 0x07, false, .b32), (.atomXorB32, 0x08, false, .b32),
   (.atomExchB32, 0x09, false, .b32), (.atomExchB64, 0x0A, false, .b64), (.atomCasB32, 0x0B, true, .b32),
   (.atomCasB64, 0x0C, true, .b64), (.atomAddF32, 0x0D, false, .b32), (.atomIncB32, 0x0E, false, .b32),
   (.atomDecB32, 0x0F, false, .b32)]

/-- The block a lane's scratchpad access reaches: its own, or the one of a rank of its gang (R96, R97). -/
def State.scratchTarget (s : State) (rank : Option (State → Lane → Nat)) : LaneTarget := fun L =>
  match rank with
  | some f => s.gangBlock (f s L)
  | none => some s.grp.block

/-- A scratchpad access of the lanes `E` that goes through: ranks, alignment and range are legal, no earlier work of the group
holds its bytes (R137), and no sector it reads is poisoned (R103). -/
def State.scratchClear (s : State) (x : MemF) (rank : Option (State → Lane → Nat)) (write reads : Bool) (E : Lanes) : Prop :=
  (∀ L ∈ lanesOf E, (∀ f, rank = some f → f s L < 2 ^ s.lnc.gangLog) ∧ s.lowOff x L % sizeBytes x.size = 0
      ∧ s.lnc.scratchOk (s.lowOff x L) (sizeBytes x.size) = true)
  ∧ s.scratchHazard write (((lanesOf E).filter fun L => s.scratchTarget rank L == some s.grp.block).map fun L =>
      (s.lowOff x L, sizeBytes x.size)) = false
  ∧ (reads = true → ∀ L ∈ lanesOf E, ∀ b, s.scratchTarget rank L = some b →
      (s.blkAt b).scratchPoison.contains (s.lowOff x L / 64) = false)

/-- A scratchpad access that goes through performs with the lanes `E`; one with a rank outside its gang, or failing that misaligned
lanes, or failing that lanes outside the scratchpad's ranges, traps for the lanes concerned (R96, R97, R37). -/
def scratchThrough (i : MemF → Instr) (r : MemRow) (tw : Nat) (rank : MemF → Option (State → Lane → Nat)) (write reads : Bool)
    (perform : MemF → State → Lanes → LaneTarget → State) : Prop :=
  ∀ (x : MemF) (s : State),
    let E := s.memLanes x.guard x.ginv
    let off := s.lowOff x
    let far := maskWhere fun L => match rank x with | some f => decide (2 ^ s.lnc.gangLog ≤ f s L) | none => false
    let odd := maskWhere fun L => decide (off L % sizeBytes x.size ≠ 0)
    let out := maskWhere fun L => !s.lnc.scratchOk (off L) (sizeBytes x.size)
    (s.goesOn (r.cls == .V) (memForm r tw x s) = true →
      s.scratchClear x (rank x) write reads E → exec (i x) s = .next (perform x s E (s.scratchTarget (rank x))).advance)
    ∧ (s.issues (r.cls == .V) (memForm r tw x s) = true →
      (E &&& far ≠ 0#32 → exec (i x) s = .next (s.takeTrap { cause := .remoteRank, mask := E &&& far }))
      ∧ (E &&& far = 0#32 → E &&& odd ≠ 0#32 → exec (i x) s = .next (s.takeTrap { cause := .misaligned, mask := E &&& odd }))
      ∧ (E &&& far = 0#32 → E &&& odd = 0#32 → E &&& out ≠ 0#32 →
          exec (i x) s = .next (s.takeTrap { cause := .scratchRange, mask := E &&& out })))

/-- The bytes at a lane's physical address hold a list. -/
def holdsBytes (m : Memory) (a : Nat) (bs : List Byte) : Prop := ∀ i, i < bs.length → some (readByte m (a + i)) = bs[i]?

/-- Atomics of some lanes one after another, each on what the ones before it left: the location takes the function's value of its
old bytes, and the lane has the old bytes (R118, R119). `rd` reads a location of a store of bytes and `wr` writes one. -/
def atomFold {σ : Type} (fn n : Nat) (rd : σ → Nat → List Byte) (wr : σ → Nat → List Byte → σ) (at_ : Lane → Nat)
    (val cmp : Lane → DWord) (m : σ) (Ls : List Lane) : σ × (Lane → List Byte) :=
  Ls.foldl (fun (q : σ × (Lane → List Byte)) L =>
    let old := rd q.1 (at_ L)
    (wr q.1 (at_ L) (leBytes n (atomNew fn (BitVec.ofNat 64 (leNat old)) (val L) (cmp L)).toNat),
     fun K => if K = L then old else q.2 K)) (m, fun _ => [])

end Sys2Proof.Machine

open Sys2Proof Sys2Proof.Machine

/-- R114, R115, R118, R285: a global load, store or atomic whose lanes all reach this package's memory performs in every executing
lane and goes on. R20, R124: one some of whose lanes fault parks them in a free slot, or stops the whole slot with nothing
performed, and posts the record. The choice of which accesses stay in flight is the model's (log 9), and so is the record's mask,
all lanes that park, with the lowest one's address (log 20). -/
def Obligations.GlobalAccessCompletes : Prop :=
  (∀ sx, (loadForm sx).completes ∧ (loadForm sx).faults) ∧ storeForm.completes ∧ storeForm.faults
  ∧ (∀ p ∈ atomTable, ∀ sp : SpaceX, sp.space = 0#2 →
      (atomForm (fun x => p.1 x sp) p.2.1 p.2.2.1 p.2.2.2 sp).completes
      ∧ (atomForm (fun x => p.1 x sp) p.2.1 p.2.2.1 p.2.2.2 sp).faults)
  ∧ ∀ (s : State) (E : Lanes) (va : Lane → Nat) (acc : Lane → Except Cause Xlat) (L : Lane), L < 32 →
      let so := fun K => onSO s (some s.grp.core) s.grp.ctx (va K)
      (laneIn (faultLanes s E va acc) L = true ↔ laneIn E L = true
        ∧ ((∃ c, acc L = .error c)
          ∨ (so L = true ∧ ∃ K, K < L ∧ laneIn E K = true ∧ (∃ c, acc K = .error c) ∧ so K = true)))

/-- R93, R124: a global access, of LD.G, ST.G, LD.RO or an atomic of SPACE 0, with an executing lane at or above 2^48, or failing
that a misaligned one, traps for the lanes concerned and performs nothing. R98: a constant load with a misaligned offset, or failing
that one beyond 64 KiB, traps. -/
def Obligations.GlobalAddressTraps : Prop :=
  (∀ (x : MemF) (sx : Bool) (s : State),
    let E := s.memLanes x.guard x.ginv
    let high := maskWhere fun L => decide (2 ^ 48 ≤ s.va x L)
    let odd := maskWhere fun L => decide (s.va x L % sizeBytes x.size ≠ 0)
    let traps := fun (i : Instr) =>
      (E &&& high ≠ 0#32 → exec i s = .next (s.takeTrap { cause := .vaRange, mask := E &&& high }))
      ∧ (E &&& high = 0#32 → E &&& odd ≠ 0#32 → exec i s = .next (s.takeTrap { cause := .misaligned, mask := E &&& odd }))
    (∀ (i : Instr) (r : MemRow), (i, r) ∈ [(Instr.ldG x sx, mLoad), (Instr.stG x, mStore), (Instr.ldRo x sx, mLoadRO)] →
      s.issues (r.cls == .V) (memForm r 1 x s) = true → traps i)
    ∧ ∀ p ∈ atomTable, ∀ sp : SpaceX, sp.space = 0#2 →
      s.issues ((mAtom p.2.2.1 p.2.2.2 sp).cls == .V) (memForm (mAtom p.2.2.1 p.2.2.2 sp) (sizeRegs p.2.2.2) x s) = true →
        traps (p.1 x sp))
  ∧ ∀ (x : MemF) (sx : Bool) (s : State), s.issues (mLoadC.cls == .V) (memForm mLoadC 1 x s) = true →
    let E := s.memLanes x.guard x.ginv
    let odd := maskWhere fun L => decide (s.lowOff x L % sizeBytes x.size ≠ 0)
    let out := maskWhere fun L => decide (0x10000 < s.lowOff x L + sizeBytes x.size)
    (E &&& odd ≠ 0#32 → exec (.ldC x sx) s = .next (s.takeTrap { cause := .misaligned, mask := E &&& odd }))
    ∧ (E &&& odd = 0#32 → E &&& out ≠ 0#32 →
        exec (.ldC x sx) s = .next (s.takeTrap { cause := .constRange, mask := E &&& out }))

/-- R114, R115, R118, R119: a plain load with nothing in flight writes, in every lane, the bytes at its address, zero- or
sign-extended, and changes no byte of memory. A store with nothing in flight writes each lane's low bytes of S at its address, the
highest lane's where lanes overlap, and no other byte of memory; registers do not change. An atomic's location takes the value of
its function of the old bytes, lane after lane in ascending order; D takes each lane's old bytes; no other byte changes. -/
def Obligations.GlobalAccessEffects : Prop :=
  (∀ (x : MemF) (sx : Bool) (s : State) (G : Lanes) (xl : Lane → Xlat), s.stores = [] → s.deferLoads = false →
    x.order = .plain → (∀ L ∈ lanesOf G, s.ownPa (xl L).pa = true ∧ isHost (xl L).pa = false) →
    let t := performLoad x sx s true G xl
    t.grp = s.grp.wrLanes x.d (fun L => loadWords x.size sx (s.loadBytes (s.l1Copy (xl L) x.hint) (xl L).pa (sizeBytes x.size)))
      (lanesOf G)
    ∧ sameMemory s t)
  ∧ (∀ (x : MemF) (s : State) (G : Lanes) (xl : Lane → Xlat), s.wf → s.stores = [] → s.deferStores = false →
    (∀ L ∈ lanesOf G, s.ownPa (xl L).pa = true ∧ isHost (xl L).pa = false) →
    let t := performStores x s true G xl
    let n := sizeBytes x.size
    let at_ := fun L => paOff (xl L).pa
    t.groups = s.groups
    ∧ (∀ a, (∀ L ∈ lanesOf G, a < at_ L ∨ at_ L + n ≤ a) → readByte t.mem a = readByte s.mem a)
    ∧ ∀ L ∈ lanesOf G, (∀ K ∈ lanesOf G, L < K → at_ K + n ≤ at_ L ∨ at_ L + n ≤ at_ K) →
        holdsBytes t.mem (at_ L) (s.storeData x.s x.size L))
  ∧ (∀ (fn : Nat) (x : MemF) (s : State) (G : Lanes) (xl : Lane → Xlat), s.wf → s.stores = [] →
    (∀ L ∈ lanesOf G, s.ownPa (xl L).pa = true ∧ isHost (xl L).pa = false) →
    let t := performAtomics fn x s true G xl
    let n := sizeBytes x.size
    let at_ := fun L => paOff (xl L).pa
    let r := atomFold fn n (fun m a => readBytes m a n) writeBytes at_ (s.atomOpd x.s x.size) (s.atomOpd x.t x.size) s.mem (lanesOf G)
    t.mem = r.1 ∧ t.grp = s.grp.wrLanes x.d (fun L => loadWords x.size false (r.2 L)) (lanesOf G)
    ∧ ∀ a, (∀ L ∈ lanesOf G, a < at_ L ∨ at_ L + n ≤ a) → readByte t.mem a = readByte s.mem a)
  ∧ (∀ (o x t : Word) (o' x' t' : DWord),
    atomNew32 0x00 o x t = BitVec.ofNat 32 (o.toNat + x.toNat)
    ∧ atomNew 0x01 o' x' t' = BitVec.ofNat 64 (o'.toNat + x'.toNat)
    ∧ atomNew32 0x02 o x t = (if o.toInt ≤ x.toInt then o else x) ∧ atomNew32 0x03 o x t = (if o.toInt ≤ x.toInt then x else o)
    ∧ atomNew32 0x04 o x t = (if o.toNat ≤ x.toNat then o else x) ∧ atomNew32 0x05 o x t = (if o.toNat ≤ x.toNat then x else o)
    ∧ atomNew32 0x06 o x t = o &&& x ∧ atomNew32 0x07 o x t = o ||| x ∧ atomNew32 0x08 o x t = o ^^^ x
    ∧ atomNew32 0x09 o x t = x ∧ atomNew 0x0A o' x' t' = x'
    ∧ atomNew32 0x0B o x t = (if o = t then x else o) ∧ atomNew 0x0C o' x' t' = (if o' = t' then x' else o')
    ∧ atomNew32 0x0D o x t = (w32 (roundVal fp32 0 false 0 (exAdd 0 (unp32 o) (unp32 x)))).1
    ∧ atomNew32 0x0E o x t = (if o.toNat ≥ x.toNat then 0#32 else BitVec.ofNat 32 (o.toNat + 1))
    ∧ atomNew32 0x0F o x t = (if o = 0#32 ∨ o.toNat > x.toNat then x else BitVec.ofNat 32 (o.toNat - 1))
    ∧ ∀ fn ∉ [0x01, 0x0A, 0x0C], atomNew fn o' x' t'
        = (atomNew32 fn (o'.setWidth 32) (x'.setWidth 32) (t'.setWidth 32)).setWidth 64)

/-- R96, R116, R118: a scratchpad load, store or atomic, local or of a rank of the gang, performs in every executing lane, and
traps REMOTE_RANK, MISALIGNED or SCRATCH_RANGE where a lane's rank, alignment or offset is not legal. A load of resident blocks
writes each lane's bytes, extended, to D and changes no scratchpad. A store to the group's own block changes only the bytes it
stores to. An atomic of the group's own block stores, lane after lane, its function's value of the old bytes, and D takes the old
bytes. None of them changes memory. -/
def Obligations.ScratchAccessCompletes : Prop :=
  ((∀ sx, scratchThrough (fun x => .ldS x sx) mLoadS 1 (fun _ => none) false true fun x => scratchLoad x sx false)
  ∧ scratchThrough .stS mStoreS 1 (fun _ => none) true false scratchStore
  ∧ (∀ sx, scratchThrough (fun x => .ldRs x sx) mLoadRS 1 (fun x => some (rankT x)) false true fun x => scratchLoad x sx true)
  ∧ scratchThrough .stRs mStoreRS 1 (fun x => some (rankT x)) true false scratchStore
  ∧ ∀ p ∈ atomTable, ∀ sp : SpaceX, sp.space = 1#2 ∨ sp.space = 2#2 →
      scratchThrough (fun x => p.1 x sp) (mAtom p.2.2.1 p.2.2.2 sp) (sizeRegs p.2.2.2)
        (fun _ => if sp.space = 2#2 then some fun _ _ => sp.rank.toNat else none) true true
        fun x => scratchAtomic p.2.1 x (sp.space == 2#2))
  ∧ (∀ (x : MemF) (sx remote : Bool) (s : State) (G : Lanes) (tgt : Lane → Nat),
    let t := scratchLoad x sx remote s G fun L => some (tgt L)
    sameMemory s t ∧ t.blocks = s.blocks
    ∧ t.grp = s.grp.wrLanes x.d (fun L => loadWords x.size sx ((List.range (sizeBytes x.size)).map fun i =>
        sget (s.blkAt (tgt L)).scratch (s.lowOff x L + i))) (lanesOf G))
  ∧ (∀ (x : MemF) (s : State) (G : Lanes), s.wf → isRel x.order = false →
    let t := scratchStore x s G fun _ => some s.grp.block
    let n := sizeBytes x.size
    sameMemory s t ∧ t.groups = s.groups ∧ (∀ b, b ≠ s.grp.block → t.blkAt b = s.blkAt b)
    ∧ (∀ a, (∀ L ∈ lanesOf G, a < s.lowOff x L ∨ s.lowOff x L + n ≤ a) → sget t.blk.scratch a = sget s.blk.scratch a)
    ∧ ∀ L ∈ lanesOf G, (∀ K ∈ lanesOf G, L < K → s.lowOff x K + n ≤ s.lowOff x L ∨ s.lowOff x L + n ≤ s.lowOff x K) →
        ∀ i, i < n → some (sget t.blk.scratch (s.lowOff x L + i)) = (s.storeData x.s x.size L)[i]?)
  ∧ (∀ (fn : Nat) (x : MemF) (remote : Bool) (s : State) (G : Lanes), isRel x.order = false →
    let t := scratchAtomic fn x remote s G fun _ => some s.grp.block
    let n := sizeBytes x.size
    let r := atomFold fn n (fun (m : Sparse 8) a => (List.range n).map fun i => sget m (a + i)) putBytes (s.lowOff x)
      (s.atomOpd x.s x.size) (s.atomOpd x.t x.size) s.blk.scratch (lanesOf G)
    sameMemory s t ∧ t.blk.scratch = r.1 ∧ (∀ b, b ≠ s.grp.block → t.blkAt b = s.blkAt b)
    ∧ t.grp = s.grp.wrLanes x.d (fun L => loadWords x.size false (r.2 L)) (lanesOf G))
  ∧ ∀ (m : Sparse 8) (off a : Nat) (bs : List Byte), swf m = true →
    some (sget (putBytes m off bs) a) = if off ≤ a ∧ a < off + bs.length then bs[a - off]? else some (sget m a)

namespace Sys2Proof.Machine

/-- Every retired store reaches memory, the oldest first (R123, R130). -/
def State.storesPerformed (s : State) : Memory :=
  s.stores.foldl (fun (m : Memory) p => p.2.writes.foldl (fun (m : Memory) w => writeBytes m (paOff w.1) w.2) m) s.mem

/-- What a release leaves of the stores that had retired: all have reached memory, in their order, where their home slices hold no line
of them (R174, R241); one that stays is held, or shares a byte with an earlier one of its core that is (R130). -/
def State.hasReleased (s : State) : Prop :=
  ((∀ e ∈ s.stores, s.lineHeld e.2.spans = false) → s.drainAll.stores = [] ∧ s.drainAll.mem = s.storesPerformed)
  ∧ ∀ e ∈ s.drainAll.stores, e ∈ s.stores ∧ (s.lineHeld e.2.spans = true
      ∨ ∃ q ∈ s.drainAll.stores, q.1 < e.1 ∧ q.2.core = e.2.core ∧ meets q.2.spans e.2.spans = true)

/-- Only a context's own entry differs. -/
def onlyCtx (s t : State) : Prop :=
  { t with ctxs := s.ctxs } = s ∧ ∀ c, c ≠ s.grp.ctx → t.ctxAt c = s.ctxAt c

end Sys2Proof.Machine

open Sys2Proof Sys2Proof.Machine

/-- R98, R117, R20, R124, R122: a load through the constant or the read-only path whose lanes all reach this package's memory
performs and goes on, one some of whose lanes fault parks them or stops the slot. With no store in flight it writes each lane's
bytes, extended, the path's copy where it holds one, and changes no byte of memory. A prefetch completes whatever its addresses; it
changes no register and no byte of memory. -/
def Obligations.PathLoadCompletes : Prop :=
  (∀ sx, (constForm sx).completes ∧ (constForm sx).faults ∧ (roForm sx).completes ∧ (roForm sx).faults)
  ∧ (∀ (p : Path) (x : MemF) (sx : Bool) (va : State → Lane → Nat) (s : State) (G : Lanes) (xl : Lane → Xlat), s.stores = [] →
    (∀ L ∈ lanesOf G, s.ownPa (xl L).pa = true) →
    let t := p.perform x sx va s true G xl
    t.grp = s.grp.wrLanes x.d (fun L => loadWords x.size sx
      (s.loadBytes (s.pathCopy (p.get s.core) (xl L).pa) (xl L).pa (sizeBytes x.size))) (lanesOf G)
    ∧ sameMemory s t ∧ t.slot.pending = s.slot.pending)
  ∧ (∀ (s : State) (copy : Copy) (pa n : Nat), s.loadBytes none pa n = readBytes s.mem (paOff pa) n
      ∧ s.loadBytes (some copy) pa n = (copy.bytes.drop (pa % 64)).take n)
  ∧ ∀ (x : MemF) (level : BitVec 2) (s : State), s.goesOn true (memForm mPf 1 x s) = true →
    ∃ t, exec (.pfG x level) s = .next t.advance ∧ t.groups = s.groups ∧ sameMemory s t

/-- R102, R130, R139: a release performs every store that has retired, in their order, before what follows, but a store of a line
that its home slice holds (R174, R241), which no store of a core is in a state that a run reaches; an acquire wider than the
core drops the core's L1; FENCE.RO drops its constant and read-only copies. That a release performs the stores of the whole package,
and an acquire drops the whole L1, is the model's choice (log 41). -/
def Obligations.FenceResults : Prop :=
  ∀ (x : MemF) (s : State),
    let acq := fun (t : State) => if x.scope = .core then t else t.setCoreAt t.grp.core { t.core with l1 := [] }
    (s.goesOn false (memForm (mFence .acq) 1 x s) = true → exec (.fenceAcq x) s = .next (acq s).advance)
    ∧ (s.goesOn false (memForm (mFence .rel) 1 x s) = true → exec (.fenceRel x) s = .next s.drainAll.advance)
    ∧ (s.goesOn false (memForm (mFence .ar) 1 x s) = true → exec (.fenceAr x) s = .next (acq s.drainAll).advance)
    ∧ s.hasReleased ∧ s.drainAll.groups = s.groups
    ∧ (s.goesOn false (memForm mFenceRo 1 x s) = true →
        exec (.fenceRo x) s
          = .next (s.drainAll.setCoreAt s.grp.core { s.drainAll.coreAt s.grp.core with cc := [], ro := [] }).advance)

/-- R111, R112: RES.SET binds a handle to a legal range, unbinding it first, and traps RES_RANGE on another; RES.DEMOTE ranks it
down; RES.EVICT sends its lines out of L2, but those that sink tags hold, and the handle unbinds once none of them is left to
leave, not before: no line is marked by it then. A line that has left is waited for no more; what an EVICT of an earlier binding
waits for leaves all the same. -/
def Obligations.ResidencyResults : Prop :=
  (∀ (x : MemF) (h : BitVec 6) (prio : BitVec 2) (s : State),
    let base := (s.grp.rd64 x.a 0 + BitVec.ofInt 64 x.offset.toInt).toNat
    let size := (s.grp.rdS x.s 0).toNat
    let legal := base % 128 = 0 ∧ size % 128 = 0 ∧ size ≠ 0 ∧ base + size ≤ 2 ^ 48
    (s.goesOn false (memForm mResSet 1 x s) = true →
      (legal → ∃ t : State, exec (.resSet x h prio) s = .next t.advance
        ∧ { t with ctxs := s.ctxs, l2 := s.l2, evictions := s.evictions } = s ∧ (∀ c, c ≠ s.grp.ctx → t.ctxAt c = s.ctxAt c)
        ∧ t.evictions = s.evictions ++ ((tget? s.ctx.handles h.toNat).bind Handle.evicting).getD []
        ∧ tget? t.ctx.handles h.toNat = some ⟨base, size, prio.toNat, false, none⟩
        ∧ (∀ k, k ≠ h.toNat → tget? t.ctx.handles k = tget? s.ctx.handles k)
        ∧ ∀ p ∈ t.l2, (s.grp.ctx, h.toNat) ∉ p.2.marks)
      ∧ (¬ legal → exec (.resSet x h prio) s = .next (s.takeTrap { cause := .resRange, mask := s.slot.mask })))
    ∧ (s.goesOn false (memForm mResH 1 x s) = true →
      exec (.resDemote x h) s = .next (s.setCtxAt s.grp.ctx
        { s.ctx with handles := tmod s.ctx.handles h.toNat fun r => { r with demoted := true } }).advance
      ∧ (tget? s.ctx.handles h.toNat = none → exec (.resEvict x h) s = .next s.advance)
      ∧ ∀ r, tget? s.ctx.handles h.toNat = some r →
        ∃ t ls, exec (.resEvict x h) s = .next t.advance ∧ t.groups = s.groups ∧ sameMemory s t
          ∧ .resEvictDone s.grp.ctx h.toNat ∈ t.agenda
          ∧ tget? t.ctx.handles h.toNat = some { r with evicting := some ls }
          ∧ (∀ k, k ∈ ls ↔ k ∈ s.l2Lines s.grp.ctx r.base r.size ∧ s.tagHeld (s.ownLine k) = true)
          ∧ ∀ p ∈ t.l2, p ∈ s.l2 ∧ (p.1 ∈ s.l2Lines s.grp.ctx r.base r.size → s.tagHeld (s.ownLine p.1) = true)))
  ∧ (∀ (s : State) (k : Nat), k ∈ s.evictions → s.evictLine k = s.l2Drop k)
  ∧ (∀ (s : State) (c h : Nat) (r : Handle) (ls : List Nat), tget? (s.ctxAt c).handles h = some r → r.evicting = some ls →
    (ls ≠ [] → exec (.resEvictDone c h) s = .next s)
    ∧ (ls = [] → ∃ t : State, exec (.resEvictDone c h) s = .next t
        ∧ { t with ctxs := s.ctxs, l2 := s.l2 } = s ∧ (∀ d, d ≠ c → t.ctxAt d = s.ctxAt d)
        ∧ (t.ctxAt c).handles = tdel (s.ctxAt c).handles h ∧ ∀ p ∈ t.l2, (c, h) ∉ p.2.marks)
    ∧ ∀ k ∈ ls, tget? ((s.evictDone k).ctxAt c).handles h = some { r with evicting := some (ls.filter fun j => j != k) }
        ∧ .resEvictDone c h ∈ (s.evictDone k).agenda)

/-- R51 to R54, R76: CSRR reads a control register, per lane where it is held per lane; CSRW clears LANE_FLAGS bits where its
source has ones, writes TRAP_EN and FP_MODE, and traps CSR_ACCESS on a read-only register. -/
def Obligations.ControlRegisterResults : Prop :=
  ∀ (x : SysF) (c : Csr) (s : State), csrOf x.csr = some c →
    let E := s.passLanes &&& s.guardMask x.guard x.ginv
    let v := s.grp.rdS x.b 0
    (s.goesOn false (sysForm ⟨csrDst c, csrRegs c⟩ sysNone (csrPerLane c) x s) = true →
      exec (.csrr x) s = .next
        (if csrPerLane c then s.setLanes x.d E fun L => [(s.csr c L).setWidth 32]
          else s.setGrp (s.grp.wrList x.d 0 0 ((words64 (s.csr c 0)).take (csrRegs c)))).advance)
    ∧ (s.goesOn false (sysForm sysNone ⟨csrSrc c, csrRegs c⟩ (csrPerLane c) x s) = true →
      (c = .laneFlags → s.regsWf → ∃ g, exec (.csrw x) s = .next (s.setGrp g).advance ∧ { g with laneFlags := s.grp.laneFlags } = s.grp
        ∧ ∀ L, L < 32 → sget g.laneFlags L
            = if laneIn E L then sget s.grp.laneFlags L &&& ~~~ s.laneVal x.b L else sget s.grp.laneFlags L)
      ∧ (c = .trapEn → exec (.csrw x) s = .next (s.setGrp { s.grp with trapEn := v.extractLsb' 0 8 }).advance)
      ∧ (c = .fpMode → exec (.csrw x) s = .next (s.setGrp { s.grp with fpMode := v.extractLsb' 0 2 }).advance)
      ∧ (c ∉ [Csr.laneFlags, .trapEn, .fpMode] → exec (.csrw x) s
          = .next (s.takeTrap { cause := .csrAccess, mask := s.slot.mask })))

/-- R78: TRAP takes the trap USER_TRAP with its number and the offset after it; NOP only goes on; BKPT goes on where breakpoints
are off, and otherwise halts its slot before it and tells the debugger. -/
def Obligations.TrapBkptNopResults : Prop :=
  ∀ (x : SysF) (s : State),
    (s.issues false (sysForm sysNone sysNone false x s) = true →
      exec (.trap x) s = .next (s.takeTrap
        { cause := .userTrap, mask := s.slot.mask, info := x.imm16.setWidth 32, offset := some (nextOffset s.slot.offset) }))
    ∧ (s.goesOn false (sysForm sysNone sysNone false x s) = true → s.ctx.bkpt = false → exec (.bkpt x) s = .next s.advance)
    ∧ (s.issues false (sysForm sysNone sysNone false x s) = true → s.ctx.bkpt = true →
        ∃ t r, exec (.bkpt x) s = .next t ∧ t.porch.debugEvents = s.porch.debugEvents ++ [r]
          ∧ r.cause = .breakpoint ∧ r.info = x.imm16.setWidth 32 ∧ r.offset = s.slot.offset
          ∧ t.grp = s.grp.setSlot s.sel { s.slot with atBkpt := true })
    ∧ (s.goesOn true { cls := .S, lanes := s.passLanes, opds := [], modOk := true } = true →
      exec .nop s = .next s.advance)

/-- R268: a trap in a kernel with a trap routine, outside that routine and with the other slot not in its own, enters the routine:
s40 to s47 take the record's first 256 bits, in_trap is set, the offset is TRAPOFF and the plane cursor 0; every other register
stands. -/
def Obligations.TrapEntry : Prop :=
  ∀ (s : State) (t : Trap), s.regsWf → s.lnc.trv = true → s.slot.inTrap = false →
    ((s.grp.slot (otherSlot s.sel)).live && (s.grp.slot (otherSlot s.sel)).inTrap) = false →
    let u := s.takeTrap t
    let r := State.mkRecord (s.setSlot { s.slot with pcur := s.passCur }) (s.grp.setSlot s.sel { s.slot with pcur := s.passCur })
      s.sel t false false t.level
    u.slot.inTrap = true ∧ u.slot.offset = s.lnc.trapOff ∧ u.slot.pcur = 0#2 ∧ u.slot.mask = s.slot.mask
    ∧ u.slot.pjoin = s.slot.pjoin
    ∧ (∀ n, sget u.grp.s n = if 40 ≤ n ∧ n ≤ 47 then r.word (n - 40) else sget s.grp.s n)
    ∧ { u.grp.regs with s := s.grp.s } = s.grp.regs
    ∧ r.cause = t.cause ∧ r.mask = t.mask ∧ r.offset = t.offset.getD s.slot.offset ∧ r.seq = nextSeq s.ctx.seq
    ∧ sameMemory s u ∧ (u.ctxAt s.grp.ctx).seq = nextSeq s.ctx.seq

/-- R268, R269, R45: a trap in a kernel without a trap routine kills the context with its cause; one raised inside the routine
kills it TRAP_NESTED, the inner cause in INFO. A killed context's launches that were not complete carry status 4 and the cause, its
queues that were active are in error with the cause, a record of the kill with PARK = 0 is posted or waits for room, and its groups
are gone, the generation tag of each one's allocation advanced to the next that no return outstanding carries. -/
def Obligations.TrapKills : Prop :=
  ∀ (s : State) (t : Trap), s.ctx.killed = false → s.lnc.trv = false ∨ s.slot.inTrap = true →
    let c := s.grp.ctx
    let u := s.takeTrap t
    let why := if s.lnc.trv = false then t.cause else .trapNested
    (u.ctxAt c).killed = true ∧ sameMemory s u
    ∧ (∀ p ∈ u.launches, p.2.ctx = c → p.2.state = .completed ∨ (p.2.status = 4 ∧ p.2.cause = causeCode why))
    ∧ (∀ p ∈ u.queues, p.2.ctx = c → p.2.state ≠ .active)
    ∧ (∀ k q, tget? s.queues k = some q → q.ctx = c → q.state = .active →
        ∃ q', tget? u.queues k = some q' ∧ q'.ctx = c ∧ q'.state = .error ∧ q'.cause = causeCode why)
    ∧ (∃ r, (⟨r, .none⟩ : FqEntry) ∈ (u.ctxAt c).fq ++ (u.ctxAt c).fqWait ∧ r.cause = why ∧ r.park = false ∧ r.mask = t.mask
        ∧ (s.lnc.trv = true → r.info = BitVec.ofNat 32 (causeCode t.cause)))
    ∧ ∀ b blk, s.blocks.filter (fun p => p.2.ctx == c) = [(b, blk)] → tget? s.blocks b = some blk →
        (blk.groups.map fun g => ((s.grpAt g).core, (s.grpAt g).tagKey)).Nodup →
        ∀ g ∈ blk.groups, tget? u.groups g = none
          ∧ sget (u.coreAt (s.grpAt g).core).tags (s.grpAt g).tagKey
            = (s.nextTag (s.grpAt g).core (s.grpAt g).tagKey).getD
                (sget (s.coreAt (s.grpAt g).core).tags (s.grpAt g).tagKey + 1#6)

/-- R195, R196: FBP replaces the slot's checkpoint with the registers its mask names, its recipe, the lanes it runs for, the s, m
and x registers, the plane numbers, the pending join and the number of live entries the slot pushed, and the slot has crossed
nothing since; a recipe outside the plane traps FETCH_RANGE. -/
def Obligations.FlashbackPointResults : Prop :=
  ∀ (x : ImmF) (m : BitVec 8) (s : State),
    let f := { immForm iFbp x s with regOk := (fbpRegs x.a m).all fun n => n < min 192 s.grp.alloc }
    let inPlane := x.imm.getLsbD 31 = true ∨ s.lnc.lineOk (lineOf (x.imm.extractLsb' 0 30)) = true
    let ck := s.checkpoint x.a m x.imm
    s.goesOn false f = true →
      (inPlane → exec (.fbp x m) s = .next (s.setSlot { s.slot with ck := ck, crossed := false }).advance)
      ∧ (¬ inPlane → exec (.fbp x m) s = .next (s.takeTrap { cause := .fetchRange, mask := s.slot.mask }))
      ∧ ck.lanes = s.slot.mask ∧ ck.fbp = s.slot.offset ∧ ck.pjoin = s.slot.pjoin ∧ ck.mask = m
      ∧ ck.recipe = (if x.imm.getLsbD 31 then none else some (x.imm.extractLsb' 0 30))
      ∧ (∀ n, x.a = .v n → ck.base = n.val ∧ ∀ k L, k < 8 → L < 32 → m.getLsbD k = true →
          sget ck.regs ((n.val + k) * 32 + L) = sget s.grp.v ((n.val + k) * 32 + L))
      ∧ (∀ q, (∀ n k, x.a = .v n → k < 8 → m.getLsbD k = true → q / 32 ≠ n.val + k) → sget ck.regs q = 0#32)
      ∧ ck.s = s.grp.s ∧ ck.m = s.grp.m ∧ ck.xbase = s.grp.xbase ∧ ck.xlimit = s.grp.xlimit ∧ ck.xindex = s.grp.xindex
      ∧ ck.planes = s.grp.planes
      ∧ ck.count = (s.grp.stack.filter fun e => !e.dead && e.slot == s.sel).length ∧ ck.preSplit = false

/-- R290, R291, R292: LEASE with a level from 1 to 3 and a length writes 2 while shedding, 1 where the partition's boost budget is
smaller than its cost, and otherwise 0: the context's earlier lease ends, its unused part going back to the budget, the cost is
charged, and every quad that holds a block of the context has the supply its new leases give it, 0.75 V and 0.05 V for each level,
at most 0.95 V. Other operands trap LEASE_RANGE. -/
def Obligations.LeaseResults : Prop :=
  (∀ (x : SysF) (s : State), s.goesOn false (sysForm ⟨.dstS, 1⟩ ⟨.sOnly, 1⟩ false x s) = true →
    let level := (s.grp.rdS x.b 0).toNat
    let len := x.imm16.toNat
    let c := s.grp.ctx
    let part := s.ctx.part
    let cost := len * (s.quadsOf c).length * level
    (level = 0 ∨ 3 < level ∨ len = 0 → exec (.lease x) s = .next (s.takeTrap { cause := .leaseRange, mask := s.slot.mask }))
    ∧ (1 ≤ level → level ≤ 3 → 1 ≤ len →
      (1 ≤ s.porch.shed → exec (.lease x) s = .next (s.setS x.d 2#32).advance)
      ∧ (s.porch.shed = 0 → s.boost part < cost → exec (.lease x) s = .next (s.setS x.d 1#32).advance)
      ∧ (s.porch.shed = 0 → cost ≤ s.boost part →
          ∃ t : State, exec (.lease x) s = .next (t.setS x.d 0#32).advance ∧ t.groups = s.groups ∧ t.porch.shed = 0
            ∧ t.next = s.next + 1
            ∧ tget? t.leases s.next = some ⟨some c, part, s.quadsOf c, level, s.timebase.toNat + len * 1000⟩
            ∧ (∀ k e, (s.endLease c).cap? 0x13 part = some (k, e) →
                t.porch.caps = tput (s.endLease c).porch.caps k { e with used := e.used + cost })
            ∧ ∀ q ∈ s.quadsOf c, (t.quadAt q).mv = t.setpoint q)))
  ∧ (∀ (s : State) (c : Nat),
    ((∀ p ∈ s.leases, p.2.ctx ≠ some c) → s.endLease c = s)
    ∧ ∀ k l, s.leases.find? (fun p => p.2.ctx == some c) = some (k, l) →
        (s.endLease c).leases = tdel s.leases k
        ∧ ∀ j e, s.cap? 0x13 l.part = some (j, e) → (s.endLease c).porch.caps = tput s.porch.caps j
            { e with used := e.used - (l.expiry - s.timebase.toNat) * l.quads.length * l.level / 1000 })
  ∧ ∀ (s : State) (q : Nat), s.porch.shed = 0 → s.setpoint q
      = if ∃ p ∈ s.blocks, quadOfCore p.2.core = q ∧ (s.lncAt p.2.launch).hot = true then 950
        else min 950 (750 + (s.leases.map fun p => if p.2.quads.contains q then 50 * p.2.level else 0).sum)

/-- R11, R70 to R75: BAR.ARRIVE marks the pass's lanes, releases, writes the token, and completes the generation where all have
arrived; a lane marked already traps BAR_REARRIVE; a token of a completed generation lets BAR.WAIT go on with the acquire, and one
of another barrier traps BAR_TOKEN; BAR.MEET arrives and waits on its own token; each traps BAR_SCOPE where the scope has no owner.
A slot that waits proceeds, with the acquire, once the generation has completed, and stays as it is until then. A generation
advances, and its marks clear, exactly when some lane is marked, no participant is saved or still to come (podWhole), and every
group that takes part has all its remaining lanes marked. That a participant that is saved has not arrived, and that a pod set
counts this package's launches and groups alone, is the model's choice (log 44); the mask of BAR_REARRIVE, the lanes marked
already, is its reading (log 20), and that the release performs the stores of the whole package its choice (log 41). -/
def Obligations.BarrierResults : Prop :=
  ((∀ (x : EngF) (bid : BitVec 4) (s : State),
    let tok := fun (o : BarOwner) => (s.barAt o bid.toNat).gen ++ bid ++ 0#1 ++ scopeCode x.scope
    let a := s.grp.rdS x.a 0
    let forms := [(Instr.barArrive x bid, eArrive), (Instr.barMeet x bid, eMeet)]
    (∀ o, s.barOwner x.scope = some o →
      (s.goesOn false (engForm eArrive 1 x s) = true → s.marked o bid.toNat = 0#32 →
        exec (.barArrive x bid) s = .next ((s.arrive o bid.toNat).setS x.d (tok o)).advance)
      ∧ (∀ i r, (i, r) ∈ forms → s.issues false (engForm r 1 x s) = true → s.marked o bid.toNat ≠ 0#32 →
          exec i s = .next (s.takeTrap { cause := .barRearrive, mask := s.marked o bid.toNat }))
      ∧ (s.goesOn false (engForm eWait 1 x s) = true →
        (a.extractLsb' 0 8 = bid ++ 0#1 ++ scopeCode x.scope →
          (a.extractLsb' 8 24 ≠ (s.barAt o bid.toNat).gen → exec (.barWait x bid) s = .next (s.acquire x.scope).advance)
          ∧ (a.extractLsb' 8 24 = (s.barAt o bid.toNat).gen →
              exec (.barWait x bid) s = .next (s.setSlot { s.slot with meet := some a, waitUni := s.uni })))
        ∧ (a.extractLsb' 0 8 ≠ bid ++ 0#1 ++ scopeCode x.scope →
          exec (.barWait x bid) s = .next (s.takeTrap { cause := .barToken, mask := s.slot.mask })))
      ∧ (s.goesOn false (engForm eMeet 1 x s) = true → s.marked o bid.toNat = 0#32 →
          let t := s.arrive o bid.toNat
          exec (.barMeet x bid) s = .next
            (if (t.barAt o bid.toNat).gen = (s.barAt o bid.toNat).gen
              then t.setSlot { t.slot with meet := some (tok o), waitUni := s.uni } else (t.acquire x.scope).advance)))
    ∧ (s.barOwner x.scope = none → ∀ i r, (i, r) ∈ forms ++ [(Instr.barWait x bid, eWait)] →
        s.issues false (engForm r 1 x s) = true →
        exec i s = .next (s.takeTrap { cause := .barScope, mask := s.slot.mask })))
  ∧ (∀ (s : State) (k : Nat) (sel : SlotId) (tok : Word) (sc : Scope) (o : BarOwner),
    let t : State := { s with gid := k, sel := sel, uni := ((s.grpAt k).slot sel).waitUni }
    t.slot.meet = some tok → scopeOf? (tok.extractLsb' 0 3) = some sc → t.barOwner sc = some o →
      exec (.barWaitProceed k sel) s = .next
        (if (t.barAt o (tok.extractLsb' 4 4).toNat).gen = tok.extractLsb' 8 24 then s
          else ((t.acquire sc).setSlot { t.slot with meet := none }).advance)))
  ∧ (∀ (s : State) (o : BarOwner) (bid : Nat),
    let t := s.drainAll.setSlot { s.slot with crossed := true }
    let b := s.barAt o bid
    let old := (tget? b.marks s.gid).getD 0#32
    s.arrive o bid = (t.setBar o bid { b with marks := tput b.marks s.gid (old ||| s.passLanes) }).completeBar o bid
    ∧ s.hasReleased)
  ∧ (∀ (s : State) (o : BarOwner) (bid : Nat),
    let b := s.barAt o bid
    let all := s.podWhole o = true ∧ ∀ p ∈ s.groups, s.inBar o p.2 = true →
      p.2.alive &&& ~~~ ((tget? b.marks p.1).getD 0#32) = 0#32
    (b.marks ≠ [] → all → (s.completeBar o bid).barAt o bid = { gen := b.gen + 1#24, marks := [] })
    ∧ (b.marks = [] ∨ ¬ all → s.completeBar o bid = s))

namespace Sys2Proof.Machine

/-- The copy instructions with their function and row (R210, R211). -/
noncomputable def copyTable : List ((EngF → Instr) × Nat × EngRow) :=
  [(.cpy, 0, eCpy), (.cpySt, 1, eCpy), (.cpyGath, 2, eGath), (.cpyScat, 3, eGath), (.cpyMx, 4, eMx)]

/-- The stores that had retired before are performed (R131, R132; FenceResults says which). -/
def afterDrain (s t : State) : Prop := t.stores = s.drainAll.stores ∧ t.mem = s.drainAll.mem

/-- An accepted copy job's state: earlier stores are performed, its tile is FILLING or DRAINING, the job stands in its core's
queue (R206, R213). -/
def copyQueued (j : CopyJob) (s t : State) : Prop :=
  afterDrain s t ∧ (t.tileAt j.block j.tile).state = (if j.isLoad then .filling else .draining)
    ∧ tget? (t.coreAt s.grp.core).copyQ s.next = some { j with long := decide (64 < s.jobSectors j) }

/-- The tile a job leaves when its last row is moved: READY for a load, pinned by a follow-on; for a store EMPTY with PHASE toggled, or,
while a job pins it, EMPTY once the pins have gone; ERR 0 (R206, R212). -/
def CopyJob.tileAfter (j : CopyJob) (e : Tile) : Tile :=
  if j.isLoad then { e with state := .ready, err := false, pins := if j.fn = 4 then e.pins + 1 else e.pins }
  else if e.pins = 0 then { e with state := .empty, err := false, phase := !e.phase, relPending := false }
  else { e with err := false, relPending := true }

/-- What issuing a matrix instruction gives: it waits with its command where its queue, its unit or its tiles are not ready; it traps
MX_SHAPE where its tiles do not fit any more; otherwise its command joins the queue, its block holds the unit, earlier stores are
performed, and the slot goes on or waits for the result (R215, R216, R310). -/
def mxJoins (s : State) (op : MxOp) (ret : Bool) (r : Host.Outcome State Fault Refusal) : Prop :=
  (s.mxReady op = false → r = .next (s.setSlot { s.slot with eng := some (.mx op) }))
  ∧ (∀ c, s.mxReady op = true → s.mxFits op = some c → r = .next (s.takeTrap { cause := c, mask := s.slot.mask }))
  ∧ (s.mxReady op = true → s.mxFits op = none → ∃ (t : State) (m : MxCmd), r = .next (if ret then t else t.advance)
      ∧ (t.coreAt s.grp.core).mxQ = s.core.mxQ ++ [m] ∧ (t.coreAt s.grp.core).mxOwner = some s.grp.block
      ∧ afterDrain s t
      ∧ m.op = op ∧ m.gid = s.gid ∧ m.slot = s.sel ∧ m.block = s.grp.block ∧ m.offset = s.slot.offset
      ∧ m.ret = (if ret then some s.next else none)
      ∧ t.slot.pending = s.slot.pending ++ if ret then [s.next] else [])

/-- The matrix queue's next command with its core as it stands once the command has left the queue. -/
def State.mxNext (s : State) (core : Nat) (m : MxCmd) (rest : List MxCmd) (t : State) : Prop :=
  (s.coreAt core).mxQ = m :: rest ∧ s.cmdBlocked core m = false ∧ t = s.setCoreAt core { s.coreAt core with mxQ := rest }

/-- The rows of codes that a tile holds: the weights of an MLDW, the activations of an MMA, and their scales (R217, R220). -/
def State.codeRows (s : State) (b t bits rows n : Nat) : List (List Nat) := (List.range rows).map fun r => s.tileCodes b t r bits n
def State.scaleRows (s : State) (b : Nat) (fmt : FmtBlk) (mldw : Bool) (rows n : Nat) : List (List Nat) :=
  match FmtBlk.scaleTile fmt mldw with | some st => s.codeRows b st 8 rows n | none => []

/-- The accumulator an MMA streams into: cleared with ZERO, and promoted where the key of its partials is another (R222, R223). -/
def Acc.streamStart (a : Acc) (fmt : FmtBlk) (zero : Bool) (M : Nat) : Acc :=
  if zero then { a with words := a.words.filter fun p => M * 128 ≤ p.1, part := [], pcnt := 0, pend := none }
  else if a.pend.isSome && a.pend != some (FmtBlk.afmt fmt, FmtBlk.wfmt fmt, FmtBlk.prom fmt, FmtBlk.satm fmt) then a.promote
  else a

/-- The exponent of the block scales of row i and column n at product k: none where one of them is NaN; 0 without scales (R224). -/
def WPlane.scaleExp (p : WPlane) (wf : Nat) (sx : List (List Nat)) (i n k : Nat) : Option Int :=
  if isMx wf then
    let x := (sx.getD i []).getD (k / 32) 0
    let w := (sget p.scales (k / 32 * 128 + n)).toNat
    if x = 255 ∨ w = 255 then none else some (x + w - 254)
  else some 0

/-- The cell an MMA leaves at row i and column n: its products of ascending K joined to the partial one after another, promoted where
PCNT reaches the interval (R223, R224). -/
def mmaCell (fmt : FmtBlk) (plane : WPlane) (xs sx : List (List Nat)) (pcnt i n : Nat) (c : MCell) : MCell :=
  let af := FmtBlk.afmt fmt
  let wf := FmtBlk.wfmt fmt
  let ws := (plane.rows (32 * FmtBlk.k32 fmt)).map fun r => r.getD n 0
  let P := 32 * 2 ^ FmtBlk.prom fmt
  if af = 8 then
    runElem intAccum (fun _ => intPromote (FmtBlk.satm fmt)) P pcnt 0 ((xs.getD i []).map (intElem 8)) (ws.map (intElem wf)) c
  else
    runElem fpAccum (fun k => fpPromote (FmtBlk.satm fmt) (plane.scaleExp wf sx i n k)) P pcnt 0
      ((xs.getD i []).map (unpack (mxElemFmt af))) (ws.map (unpack (mxElemFmt wf))) c

/-- The private run of a region's words before its first load, under the lanes that have not landed (R170). -/
def State.sinkPre (s : State) (x : SinkF) (slots : List RegionSlot) (first : Nat) : State :=
  let E := s.passLanes &&& ~~~ s.landedHere
  let p0 : Packet :=
    { s.mkPacket x slots first s 0#32 (fun _ => 0) (fun _ => ⟨0, 0, false⟩) false 0 with
      regs := s.grp.v.filter fun e => (sinkSet x).contains (e.1 / 32), m := s.grp.m, flags := [] }
  let words := slots.map fun r => (r.uni, r.words.foldl (fun (m : Sparse 96) w => sput m w.1 w.2) [])
  (p0.runSlots [] E (words.take first) (Run.start p0.group [])).t.passOf E true 0#2

/-- The first load of a region. -/
def firstLoad (slots : List RegionSlot) (first : Nat) : Option MemF :=
  let words := slots.map fun r => (r.uni, r.words.foldl (fun (m : Sparse 96) w => sput m w.1 w.2) ([] : Sparse 96))
  match regionWord (sget ((words[first]?).getD (true, [])).2 0) with
  | .ok i => (regionMem i).map Prod.fst
  | .error _ => none

end Sys2Proof.Machine

open Sys2Proof Sys2Proof.Machine

/-- R204 to R208, R310: TDEF defines or undefines an EMPTY tile, with its checks in their order; TREL empties a READY tile and
TREL.PUB makes an EMPTY one READY after a release, both waiting for any other state with the tile they have read; TSTATE reads an
entry's state. One that waits goes on with a defined tile alone. That a TREL of a pinned tile completes at once, the tile then
counting as not READY until the pins end, is the model's reading (log 34); that TREL.PUB's release performs the stores of the whole
package (log 41) and that TILE_RANGE comes before TDEF's RESERVED_FIELD (log 85) are its choices. -/
def Obligations.TileInstructionResults : Prop :=
  ∀ (x : EngF) (s : State),
    let t := s.tileIx x
    let b := s.grp.block
    let e := s.tileAt b t
    let trap := fun (c : Cause) => Host.Outcome.next (ρ := Refusal) (φ := Fault) (s.takeTrap { cause := c, mask := s.slot.mask })
    (∀ (pitch : BitVec 12) (owner : BitVec 3), s.goesOn false (engForm eTdef 1 x s) = true →
      let base := (s.grp.rdS x.b 0).toNat
      let size := (s.grp.rdS x.c 0).toNat
      let whole := base % 256 = 0 ∧ size % 256 = 0 ∧ pitch ≠ 0#12 ∧ (owner.toNat < 4 ∨ 6 < owner.toNat)
      (s.lnc.tiles ≤ t → exec (.tdef x pitch owner) s = trap .tileRange)
      ∧ (t < s.lnc.tiles →
        (size ≠ 0 → ¬ whole → exec (.tdef x pitch owner) s = trap .reservedField)
        ∧ (size ≠ 0 → whole → s.lnc.scratchOk base size = false → exec (.tdef x pitch owner) s = trap .tileBounds)
        ∧ (size = 0 ∨ (whole ∧ s.lnc.scratchOk base size = true) →
          (e.state ≠ .empty → exec (.tdef x pitch owner) s = trap .tileState)
          ∧ (e.state = .empty → exec (.tdef x pitch owner) s = .next (s.setTile b t
              (if size = 0 then { e with defd := false }
               else { Tile.blank with defd := true, owner := owner, pitch := 16 * pitch.toNat, size := size, base := base })).advance))))
    ∧ (s.goesOn false (engForm eTrel 1 x s) = true →
      (s.slot.eng = none →
        (s.lnc.tiles ≤ t → exec (.trel x) s = trap .tileRange ∧ exec (.trelPub x) s = trap .tileRange)
        ∧ (t < s.lnc.tiles → e.defd = false → exec (.trel x) s = trap .tileUndef ∧ exec (.trelPub x) s = trap .tileUndef))
      ∧ ∀ k, ((∃ pub, s.slot.eng = some (.tile k pub)) ∨ (s.slot.eng = none ∧ k = t ∧ t < s.lnc.tiles ∧ e.defd = true)) →
        let e := s.tileAt b k
        let wait := fun (pub : Bool) =>
          Host.Outcome.next (ρ := Refusal) (φ := Fault) (s.setSlot { s.slot with eng := some (.tile k pub) })
        (e.state = .ready → e.relPending = false → exec (.trel x) s = .next (s.setTile b k
            (if e.pins = 0 then { e with state := .empty, phase := !e.phase, relPending := false }
             else { e with relPending := true })).advance)
        ∧ (e.state ≠ .ready ∨ e.relPending = true → exec (.trel x) s = wait false)
        ∧ (e.defd = true → e.state = .empty → exec (.trelPub x) s = .next (s.drainAll.setTile b k { e with state := .ready }).advance)
        ∧ (e.defd = false ∨ e.state ≠ .empty → exec (.trelPub x) s = wait true))
    ∧ (s.goesOn false (engForm eTstate 1 x s) = true →
      (s.lnc.tiles ≤ t → exec (.tstate x) s = trap .tileRange)
      ∧ (t < s.lnc.tiles → exec (.tstate x) s = .next (s.setS x.d e.word).advance)
      ∧ e.word.toNat = tileStateCode e.state + (if e.phase then 4 else 0) + (if e.defd then 8 else 0) + (if e.err then 16 else 0)
          + e.owner.toNat * 32)

/-- R206, R209 to R214, R310: a copy instruction takes the trap of its first check that fails; otherwise its job is accepted and
the slot goes on, or the job waits in the slot until it can be; then its fit checks alone are made again. The job moves its rows, a
row's bytes as they are; when its last row is moved the job leaves the queue, its tile is READY, or EMPTY with PHASE toggled, with
ERR 0, and a follow-on is held for the matrix queue, which it joins when it can. A row that faults stops the job there, and a
record with SRC 3 tells of it; one that waits for a line or the bucket waits with the requests it has paid (R214, R285, log 87).
That a whole job runs in one event is the model's choice (log 32), and so is that acceptance performs every store of the package
(log 41). -/
def Obligations.CopyResults : Prop :=
  (∀ p ∈ copyTable, ∀ (x : EngF) (s : State), s.goesOn false (engForm p.2.2 1 x s) = true →
    let j := s.readCard x p.2.1
    (∀ c, s.cardCheck x j = some c → exec (p.1 x) s = .next (s.takeTrap { cause := c, mask := s.slot.mask }))
    ∧ (s.cardCheck x j = none →
      (s.copyReady j = true → ∃ t : State, exec (p.1 x) s = .next t.advance ∧ copyQueued j s t)
      ∧ (s.copyReady j = false → exec (p.1 x) s = .next (s.setSlot { s.slot with cpy := some j, waitUni := s.uni }))))
  ∧ (∀ (s : State) (gid : Nat) (sel : SlotId) (j : CopyJob),
    let u : State := { s with gid := gid, sel := sel, uni := ((s.grpAt gid).slot sel).waitUni }
    let v := u.setSlot { u.slot with cpy := none }
    u.slot.cpy = some j →
      (u.copyReady j = false → exec (.copyJobAccept gid sel) s = .next s)
      ∧ (u.copyReady j = true →
        (∀ c, u.cardFits j = some c → exec (.copyJobAccept gid sel) s = .next (v.takeTrap { cause := c, mask := v.slot.mask }))
        ∧ (u.cardFits j = none →
          ∃ t : State, exec (.copyJobAccept gid sel) s = .next t.advance ∧ copyQueued j v t ∧ t.slot.cpy = none)))
  ∧ (∀ (s t : State) (core k : Nat) (j j' : CopyJob) (c : Cause) (va : Nat), tget? (s.coreAt core).copyQ k = some j →
    j.stopped = false → s.jobBlocked core k j = false →
      (State.runRows core (j.rows - j.row) j s = (.wait, j', t) → exec (.copyJobComplete core k) s
          = .next (t.setCoreAt core { t.coreAt core with copyQ := tput (t.coreAt core).copyQ k j' }))
      ∧ (State.runRows core (j.rows - j.row) j s = (.whole, j', t) →
        exec (.copyJobComplete core k) s = .next (t.jobWhole core k j'))
      ∧ (State.runRows core (j.rows - j.row) j s = (.fault c va, j', t) →
        ∃ u r, exec (.copyJobComplete core k) s = .next u ∧ tget? (u.coreAt core).copyQ k = some { j' with stopped := true }
          ∧ r.cause = c ∧ r.src = .copy ∧ r.va = va ∧ r.offset = j'.offset ∧ r.park = true
          ∧ ∃ d, (⟨r, .job core k⟩ : FqEntry) ∈ (u.ctxAt d).fq ++ (u.ctxAt d).fqWait))
  ∧ (∀ (s : State) (core k : Nat) (j : CopyJob), ∃ v : State,
    s.jobWhole core k j = (v.kick core).blockEnd j.block
    ∧ v.tileAt j.block j.tile = j.tileAfter (s.tileAt j.block j.tile)
    ∧ (v.coreAt core).copyQ = tdel (s.coreAt core).copyQ k
    ∧ (v.coreAt core).followQ = (s.coreAt core).followQ ++ (if j.fn = 4 then [j.follow] else [])
    ∧ v.groups = s.groups ∧ v.mem = s.mem
    ∧ ((v.blkAt j.block).groups ≠ [] → s.jobWhole core k j = v.kick core))
  ∧ (∀ (s : State) (b dst pa n : Nat), s.ownPa pa = true → s.wf →
    let t := s.pieceIn b dst pa n
    sameMemory s t ∧ ∀ a, sget (t.blkAt b).scratch a
      = if dst ≤ a ∧ a < dst + n then readByte s.mem (paOff pa + (a - dst)) else sget (s.blkAt b).scratch a)
  ∧ (∀ (s : State) (core b src pa n : Nat), s.ownPa pa = true → s.wf →
    ∀ a, readByte (s.pieceOut core b src pa n).mem a
      = if paOff pa ≤ a ∧ a < paOff pa + n then sget (s.blkAt b).scratch (src + (a - paOff pa)) else readByte s.mem a)
  ∧ ∀ (s : State) (core : Nat) (m : MxCmd) (pre rest : List MxCmd), (s.coreAt core).followQ = pre ++ m :: rest →
    (∀ q ∈ pre, s.followReady core q = false) → s.followReady core m = true →
    ∃ (t : State) (k : Nat), exec (.followOnEnqueue core) s = .next t
      ∧ (t.coreAt core).followQ = pre ++ rest ∧ (t.coreAt core).mxQ = (s.coreAt core).mxQ ++ [{ m with num := k }]
      ∧ (t.coreAt core).mxOwner = some m.block

/-- R215, R216, R221, R222, R228, R310: a matrix instruction takes the trap of its first check that fails; it waits with its
command while the queue, the unit or its tiles are not ready, and then only its fit checks are made again; otherwise its command
joins the queue; one that reads back waits for its result. When the queue takes a command that names an accumulator with earlier
commands is the model's reading (log 29), and that joining performs every store of the package its choice (log 41). -/
def Obligations.MatrixInstructionResults : Prop :=
  ∀ (x : EngF) (s : State),
    let t := s.tileIx x
    let fmt := s.grp.quad x.c
    let trap := fun (c : Cause) => Host.Outcome.next (ρ := Refusal) (φ := Fault) (s.takeTrap { cause := c, mask := s.slot.mask })
    (s.slot.eng = none →
      (s.goesOn false (engForm eMldw 1 x s) = true →
        (∀ c, s.mxCheck true t fmt = some c → exec (.mldw x) s = trap c)
        ∧ (s.mxCheck true t fmt = none → mxJoins s (.mldw t (x.flags.getLsbD 2) fmt) false (exec (.mldw x) s)))
      ∧ (s.goesOn false (engForm eMma 1 x s) = true →
        (∀ c, s.mxCheck false t fmt = some c → exec (.mma x) s = trap c)
        ∧ (s.mxCheck false t fmt = none →
          mxJoins s (.mma x.acc t (x.flags.getLsbD 0) (x.flags.getLsbD 1) (x.flags.getLsbD 2) fmt) false (exec (.mma x) s)))
      ∧ (s.goesOn false (engForm eAccz 1 x s) = true →
        mxJoins s (.accz x.acc (x.flags.getLsbD 0) (x.flags.getLsbD 1)) false (exec (.accz x) s))
      ∧ (∀ ax : AccrdX,
        (s.goesOn false (engForm eAccrd 1 x s) = true →
          let rows := ax.nrows.toNat + 1
          let check := firstBad [s.tileCheck true t, must (ax.ofmt.toNat ≤ 5) .mxFormat,
            must (ax.row0.toNat + rows ≤ 128 && (s.tileAt s.grp.block t).fits rows (128 * outBytes ax.ofmt.toNat)) .mxShape]
          (∀ c, check = some c → exec (.accrd x ax) s = trap c)
          ∧ (check = none → mxJoins s (.accrd x.acc t ax.ofmt ax.sat ax.row0.toNat rows) false (exec (.accrd x ax) s)))
        ∧ (s.goesOn false (engForm eAccrdReg (accrdRegs ax) x s) = true →
          (5 < ax.ofmt.toNat → exec (.accrdReg x ax) s = trap .mxFormat)
          ∧ (ax.ofmt.toNat ≤ 5 → 128 ≤ ax.row0.toNat → exec (.accrdReg x ax) s = trap .mxShape)
          ∧ (ax.ofmt.toNat ≤ 5 → ax.row0.toNat < 128 → ∀ n, x.d = .v n →
            mxJoins s (.accrdReg x.acc n.val s.passLanes ax.ofmt ax.sat ax.row0.toNat) true (exec (.accrdReg x ax) s))))
      ∧ (s.goesOn false (engForm eAccst 1 x s) = true → ∀ n, x.d = .s n →
        mxJoins s (.accst x.acc n.val) true (exec (.accst x) s))
      ∧ (s.goesOn false (engForm eAccstW 1 x s) = true →
        mxJoins s (.accstW x.acc ((s.grp.rdS x.b 0).extractLsb' 0 5)) false (exec (.accstW x) s))
      ∧ (s.goesOn false (engForm eAccprom 1 x s) = true →
        mxJoins s (.accprom x.acc) false (exec (.accprom x) s)))
    ∧ ∀ op, s.slot.eng = some (.mx op) →
      (∀ (i : Instr) (r : EngRow) (w : Nat) (ret : Bool),
        (i, r, w, ret) ∈ [(Instr.mldw x, eMldw, 1, false), (.mma x, eMma, 1, false), (.accz x, eAccz, 1, false),
          (.accst x, eAccst, 1, true), (.accstW x, eAccstW, 1, false), (.accprom x, eAccprom, 1, false)] →
        s.goesOn false (engForm r w x s) = true → mxJoins s op ret (exec i s))
      ∧ ∀ ax : AccrdX,
        (s.goesOn false (engForm eAccrd 1 x s) = true → mxJoins s op false (exec (.accrd x ax) s))
        ∧ (s.goesOn false (engForm eAccrdReg (accrdRegs ax) x s) = true → mxJoins s op true (exec (.accrdReg x ax) s))

open Sys2Proof Sys2Proof.Machine

/-- R216, R221 to R228, R231: the next queued command executes, unless an earlier copy job of its block holds it back: MLDW loads
the shadow plane with the codes and scales of its tiles; MMA leaves in each cell of its rows the products of ascending K joined to
the partial and promoted at the interval, and is discarded on a plane that is not loaded or of another format; ACCRD promotes,
converts and stores the rows, or writes them to registers; ACCST gives the status word; ACCZ clears an accumulator, with FREE the
whole unit; ACCST.W writes a status word; ACCPROM promotes the pending partials. Integer products of ascending K are summed exactly
and wrap once, at the promotion. At a window's end the counts are copied and start anew. That one command is one step is the
model's choice (log 32). -/
def Obligations.MatrixCommandResults : Prop :=
  (∀ (s t : State) (core : Nat) (m : MxCmd) (rest : List MxCmd), s.mxNext core m rest t →
    let u := t.runCmd core m
    let acc := fun (a : BitVec 2) => (s.coreAt core).accAt a.toNat
    exec (.matrixCommandExecute core) s = .next ((u.kick core).blockEnd m.block)
    ∧ (∀ tl rel fmt, m.op = .mldw tl rel fmt →
        let wf := FmtBlk.wfmt fmt
        let K := 32 * FmtBlk.k32 fmt
        let rows := s.codeRows m.block tl (elemBits wf) K 128
        let scales := s.scaleRows m.block fmt true (K / 32) 128
        let p := (u.coreAt core).shadow
        ((wf ≠ 9 ∨ ∀ r ∈ rows, 2 ∉ r) → p.mark = .loaded ∧ p.fmt = wf ∧ p.k32 = FmtBlk.k32 fmt
          ∧ (∀ k n, k < K → n < 128 → sget p.w (k * 128 + n) = BitVec.ofNat 16 ((rows.getD k []).getD n 0))
          ∧ ∀ k n, FmtBlk.scaleTile fmt true ≠ none → k < K / 32 → n < 128 →
              sget p.scales (k * 128 + n) = BitVec.ofNat 8 ((scales.getD k []).getD n 0))
        ∧ (wf = 9 → (∃ r ∈ rows, 2 ∈ r) → (tget? s.groups m.gid).isSome = true → p.mark = .lost))
    ∧ (∀ a tl swap zero rel fmt, m.op = .mma a tl swap zero rel fmt →
        let plane := if swap then (s.coreAt core).shadow else (s.coreAt core).active
        let M := FmtBlk.mrows fmt + 1
        let K := 32 * FmtBlk.k32 fmt
        let bits := elemBits (FmtBlk.afmt fmt)
        let xs := s.codeRows m.block tl bits M K
        let sx := s.scaleRows m.block fmt false M (K / 32)
        let old := (acc a).streamStart fmt zero M
        (plane.mark ≠ .loaded → (t.runMma core m a.toNat tl swap zero fmt).2 = some .mxPlaneLost)
        ∧ (plane.mark = .loaded → plane.fmt ≠ FmtBlk.wfmt fmt ∨ plane.k32 ≠ FmtBlk.k32 fmt →
            (t.runMma core m a.toNat tl swap zero fmt).2 = some .mxMismatch)
        ∧ (plane.mark = .loaded → plane.fmt = FmtBlk.wfmt fmt → plane.k32 = FmtBlk.k32 fmt →
            (∀ r, r < M → s.rowPoisoned m.block tl r (K * bits / 8) = false) →
            ∀ i n c, i < M → n < 128 → old.cells[i * 128 + n]? = some c →
              ((u.coreAt core).accAt a.toNat).cells[i * 128 + n]?
                = some { mmaCell fmt plane xs sx old.pcnt i n c with st := 0#5 }))
    ∧ (∀ a tl ofmt sat row0 n, m.op = .accrd a tl ofmt sat row0 n → s.wf →
        let o := ofmt.toNat
        let e := s.tileAt m.block tl
        128 * outBytes o ≤ e.pitch →
        ((u.coreAt core).accAt a.toNat).words = (acc a).promote.words
        ∧ (u.tileAt m.block tl).state = .ready ∧ (u.tileAt m.block tl).err = false
        ∧ ∀ r, r < n → ∀ j q, ((acc a).promote.outRow o sat (row0 + r))[j]? = some q → ∀ i, i < outBytes o →
            some (sget (u.blkAt m.block).scratch (e.base + r * e.pitch + j * outBytes o + i)) = (leBytes (outBytes o) q.1)[i]?)
    ∧ (∀ a d lanes ofmt sat row0 k, m.op = .accrdReg a d lanes ofmt sat row0 → m.ret = some k → s.regsWf →
        (tget? s.groups m.gid).isSome = true → (s.grpAt m.gid).gtag = m.gtag →
        ((s.grpAt m.gid).a.pending.contains k || (s.grpAt m.gid).b.pending.contains k) = true →
        let o := ofmt.toNat
        let codes := ((acc a).promote.outRow o sat row0).map Prod.fst
        ∀ j L, d + outBytes o ≤ 192 → j < outBytes o → L < 32 →
          some (sget (u.grpAt m.gid).v ((d + j) * 32 + L))
            = if laneIn lanes L then (laneWords o codes L)[j]? else some (sget (s.grpAt m.gid).v ((d + j) * 32 + L)))
    ∧ (∀ a d k, m.op = .accst a d → m.ret = some k → s.regsWf →
        (tget? s.groups m.gid).isSome = true → (s.grpAt m.gid).gtag = m.gtag →
        ((s.grpAt m.gid).a.pending.contains k || (s.grpAt m.gid).b.pending.contains k) = true →
        sget (u.grpAt m.gid).s d = (acc a).word)
    ∧ (∀ a clr, m.op = .accz a clr false →
        (u.coreAt core).accAt a.toNat
          = { acc a with words := [], part := [], pcnt := 0, pend := none, status := if clr then 0#5 else (acc a).status })
    ∧ (∀ a clr, m.op = .accz a clr true →
        (u.coreAt core).active = WPlane.blank ∧ (u.coreAt core).shadow = WPlane.blank ∧ ∀ n, (u.coreAt core).accAt n = Acc.blank)
    ∧ (∀ a v, m.op = .accstW a v → (u.coreAt core).accAt a.toNat = { acc a with status := v })
    ∧ (∀ a, m.op = .accprom a → (u.coreAt core).accAt a.toNat = (acc a).promote))
  ∧ (∀ (a : Acc) (o r j : Nat) (sat : Bool), swf a.words = true → j < 128 →
    (a.outRow o sat r)[j]? = some (accConv o sat (sget a.words (r * 128 + j))))
  ∧ (∀ (xs ws : List Int) (w : Word) (st : BitVec 5), xs.length = ws.length → 0 < xs.length →
    let c := runElem intAccum (fun _ => intPromote false) xs.length 0 0 xs ws ⟨w, none, st⟩
    let sum := w.toInt + ((xs.zip ws).map fun p => p.1 * p.2).sum
    c.p = none ∧ c.w = BitVec.ofInt 32 sum ∧ (c.st = if -2 ^ 31 ≤ sum ∧ sum < 2 ^ 31 then st else st ||| stOvf))
  ∧ ∀ (s : State) (core : Nat),
    let c := s.coreAt core
    exec (.mxWindowEnd core) s = .next (s.setCoreAt core
      { c with
        mxToggle := BitVec.ofNat 32 (min c.togCount (2 ^ 32 - 1)), mxZeros := BitVec.ofNat 32 (min c.zeroCount (2 ^ 32 - 1)),
        rowsLast := c.rowCount, togCount := 0, zeroCount := 0, rowCount := 0 })

/-- R192, R240, R241, R245: LAUNCH appends a launch of its own context, at no more than its own priority, after a release, and
writes the status, 1 where 64 stand already; it waits while a line that its acceptance reads is held; a packet that no check
refuses and whose launch fits is entered; NQPOST enters a command under the next ticket and charges its sectors, or waits where 64
stand or the bucket is exhausted; NQPOLL writes 2 for a ticket not given, 1 for one complete, with an acquire, and otherwise 0.
That the releases of LAUNCH and NQPOST perform the stores of the whole package is the model's choice (log 41). -/
def Obligations.LaunchAndNearQueueResults : Prop :=
  ∀ (x : EngF) (s : State),
    let c := s.grp.ctx
    (s.goesOn false (engForm eLaunch 1 x s) = true →
      let u := s.setSlot { s.slot with crossed := true }
      let pkt := launchPacket (s.grp.packet x.b) c s.lnc.prio
      let r := u.drainAll.accept c .device pkt
      (64 ≤ s.deviceQueue c → exec (.launch x) s = .next (u.setS x.d 1#32).advance)
      ∧ (s.deviceQueue c < 64 → s.acceptHeld c pkt = false → exec (.launch x) s = .next (r.2.setS x.d (BitVec.ofNat 32 r.1)).advance)
      ∧ (s.deviceQueue c < 64 → s.acceptHeld c pkt = true → exec (.launch x) s = .next s))
    ∧ (∀ (pkt : BitVec 1024) (ctx prio : Nat), ctx < 4096 → prio < 4 →
      let l : Launch := { Launch.blank with pkt := launchPacket pkt ctx prio }
      l.ctx = ctx ∧ l.prio = min (pkt.extractLsb' 8 2).toNat prio ∧ l.fld 0 8 = (pkt.extractLsb' 0 8).toNat
        ∧ l.fld 10 518 = (pkt.extractLsb' 10 518).toNat ∧ l.fld 540 484 = (pkt.extractLsb' 540 484).toNat)
    ∧ (∀ (pkt : BitVec 1024) (ctx : Nat) (src : Source) (ws : List Word),
      let l : Launch := { Launch.blank with pkt := pkt, src := src, order := s.next }
      let qs := s.partQuads (s.ctxAt ctx).part
      l.badBit ctx = none → l.type ≠ 0 → s.readPreload ctx l.args 0 l.spre = .ok ws → qs ≠ [] → l.perCore ≠ 0 →
      (l.coop = true → l.count ≤ l.capacity qs ∧ l.count ≤ l.nrec) →
        (s.accept ctx src pkt).1 = 0
        ∧ tget? (s.accept ctx src pkt).2.launches s.next = some { l with preload := ws, depOk := l.depAddr == 0 })
    ∧ (s.goesOn false (engForm eNqpost 1 x s) = true →
      (64 ≤ s.nearQueued c ∨ s.ctx.mem.open = false → exec (.nqpost x) s = .next s)
      ∧ (s.nearQueued c < 64 → s.ctx.mem.open = true → ∃ (t : State) (n : NearCmd),
          exec (.nqpost x) s = .next (t.setS x.d (nextSeq s.ctx.nearSeq)).advance ∧ tget? t.near s.next = some n
          ∧ n.ticket = nextSeq s.ctx.nearSeq ∧ n.cmd = s.grp.command x.b ∧ n.ctx = c ∧ n.started = false
          ∧ t.ctx.nearSeq = nextSeq s.ctx.nearSeq ∧ t.ctx.mem = s.ctx.mem.charge (nearCharge n.cmd)
          ∧ afterDrain s t ∧ .nearCommandStart c ∈ t.agenda))
    ∧ (s.goesOn false (engForm eNqpoll 1 x s) = true →
      let a := s.grp.rdS x.a 0
      let known := a ≠ 0#32 ∧ (s.ctx.nearSeq - a).toNat < 2 ^ 31
      (¬ known → exec (.nqpoll x) s = .next (s.setS x.d 2#32).advance)
      ∧ (known → a ∈ s.ctx.nearDone → exec (.nqpoll x) s = .next ((s.acquire .pkg).setS x.d 1#32).advance)
      ∧ (known → a ∉ s.ctx.nearDone → exec (.nqpoll x) s = .next (s.setS x.d 0#32).advance))

/-- R165, R169, R170: a SINK whose region fails a check of the header traps, and one whose region cannot be fetched stops on the
fault; one whose lanes all translate at the first load sends one packet for each home line, with the lanes that reach it; the slot
stands at its header until they have landed, though it issues beyond it (R177, log 90). -/
def Obligations.SinkHeaderResults : Prop :=
  ∀ (x : SinkF) (s : State), s.issues false (sinkForm x s) = true →
    let n := x.len.toNat
    let h := slotIn s.slot.offset
    (n = 0 ∨ 9 < n ∨ (h ≤ 3 ∧ 9 < h + n) →
      exec (.sink x) s = .next (s.takeTrap { cause := .sinkLength, mask := s.slot.mask }))
    ∧ (∀ c, s.region x = .trap c → exec (.sink x) s = .next (s.takeTrap { cause := c, mask := s.slot.mask }))
    ∧ (∀ c va, s.region x = .fault c va → exec (.sink x) s = .next (s.slotFault c va .fetch))
    ∧ ∀ (slots : List RegionSlot) (first : Nat) (y : MemF) (xl : Lane → Xlat),
      s.region x = .ok slots first → firstLoad slots first = some y →
      let t := s.sinkPre x slots first
      let E := s.passLanes &&& ~~~ s.landedHere
      let vas := (lanesOf E).map (t.va y)
      let lines := (lanesOf E).foldl (fun l L => insertNat ((xl L).pa / 128) l) []
      let ro := slots.all fun r => r.words.all fun w => !isMem w.2 || fld w.2 88 8 == 0x70#8
      let u := s.endWalks vas
      globalTrap y E t = none → s.lnc.lineOk (lineOf (regionEnd x s.slot.offset)) = true → s.awaitWalks vas = none →
      (∀ L ∈ lanesOf E, s.xlate (t.va y L) .load = .ok (xl L)) →
      s.jobHazard (!ro) ((lanesOf E).map fun L => (t.va y L / 128 * 128, 128)) = false →
      s.nearHazard (lines.map fun l => (l * 128, 128)) = false →
      (u.pay (lines.map fun l =>
        let p := u.mkPacket x slots first t E (t.va y) xl ro l
        s.cost l (l * 128) (if p.tag then 2 else 0))).1 = true →
      ∃ v, exec (.sink x) s = .next v ∧ v.slot.offset = s.slot.offset
        ∧ v.slot.pending = (List.range lines.length).map (fun i => s.next + i)
        ∧ ∀ i l, lines[i]? = some l → ∃ p, tget? v.packets (s.next + i) = some p ∧ p.line = l ∧ p.hdr = x ∧ p.gid = s.gid
            ∧ ∀ L, L < 32 → laneIn p.lanes L = (laneIn E L && (xl L).pa / 128 == l)

/-- R172 to R176, R179: a home slice accepts a packet whose line nothing holds while it has a tag left, after the stores that have
retired to its line; the region then runs as one step, and memory takes the line as it left it, or stays as it was when the packet
faulted; at the landing the live-outs and the landing codes of the packet's lanes reach the group, or are dropped and counted when
its tag is no longer current. A permission or poison fault gives its lanes the code 7 and posts a record with SRC 2 and the
executing level. A packet of a header that stands behind older instructions of its slot stays in the core, and a slot that cannot
take a record then gets none (log 26); which level of another package a packet runs at is a free value, and what waits is retried,
by the model's choice (logs 27, 57). -/
def Obligations.SinkPacketResults : Prop :=
  ∀ (s : State) (k : Nat) (p : Packet), tget? s.packets k = some p →
    let own := s.ownPa (p.line * 128)
    let span := [(p.line * 128, 128)]
    let g := s.grpAt p.gid
    let held := s.lineHeld span = true ∨ 64 ≤ (s.tagsAt (homeSlice (p.line * 128))).length
    (p.phase = .formed → s.heldAhead k = false → (own = true → ¬ held) →
      let v := s.unhold (.sinkPacketAccept k)
      let u := if own && v.stores.any fun q => meets q.2.spans span then v.drainAll else v
      ∃ t, exec (.sinkPacketAccept k) s = .next t
        ∧ tget? t.packets k = some { p with phase := .accepted, code := u.sinkLevel p }
        ∧ .sinkPacketExecute k ∈ t.agenda ∧ t.groups = s.groups ∧ t.mem = u.mem)
    ∧ (p.phase = .formed → s.heldAhead k = false → own = true → held →
        exec (.sinkPacketAccept k) s = .next (s.holdOnce (.sinkPacketAccept k)))
    ∧ (p.phase = .formed → s.heldAhead k = true → exec (.sinkPacketAccept k) s = .next s)
    ∧ (p.phase = .accepted → s.farPacket p = false →
        let r := p.runOn (s.sinkLine p).1 (s.sinkLine p).2
        ∃ t q, exec (.sinkPacketExecute k) s = .next t ∧ tget? t.packets k = some q
        ∧ q.phase = .executed ∧ q.bad = r.bad.map (fun b => { b with time := s.timebase }) ∧ q.regs = r.t.grp.v ∧ t.groups = s.groups
        ∧ (r.bad ≠ none → t.mem = s.mem)
        ∧ (p.readOnly = true → t.mem = s.mem)
        ∧ (r.bad = none → p.readOnly = false → own = true → p.fromL1 = false →
            t.mem = writeBytes s.mem (paOff (p.line * 128)) r.line)
        ∧ (own = true → p.fromL1 = false → (s.sinkLine p).1 = readBytes s.mem (paOff (p.line * 128)) 128))
    ∧ (p.phase = .executed → s.regsWf → (tget? s.groups p.gid).isSome = true →
        (g.a.pending.contains k || g.b.pending.contains k) = true → sget (s.coreAt p.core).tags p.tagKey = p.gtag →
        ∃ t, exec (.sinkPacketLand k) s = .next t
          ∧ (p.bad = none → t.mem = s.mem
              ∧ ∀ L ∈ lanesOf p.lanes, sget (t.grpAt p.gid).landing L = p.code
                ∧ (∀ c ∈ sinkOuts p.hdr, sget (t.grpAt p.gid).v (c.toNat * 32 + L) = sget p.regs (c.toNat * 32 + L))
                ∧ (p.hdr.log.toNat < 192 → p.hdr.log ∉ sinkOuts p.hdr →
                    sget (t.grpAt p.gid).v (p.hdr.log.toNat * 32 + L) = p.code.setWidth 32))
          ∧ (∀ b, p.bad = some b → b.trap = false →
              (∀ L ∈ lanesOf p.lanes, sget (t.grpAt p.gid).landing L = 7#4)
              ∧ ((g.slot (if g.a.pending.contains k then .A else .B)).cannotFault p.routine = false →
                ∃ r h, (⟨r, h⟩ : FqEntry) ∈ (t.ctxAt g.ctx).fq ++ (t.ctxAt g.ctx).fqWait ∧ r.cause = b.cause ∧ r.mask = p.lanes
                  ∧ r.va = b.va ∧ r.time = b.time ∧ r.src = .sink ∧ r.level = p.code ∧ r.park = true ∧ r.pcur = 0#2)))
    ∧ (p.phase = .executed → sget (s.coreAt p.core).tags p.tagKey ≠ p.gtag →
        ∃ t, exec (.sinkPacketLand k) s = .next t ∧ t.groups = s.groups
          ∧ (t.coreAt p.core).staleReturn = (s.coreAt p.core).staleReturn + 1#32)

namespace Sys2Proof.Machine

/-- A request whose response is still awaited by the group that issued it (R45). -/
def State.awaited (s : State) (k : Nat) (o : Out) : Prop :=
  (tget? s.groups o.gid).isSome = true ∧ sget (s.coreAt o.core).tags o.tagKey = o.gtag
    ∧ ((s.grpAt o.gid).a.pending.contains k || (s.grpAt o.gid).b.pending.contains k) = true

/-- The slot that awaits a request. -/
def State.awaiter (s : State) (k : Nat) (o : Out) : Slot :=
  if (s.grpAt o.gid).a.pending.contains k then (s.grpAt o.gid).a else (s.grpAt o.gid).b

/-- A request is the last thing its slot's pass waits for. -/
def Slot.lastOf (t : Slot) (k : Nat) : Prop :=
  (∀ j ∈ t.pending, j = k) ∧ t.left = 0#32 ∧ t.got = [] ∧ t.stopped = false ∧ t.parked = false

/-- A group once the lanes of a load have their bytes. -/
def Out.loaded (o : Out) (sx : Bool) (bs : LaneRet → List Byte) (g : Group) : Group :=
  o.lanes.foldl (fun (g : Group) r =>
    match r.entry with
    | some e => g.setEntries e r.lane (loadWords o.size sx (bs r))
    | none => g) g

/-- No TLB of a core or a quad, and no walker, holds an entry of a context's range (R108, R109). -/
def State.rangeGone (s : State) (c va len : Nat) : Prop :=
  let out := fun (e : TlbEntry) => e.ctx = c → va + len ≤ e.vpage * 2 ^ e.log2 ∨ (e.vpage + 1) * 2 ^ e.log2 ≤ va
  (∀ k, ∀ e ∈ (s.coreAt k).tlb, out e) ∧ (∀ q, ∀ e ∈ (s.quadAt q).tlb, out e) ∧ ∀ e ∈ s.descs, e.ctx ≠ c

/-- What the save area says of a live slot: saved whole (3), by flashback with a recipe (1) or without (2) (R199, R200). -/
def Group.savedAs (g : Group) (sel : SlotId) : SlotRead :=
  let t := g.slot sel
  let mine := (g.stack.filter fun e => !e.dead && e.slot == sel).drop t.ck.count
  let back := t.ck.lanes &&& g.alive &&& mine.foldl (fun (m : Lanes) e => m ||| e.mask) t.mask
  let whole : Bool := t.crossed || back == 0#32
  { kind := if whole then 3 else if t.ck.recipe.isNone then 2 else 1
    parked := whole && t.parked
    pcur := if whole then t.pcur else 0#2
    offset := if whole then t.offset else t.ck.fbp
    mask := if whole then t.mask else back
    pjoin := if whole then t.pjoin else if t.ck.preSplit && g.fusion == .split then g.splitJoin else t.ck.pjoin
    recipe := t.ck.recipe, ckMask := t.ck.mask, ckBase := t.ck.base % 256, depth := t.ck.count % 65536 }

end Sys2Proof.Machine

open Sys2Proof Sys2Proof.Machine

/-- R45, R68, R105, R108, R109, R123, R124, R130, R241, R294, R295: returns, performed stores, ended walks, and invalidations. The
read of a join's entry completes where the entry translates, its line is free and its sector is paid for. A request of this package
waits where its home slice holds a line of it, and a walk where one holds an entry (R241). A response is kept until the pass it
belongs to is over, and its lanes' registers are written then; with a tag no longer current it is dropped and counted; an error
posts a record for its lanes. That one record names all lanes that fail, with the lowest one's address (log 20), and that an
invalidation waits while an access to another agent, or a copy job in the range, is on its way (log 56), are the model's readings.
-/
def Obligations.MemoryEventResults : Prop :=
  (∀ (s : State) (gid : Nat) (sel : SlotId) (i : Nat) (e : StackEntry) (x : Xlat),
    let t : State := { s with gid := gid, sel := sel }
    let p := t.pay [t.cost 0 x.pa 1]
    t.slot.live = true → t.slot.joinRead = true → t.grp.topEntry sel = some (i, e) →
      translate t (some t.grp.core) t.grp.ctx (t.stackVa t.grp i) .load = .ok x →
      t.walkHeld (some t.grp.core) t.grp.ctx [t.stackVa t.grp i] = false → t.lineHeld [(x.pa, 16)] = false →
      (p.1 = true → ∃ v ks, exec (.joinEntryReadReturn gid sel) s = .next v
          ∧ (v.grpAt gid).slot sel = { t.slot with joinRead := false, chip := true, paid := ks } ∧ sameMemory s v)
      ∧ (p.1 = false → exec (.joinEntryReadReturn gid sel) s = .next p.2))
  ∧ (∀ (s : State) (k : Nat) (o : Out), tget? s.outs k = some o →
    (∀ resp, o.host = false → s.homeReq o = true →
        (s.outHeld o = false → exec (.loadReturn k resp) s = .next (s.respond k o (s.homeResp o)))
        ∧ (s.outHeld o = true → exec (.loadReturn k resp) s = .next s))
    ∧ (o.host = false → s.homeReq o = false →
        (∀ data bad, exec (.loadReturn k (.data data bad)) s = .next (s.respond k o
          (((o.split data).zip o.lanes).map fun p => if bad.contains p.2.lane then .error .poison else .ok p.1)))
        ∧ exec (.loadReturn k .paRange) s = .next (s.respond k o (o.lanes.map fun _ => .error .paRange))
        ∧ exec (.fabricTimeout k) s = .next (s.respond k o (o.lanes.map fun _ => .error .fabricTimeout)))
    ∧ (∀ data, o.host = true →
        exec (.hostAccessCompletion k .successful data) s = .next (s.respond k o ((o.split data).map .ok))
        ∧ exec (.hostAccessCompletion k .unsupported data) s = .next (s.respond k o (o.lanes.map fun _ => .error .paRange))
        ∧ exec (.hostAccessCompletion k .completerAbort data) s = .next (s.respond k o (o.lanes.map fun _ => .error .paRange))
        ∧ exec (.hostAccessTimeout k) s = .next (s.respond k o (o.lanes.map fun _ => .error .fabricTimeout)))
    ∧ (∀ (sx : Bool) (bs : LaneRet → List Byte), s.awaited k o → o.kind = .load sx →
        let t := s.respond k o (o.lanes.map fun r => .ok (bs r))
        ((s.awaiter k o).lastOf k →
          (t.grpAt o.gid).regs = (o.loaded sx bs (s.grpAt o.gid)).regs ∧ t.outs = tdel s.outs k ∧ sameMemory s t)
        ∧ ((s.awaiter k o).stopped = false → (∃ j ∈ (s.awaiter k o).pending, j ≠ k) →
            t.slot.got = (s.awaiter k o).got ++ o.lanes.map (fun r => ⟨r.lane, r.entry, loadWords o.size sx (bs r)⟩)
            ∧ (t.grpAt o.gid).regs = (s.grpAt o.gid).regs ∧ t.outs = tdel s.outs k ∧ sameMemory s t))
    ∧ (∀ (c : Cause) (r : LaneRet) (rs : List LaneRet), s.awaited k o → (s.awaiter k o).stopped = false →
        o.above &&& (s.awaiter k o).left = 0#32 → o.lanes = r :: rs →
        let t := s.respond k o (o.lanes.map fun _ => .error c)
        let x := t.ctxAt (s.grpAt o.gid).ctx
        ∃ e, e ∈ x.fq ++ x.fqWait ∧ e.record.cause = c ∧ e.record.va = r.va ∧ e.record.park = true
          ∧ e.record.mask = maskWhere fun L => o.lanes.any fun r => r.lane == L)
    ∧ (∀ resp, sget (s.coreAt o.core).tags o.tagKey ≠ o.gtag →
        let t := s.respond k o resp
        t.groups = s.groups ∧ (t.coreAt o.core).staleReturn = (s.coreAt o.core).staleReturn + 1#32)
    ∧ (o.host = false → o.kind.writes = true → (∀ r ∈ o.lanes, r.entry = none) →
        exec (.storePerformed k) s = .next (s.respond k o (o.lanes.map fun _ => .ok []))))
  ∧ (∀ (s : State) (k : Nat) (p : PStore), tget? s.outs k = none → tget? s.stores k = some p → s.storeBlocked k p = false →
    s.lineHeld p.spans = false →
    ∃ t, exec (.storePerformed k) s = .next t ∧ t.stores = tdel s.stores k ∧ t.groups = s.groups
      ∧ t.mem = p.writes.foldl (fun (m : Memory) w => writeBytes m (paOff w.1) w.2) s.mem)
  ∧ (∀ (s : State) (k : Nat) (w : Walk), tget? s.walks k = some w → (s.walking (dieOf (s.grpAt w.gid).core)).contains k = true →
    s.walkHeld (some (s.grpAt w.gid).core) w.ctx [w.va] = false →
    ∃ t, exec (.pageWalkComplete k) s = .next t ∧ tget? t.walks k = some { w with ended := true } ∧ t.groups = s.groups
      ∧ sameMemory s t)
  ∧ ∀ (s : State) (ctx va len : Nat),
    let waits := s.farOuts ctx || s.jobsIn ctx va len || s.outs.any fun p => (s.grpAt p.2.gid).ctx == ctx && s.outHeld p.2
    (waits = true → exec (.tlbInvalidate ctx va len) s = .next s)
    ∧ (waits = false → ∃ t, exec (.tlbInvalidate ctx va len) s = .next t
        ∧ t.stores = s.drainAll.stores ∧ t.rangeGone ctx va len)

/-- R182, R183, R185 to R189, R202, R203, R241, R309: queues and launches. A queue is created with its status record written; a
doorbell through its own partition moves the write pointer, or puts the queue in error; the scheduler accepts the next packet; a
launch is released by its dependence, its blocks become resident, and it completes once all have ended; a queue that is being
destroyed, or is not active, accepts nothing more. The completion record's time and count are those of R186, and where a near
command or a packet holds a line the read or write waits for it (R241): a packet's, its preload words', a dependence word's,
SIGNAL's. The status record at creation, the atomic permission asked of SIGNAL's page and the deletion of a completed launch's
entry are the model's choice (log 46), and so are bytes of other agents (log 14); that a packet counts as begun to be read once the
write pointer passes it is its reading (log 81). -/
def Obligations.QueueAndLaunchResults : Prop :=
  (∀ (s : State) (ctx base log2n status : Nat), (tget? s.ctxs ctx).isSome = true → base % 4096 = 0 → base < 2 ^ 48 →
    status % 32 = 0 → status < 2 ^ 48 → 4 ≤ log2n → log2n ≤ 16 →
    let k := tfresh s.queues
    let x : Queue := { Queue.blank with ctx := ctx, base := base, log2n := log2n, status := status }
    ∃ t, exec (.queueCreate ctx base log2n status) s = .next t ∧ t = (s.setQueueAt k x).writeStatus k
      ∧ x.rdptr = 0 ∧ x.wrptr = 0 ∧ x.state = .active
      ∧ (∀ pa, s.sysWrite ctx status .store = .ok pa → t.queueAt k = x))
  ∧ (∀ (s : State) (k : Nat),
    (∀ pa, s.wf → s.stores = [] → s.sysWrite (s.queueAt k).ctx (s.queueAt k).status .store = .ok pa → s.ownPa pa = true →
      s.lineHeld [(pa, 32)] = false →
      holdsBytes (s.writeStatus k).mem (paOff pa) (leBytes 32 (s.queueAt k).bits))
    ∧ (∀ e, s.sysWrite (s.queueAt k).ctx (s.queueAt k).status .store = .error e → (s.queueAt k).state = .active →
      let t := s.writeStatus k
      (t.queueAt k).state = .error ∧ (t.queueAt k).cause = causeCode e ∧ (t.queueAt k).fva = (s.queueAt k).status
        ∧ ∃ r ∈ (t.ctxAt (s.queueAt k).ctx).fq ++ (t.ctxAt (s.queueAt k).ctx).fqWait,
            r.record.cause = e ∧ r.record.src = .sched ∧ r.record.park = false ∧ r.record.va = (s.queueAt k).status))
  ∧ (∀ (s : State) (part q : Nat) (value : DWord) (x : Queue), tget? s.queues q = some x →
    let v := value.toNat
    let mine := (tget? s.porch.parts part).isSome = true ∧ (s.ctxAt x.ctx).part = part ∧ x.state = .active ∧ x.destroying = false
    (¬ mine → exec (.doorbellWrite ⟨part, q⟩ value) s = .next s)
    ∧ (mine → v < x.wrptr ∨ x.rdptr + 2 ^ x.log2n < v →
      ∃ t, exec (.doorbellWrite ⟨part, q⟩ value) s = .next t ∧ (t.queueAt q).state = .error
        ∧ (t.queueAt q).cause = causeCode .queuePointer)
    ∧ (mine → x.wrptr ≤ v → v ≤ x.rdptr + 2 ^ x.log2n →
      ∃ t, exec (.doorbellWrite ⟨part, q⟩ value) s = .next t ∧ t.queueAt q = { x with wrptr := v }
        ∧ t.agenda = s.agenda ++ if x.rdptr < v then [.packetAccept q] else []))
  ∧ (∀ (s : State) (q : Nat) (x : Queue), tget? s.queues q = some x →
    let va := x.base + x.rdptr % 2 ^ x.log2n * 128
    let reads := x.state = .active ∧ x.destroying = false ∧ x.rdptr < x.wrptr
    (¬ reads → exec (.packetAccept q) s = .next (if x.dirty then s.writeStatus q else s))
    ∧ (reads → s.sysHeld x.ctx va 128 = true → exec (.packetAccept q) s = .next (s.hold (.packetAccept q)))
    ∧ (∀ pa pb, reads → s.sysHeld x.ctx va 128 = false → s.sysRead x.ctx va = .ok pa → s.sysRead x.ctx (va + 64) = .ok pb → s.ownPa pa = true →
      let pkt := BitVec.ofNat 1024 (leNat (s.physRead pa 128))
      (s.acceptHeld x.ctx pkt = true → exec (.packetAccept q) s = .next (s.hold (.packetAccept q)))
      ∧ (s.acceptHeld x.ctx pkt = false → ∃ t u : State, exec (.packetAccept q) s = .next t ∧ u = s.setQueueAt q { x with rdptr := x.rdptr + 1 }
        ∧ (let v := (u.accept x.ctx (.queue q) pkt).2
           let w := if (v.queueAt q).state = .active then v.writeStatus q else v
           t = if x.rdptr + 1 < x.wrptr then w.push (.packetAccept q) else w)))
    ∧ (∀ e, reads → s.sysHeld x.ctx va 128 = false → s.sysRead x.ctx va = .error e → ∃ t, exec (.packetAccept q) s = .next t ∧ (t.queueAt q).state = .error
        ∧ (t.queueAt q).cause = causeCode e ∧ (t.queueAt q).fva = va))
  ∧ (∀ (s : State) (k : Nat) (l : Launch), tget? s.launches k = some l → l.depOk = false → l.state = .waiting →
    (s.sysHeld l.ctx l.depAddr 8 = true → exec (.dependenceRead k) s = .next (s.hold (.dependenceRead k)))
    ∧ (s.sysHeld l.ctx l.depAddr 8 = false → (∀ pa, s.sysRead l.ctx l.depAddr = .ok pa → s.ownPa pa = true → ∃ t, exec (.dependenceRead k) s = .next t
      ∧ t.lncAt k = { l with depOk := decide (l.depVal ≤ leNat (s.physRead pa 8)) } ∧ t.groups = s.groups)
    ∧ (∀ e, s.sysRead l.ctx l.depAddr = .error e → ∃ t, exec (.dependenceRead k) s = .next t ∧ t.groups = s.groups
        ∧ (t.lncAt k).status = 7 ∧ (t.lncAt k).cause = causeCode e ∧ (t.lncAt k).ended = l.count)))
  ∧ (∀ (s t : State) (k : Nat) (ps : List Place), s.makeResident k ps = some t →
    exec (.blockResident k ps) s = .next t ∧ (t.lncAt k).state = .running
      ∧ (t.lncAt k).started = (s.lncAt k).started + ps.length ∧ t.lastServed = (s.lncAt k).ctx)
  ∧ (∀ (s : State) (k : Nat) (l : Launch), tget? s.launches k = some l → s.launchOver k = true →
    let alive := ∀ q, l.src = .queue q → (s.queueAt q).destroying = false
    (s.complHeld l.ctx l.compl = true → exec (.launchComplete k) s = .next (s.hold (.launchComplete k)))
    ∧ (s.complHeld l.ctx l.compl = false → ∃ t, exec (.launchComplete k) s = .next t ∧ t.launches = tdel s.launches k
      ∧ (∀ pa, alive → s.wf → complValid l.compl = true → s.stores = [] → s.complAt l.ctx l.compl = .ok pa → s.ownPa pa = true →
          s.ownPa (pa + 16) = true → s.lineHeld [(pa, 24)] = false →
          holdsBytes t.mem (paOff pa) (leBytes 16 (completionBits l.status (if l.status = 4 ∨ l.status = 7 then l.cause else 0) 0
            s.timebase) ++ leBytes 8 ((leNat (s.physRead (pa + 16) 8) + 1) % 2 ^ 64)))
      ∧ (∀ e va q, alive → complValid l.compl = true → s.complAt l.ctx l.compl = .error (e, va) → l.src = .queue q →
          (s.queueAt q).state = .active →
          (t.queueAt q).state = .error ∧ (t.queueAt q).cause = causeCode e ∧ (t.queueAt q).fva = va)))
  ∧ (∀ (s : State) (c compl : Nat),
    (∀ e, s.sysWrite c compl .store = .error e → s.complAt c compl = .error (e, compl))
    ∧ ∀ pa, s.sysWrite c compl .store = .ok pa →
      (∀ e, s.sysWrite c (compl + 16) .atomic = .error e → s.complAt c compl = .error (e, compl + 16))
      ∧ ∀ pb, s.sysWrite c (compl + 16) .atomic = .ok pb → s.ownPa pa = true → s.complAt c compl
          = if s.poisoned (pa + 16) then .error (.poison, compl + 16) else .ok pa)
  ∧ ∀ (s : State) (q : Nat) (abort : Bool) (x : Queue), tget? s.queues q = some x → x.destroying = false →
    ∃ t, exec (.queueDestroy q abort) s = .next t ∧ (t.queueAt q).destroying = true
      ∧ (abort = false → t.groups = s.groups)
      ∧ (abort = true → ∀ k l, tget? s.launches k = some l → l.src = .queue q → l.state ≠ .completed → (t.lncAt k).status = 5)
      ∧ (x.state = .active → x.rdptr < x.wrptr → (t.queueAt q).rdptr = x.rdptr + 1 ∧ (t.queueAt q).disc = true)
      ∧ (∀ pa, s.sysWrite x.ctx x.status .store = .ok pa → (∀ p ∈ s.launches, p.2.src ≠ .queue q) → (t.queueAt q).state = .destroyed)

/-- R105, R193, R198 to R201, R283: contexts. A context is created with its translation root, unlimited buckets, quota 0 and the
default slice; a slice between 10 µs and 1 s is set; a slice that ends pre-empts the context where a rival waits for what it holds
(log 51), once no access that its slots must finish is held, and otherwise renews; a resumption makes the context resident with a
new slice. Pre-emption cancels a block's copy jobs, its tiles going back to EMPTY or READY, kills the stack entries that a slot
pushed after its checkpoint, and keeps of the block what its record holds, in a state whose blocks and groups are listed once each,
as every table operation keeps them: of each slot, whether it is saved whole, with the offset and the lanes it resumes at. A slot
saved whole resumes where it stood; a flashback slot resumes at its recipe, or at its checkpoint, its lanes with the checkpoint's
registers and zero elsewhere. The record's own parts (log 48), the lanes of a flashback (log 49) and what a core finishes (log 50)
are the model's readings. -/
def Obligations.ContextResults : Prop :=
  (∀ (s : State) (ctx part root : Nat), ctx < 4096 → tget? s.ctxs ctx = none → (tget? s.porch.parts part).isSome = true →
    ∃ t, exec (.contextCreate ctx part root) s = .next t ∧ (t.ctxAt ctx).part = part ∧ (t.ctxAt ctx).root = root
      ∧ (t.ctxAt ctx).mem = Bucket.unlimited ∧ (t.ctxAt ctx).fab = Bucket.unlimited ∧ (t.ctxAt ctx).p3quota = 0
      ∧ (t.ctxAt ctx).nrt = [] ∧ (t.ctxAt ctx).sliceNs = 2000000 ∧ (t.ctxAt ctx).sliceEnd = s.timebase.toNat + 2000000
      ∧ (t.ctxAt ctx).resident = true ∧ (t.ctxAt ctx).killed = false ∧ { t with ctxs := s.ctxs } = s)
  ∧ (∀ (s : State) (ctx ns : Nat), (tget? s.ctxs ctx).isSome = true →
    (10000 ≤ ns → ns ≤ 1000000000 →
      exec (.timeSliceSet ctx ns) s = .next (s.setCtxAt ctx { s.ctxAt ctx with sliceNs := ns }))
    ∧ (ns < 10000 ∨ 1000000000 < ns → exec (.timeSliceSet ctx ns) s = .next s))
  ∧ (∀ (s : State) (ctx : Nat), (tget? s.ctxs ctx).isSome = true →
    (s.mustYield ctx = true → s.crossHeld ctx = true → exec (.timeSliceExpiry ctx) s = .next s)
    ∧ (s.mustYield ctx = true → s.crossHeld ctx = false → ∃ t, exec (.timeSliceExpiry ctx) s = .next t ∧ t = s.preempt ctx
      ∧ ((t.ctxAt ctx).resident = false ∨ (t.ctxAt ctx).killed = true))
    ∧ (s.mustYield ctx = false → s.sliceOver ctx = true → exec (.timeSliceExpiry ctx) s
        = .next (s.setCtxAt ctx { s.ctxAt ctx with sliceEnd := s.timebase.toNat + (s.ctxAt ctx).sliceNs })))
  ∧ (∀ (s t : State) (ctx : Nat) (places : List Place), (tget? s.ctxs ctx).isSome = true → s.resume ctx places = some t →
    exec (.contextResume ctx places) s = .next t ∧ t.lastServed = ctx ∧ (t.ctxAt ctx).resident = true
      ∧ (t.ctxAt ctx).sliceEnd = s.timebase.toNat + (s.ctxAt ctx).sliceNs)
  ∧ (∀ (s : State) (b k : Nat) (tl : Tile),
    let x := s.blkAt b
    let t := s.cancelJobs b
    (t.coreAt x.core).copyQ = ((s.coreAt x.core).copyQ.filter fun p => p.2.block != b)
    ∧ (tget? x.tiles k = some tl → tl.relPending = false → tget? (t.blkAt b).tiles k = some { tl with
        pins := 0
        phase := if tl.state = .filling then !tl.phase else tl.phase
        state := match tl.state with | .filling => .empty | .draining => .ready | x => x }))
  ∧ (∀ (s : State) (k : Sunks) (b : Nat),
    let x := s.blkAt b
    let t := s.saveBlock k b
    (s.blocks.map Prod.fst).Nodup → (s.groups.map Prod.fst).Nodup →
    tget? t.blocks b = none ∧ (∀ i ∈ x.groups, tget? t.groups i = none) ∧ t.bars = s.bars
    ∧ ∃ sb, (t.lncAt x.launch).saved = (s.lncAt x.launch).saved ++ [sb] ∧ sb.n = x.n ∧ sb.recIdx = x.recIdx ∧ sb.block = b
      ∧ sb.groups.map SavedGroup.gid = x.groups
      ∧ ∀ sg ∈ sb.groups, let g := s.grpAt sg.gid
          sg.num = g.num ∧ sg.alive = g.alive ∧ sg.stack = g.rewound ∧ sg.landing = g.landing
          ∧ sg.a.trap = g.a.trap ∧ sg.b.trap = g.b.trap ∧ sg.a.deferred = g.a.deferred ∧ sg.b.deferred = g.b.deferred)
  ∧ (∀ (α : Type) (m : Table α) (k : Nat) (x : α), (m.map Prod.fst).Nodup →
    ((tput m k x).map Prod.fst).Nodup ∧ ((tdel m k).map Prod.fst).Nodup)
  ∧ (∀ (g : Group) (sel : SlotId),
    let t := g.slot sel
    let r := g.savedAs sel
    t.live = true →
      ((∀ o, r.pjoin = some o ∨ r.recipe = some o → o ≠ ~~~ 0#30) → slotRead (g.slotBits sel) = r)
      ∧ (r.kind ≠ 3 → (g.rewound.filter fun e => !e.dead && e.slot == sel)
          = (g.stack.filter fun e => !e.dead && e.slot == sel).take t.ck.count))
  ∧ ∀ (r : SlotRead) (sv : SavedSlot) (ck : Checkpoint),
    let t := slotBack r sv ck
    (r.kind = 3 → t.live = true ∧ t.offset = r.offset ∧ t.mask = r.mask ∧ t.pjoin = r.pjoin ∧ t.pcur = r.pcur
      ∧ t.parked = r.parked ∧ t.inTrap = sv.inTrap ∧ t.trap = sv.trap ∧ t.deferred = sv.deferred ∧ t.crossed = true)
    ∧ (r.kind = 1 ∨ r.kind = 2 → t.live = true ∧ t.mask = r.mask ∧ t.pjoin = r.pjoin ∧ t.pcur = 0#2 ∧ t.ck = ck
      ∧ (r.kind = 1 → ∀ o, r.recipe = some o → t.offset = o) ∧ (r.kind = 2 → t.offset = r.offset))
    ∧ ∀ (g : Group) (shared : Bool) (sel : SlotId), g.canon → swf ck.regs = true → r.kind = 1 ∨ r.kind = 2 →
      let m := slotLanes sel r.mask g.stack
      let u := g.flash shared sel r ck
      (∀ q, sget u.v q = if laneIn m (q % 32) then sget ck.regs q else sget g.v q)
      ∧ (∀ q, sget u.annex q = if laneIn m (q % 32) then 0#32 else sget g.annex q)
      ∧ (∀ n, 1 ≤ n → n ≤ 7 → sget u.m n = (sget g.m n &&& ~~~ m) ||| (sget ck.m n &&& m))
      ∧ u.s = (if shared then ck.s else g.s)

namespace Sys2Proof.Machine

/-- A fault-path command of a partition to one of its contexts (R271): operation, context, cause and record number, and no other
bit. -/
def fpCmd (op ctx cause : Nat) (seq : Word) : BitVec 128 :=
  BitVec.ofNat 128 (op + ctx * 2 ^ 8 + cause * 2 ^ 24 + seq.toNat * 2 ^ 32)

/-- A near command that has started and may run under an opcode: no other block's bank sequence holds its lines. -/
def State.runs (s : State) (k : Nat) (n : NearCmd) (op : Nat) : Prop :=
  tget? s.near k = some n ∧ n.started = true ∧ n.op = op ∧ s.bankHeld k n = false

/-- What a near command's end leaves: its entry is gone, its completion record stands where its region and record offset say, and
its ticket is among the complete ones (R242). -/
def nearEnded (s : State) (k : Nat) (n : NearCmd) (cause : Option Cause) (ev : BitVec 4) (cnt : Nat)
    (o : Host.Outcome State Fault Refusal) : Prop :=
  ∃ t, o = .next t ∧ t.near = tdel s.near k
    ∧ ∀ pa, s.recordAt n = .ok pa → n.ticket ∈ (t.ctxAt n.ctx).nearDone
      ∧ holdsBytes t.mem (paOff pa) (leBytes 8 (n.record s.timebase cause ev cnt).1)
      ∧ (pa % 32 = 0 → holdsBytes t.mem (paOff pa + 8) (leBytes 16 (n.record s.timebase cause ev cnt).2))

/-- A bucket's refill as R283 and R285 state it. -/
def refilled (b : Bucket) (set : Option (Nat × Nat)) (c : Bucket) : Prop :=
  match set with
  | none => c = if b.rate = 0xFFFFFFFF then b else { b with balance := min (b.balance + b.rate) b.depth }
  | some (r, d) => c.rate = r ∧ c.depth = d
      ∧ (r ≠ 0xFFFFFFFF → c.balance = if b.rate = 0xFFFFFFFF then (d : Int) else min (b.balance + r) d)

end Sys2Proof.Machine

open Sys2Proof Sys2Proof.Machine

/-- R264, R266, R268 to R272, R277: a trap that waited is entered once the other slot has left its routine, a deferred cause at the
slot's next issue; a record that waited is posted when there is room; FQ.POP removes a record, CTX.RESUME also resumes what it
holds, and CTX.KILL kills the context, each with its status. That a deferred cause is taken at that issue, also in the routine, is
the model's reading (log 22), and that a record which waits keeps the number it had when its cause was raised its choice (log 84).
-/
def Obligations.FaultPathResults : Prop :=
  (∀ (s : State) (gid : Nat) (sel : SlotId) (r : Record),
    let g := s.grpAt gid
    (g.slot sel).trap = some r → (g.slot sel).live = true →
    ((g.slot (otherSlot sel)).live && (g.slot (otherSlot sel)).inTrap) = false →
      exec (.trapEntry gid sel) s = .next (s.enterTrap gid sel r)
      ∧ (((s.enterTrap gid sel r).grpAt gid).slot sel).inTrap = true
      ∧ (((s.enterTrap gid sel r).grpAt gid).slot sel).offset = (s.lncAt g.launch).trapOff)
  ∧ (∀ (s : State) (gid : Nat) (sel : SlotId) (d : Deferred) (ds : List Deferred),
    let g := s.grpAt gid
    let sl := g.slot sel
    sl.deferred = d :: ds → sl.atIssue = true → exec (.deferredTrapTake gid sel) s
      = .next ((s.setGrpAt gid (g.setSlot sel { sl with deferred := ds, cpy := none, eng := none })).raiseAt gid sel
          { cause := d.cause, mask := d.mask, info := sl.offset.setWidth 32, va := d.va, src := d.src, offset := some d.offset, time := some d.time,
            gtag := some d.gtag }))
  ∧ (∀ (s : State) (c : Nat) (e : FqEntry) (es : List FqEntry), (s.ctxAt c).fqWait = e :: es →
    (s.fqRoom c = true → exec (.faultRecordPost c) s
      = .next (s.setCtxAt c { s.ctxAt c with fq := (s.ctxAt c).fq ++ [e], fqWait := es }))
    ∧ (s.fqRoom c = false → exec (.faultRecordPost c) s = .next s))
  ∧ ∀ (s : State) (part c cause : Nat) (seq : Word), c < 4096 → cause < 256 →
    let mine := (tget? s.ctxs c).isSome = true ∧ (s.ctxAt c).part = part
    let x := s.ctxAt c
    (¬ mine → ∀ i ∈ [Instr.fqPop part (fpCmd 1 c cause seq), .ctxResume part (fpCmd 2 c cause seq), .ctxKill part (fpCmd 3 c cause seq)],
      exec i s = .next (s.fpStatus part 2))
    ∧ (mine →
      ((∃ e ∈ x.fq, e.record.seq = seq) → ∃ t, exec (.fqPop part (fpCmd 1 c cause seq)) s = .next t
        ∧ t.ctxAt c = { x with fq := x.fq.filter fun e => e.record.seq != seq } ∧ t.porch.lastStatus = 0 ∧ t.groups = s.groups)
      ∧ ((∀ e ∈ x.fq, e.record.seq ≠ seq) → exec (.fqPop part (fpCmd 1 c cause seq)) s = .next (s.fpStatus part 1)
          ∧ (seq ≠ 0#32 → exec (.ctxResume part (fpCmd 2 c cause seq)) s = .next (s.fpStatus part 1)))
      ∧ (seq ≠ 0#32 → ∀ e, x.fq.find? (fun f => f.record.seq == seq) = some e →
          ∃ t, exec (.ctxResume part (fpCmd 2 c cause seq)) s = .next t ∧ t.porch.lastStatus = 0
            ∧ ∀ k sel, e.held = .parked k sel → x.resident = true → (tget? s.groups k).isSome = true →
                t.grpAt k = (s.grpAt k).resume sel)
      ∧ (∃ t, exec (.ctxResume part (fpCmd 2 c cause 0#32)) s = .next t ∧ (t.ctxAt c).fq = [] ∧ (t.ctxAt c).fqWait = []
          ∧ t.porch.lastStatus = 0)
      ∧ (∀ k, killCause cause = some k → cause ≠ 0 → exec (.ctxKill part (fpCmd 3 c cause seq)) s
          = .next ((s.kill c (s.plainRecord c k)).fpStatus part 0))
      ∧ exec (.ctxKill part (fpCmd 3 c 0 seq)) s = .next ((s.kill c (s.plainRecord c .osKill)).fpStatus part 0)
      ∧ ((s.kill c (s.plainRecord c .osKill)).ctxAt c).killed = true
      ∧ (cause ≠ 0 → killCause cause = none → exec (.ctxKill part (fpCmd 3 c cause seq)) s = .next (s.fpStatus part 3)))

namespace Sys2Proof.Machine

/-- The registers of a group that a debugger reads and writes as they are: the space and index, the value, and the group with another
value there (R273). -/
def Group.dbgOwn (g : Group) : List (DbgSpace × Word × (Word → Group)) :=
  ((List.range 8).drop 1).map (fun n => (.m n, sget g.m n, fun w => { g with m := sput g.m n w }))
    ++ (List.range 4).flatMap fun i =>
      [(.xbase i, sget g.xbase i, fun w => { g with xbase := sput g.xbase i w }),
       (.xlimit i, sget g.xlimit i, fun w => { g with xlimit := sput g.xlimit i w })]
        ++ (List.range 32).map fun L =>
          (.xindex i L, sget g.xindex (i * 32 + L), fun w => { g with xindex := sput g.xindex (i * 32 + L) w })

end Sys2Proof.Machine

/-- R273, R274, R78: the debugger halts a group, steps a slot of a halted one, and lets it go; a slot that halted before a BKPT
then stands after it; it turns breakpoints on or off for a context; it reads an entry of the port's register file, a scalar, mask,
index or control register, an accumulator of its block and the tile table, and writes one of a halted group, the response carrying
the value held and whether the entry's power unit was drowsy; an entry of a gated power unit, and an index that names nothing, are
answered so; a slot's state, a tile-table entry and a read-only control register stand as they are (R4, R51, R200, R204). How a
debugger names a group and the halves of a control register is the model's choice (log 24). -/
def Obligations.DebuggerResults : Prop :=
  ∀ (s : State) (ctx core group k : Nat), s.dbgGroup ctx core group = some k →
    let g := s.grpAt k
    exec (.dbgHalt ctx core group) s = .next (s.setGrpAt k { g with halted := true, step := none })
    ∧ (∀ sel, g.halted = true → (g.slot sel).live = true → (g.slot sel).atBkpt = false →
        exec (.dbgStep ctx core group sel) s = .next (s.setGrpAt k { g with step := some sel }))
    ∧ (g.a.atBkpt = false → g.b.atBkpt = false →
        exec (.dbgGo ctx core group) s = .next (s.setGrpAt k { g with halted := false, step := none }))
    ∧ (∀ sel, (g.slot sel).atBkpt = true → (g.slot (otherSlot sel)).atBkpt = false → g.fusion ≠ .parked →
        ∃ t, exec (.dbgGo ctx core group) s = .next t
          ∧ (t.grpAt k).halted = false ∧ (t.grpAt k).step = none ∧ ((t.grpAt k).slot sel).offset = nextOffset (g.slot sel).offset
          ∧ ((t.grpAt k).slot sel).pcur = 0#2 ∧ ((t.grpAt k).slot sel).atBkpt = false
          ∧ (t.grpAt k).slot (otherSlot sel) = g.slot (otherSlot sel) ∧ (t.grpAt k).regs = { g.regs with halted := false })
    ∧ (∀ on, (tget? s.ctxs ctx).isSome = true →
        exec (.dbgBkpt ctx on) s = .next (s.setCtxAt ctx { s.ctxAt ctx with bkpt := on }))
    ∧ (∀ n, n < 48 → exec (.dbgRead ctx core group (.s n)) s = .next (s.respondDbg ((sget g.s n).setWidth 64)))
    ∧ (∀ n, 48 ≤ n → exec (.dbgRead ctx core group (.s n)) s = .next (s.respondDbg (BitVec.ofNat 64 (2 ^ 35))))
    ∧ (∀ n (w : Word), n < 48 → g.isHalted = true → s.regsWf → exec (.dbgWrite ctx core group (.s n) w) s
        = .next ((s.setGrpAt k { g with s := sput g.s n w }).respondDbg (w.setWidth 64)))
    ∧ (∀ n (w : Word), 48 ≤ n → exec (.dbgWrite ctx core group (.s n) w) s
        = .next (s.respondDbg (BitVec.ofNat 64 (2 ^ 35 + if g.isHalted then 0 else 2 ^ 34))))
    ∧ (∀ e L, e < 512 → L < 32 → s.unitHeld g.core g.port (unitOf e) = false →
        exec (.dbgRead ctx core group (.v e L)) s = .next (s.respondDbg (BitVec.ofNat 64 (2 ^ 32))))
    ∧ (∀ sel i (w : Word), i < 16 → g.isHalted = true → exec (.dbgWrite ctx core group (.slotState sel i) w) s
        = .next (s.respondDbg ((wordN (g.slotNow sel) i).setWidth 64)))
    ∧ (∀ n (w : Word), n < 48 → g.isHalted = false → exec (.dbgWrite ctx core group (.s n) w) s
        = .next (s.respondDbg ((sget g.s n).setWidth 64 ||| BitVec.ofNat 64 (2 ^ 34))))
    ∧ (∀ e L (w : Word), e < 512 → L < 32 → s.unitHeld g.core g.port (unitOf e) = true →
        let r := (s.wakeUnit (some (g.core, g.port * 16 + unitOf e))).2
        let mark : DWord := if (s.coreAt g.core).drowsy.contains (g.port * 16 + unitOf e) then BitVec.ofNat 64 (2 ^ 33) else 0#64
        exec (.dbgRead ctx core group (.v e L)) s
            = .next (r.respondDbg ((s.entryVal g.core g.port e L).setWidth 64 ||| mark))
        ∧ (g.isHalted = true → s.regsWf → swf (s.coreAt g.core).spare = true → exec (.dbgWrite ctx core group (.v e L) w) s
            = .next ((r.putEntry g.core g.port e L w).respondDbg (w.setWidth 64 ||| mark))))
    ∧ (∀ e L h i, s.entryOwner g.core g.port e = some (h, i) → s.entryVal g.core g.port e L = sget (s.grpAt h).v (i * 32 + L))
    ∧ (∀ (sp : DbgSpace) (v w : Word) (f : Word → Group),
        (sp, v, f) ∈ g.dbgOwn → exec (.dbgRead ctx core group sp) s = .next (s.respondDbg (v.setWidth 64))
          ∧ (g.isHalted = true → s.regsWf →
              exec (.dbgWrite ctx core group sp w) s = .next ((s.setGrpAt k (f w)).respondDbg (w.setWidth 64))))
    ∧ (∀ n c L, n < 4096 → csrOf (BitVec.ofNat 12 n) = some c → L < 32 →
        let v := (s.seen k).csr c L
        (∀ high, exec (.dbgRead ctx core group (.csr n L high)) s
          = .next (s.respondDbg ((v.extractLsb' (if high then 32 else 0) 32).setWidth 64)))
        ∧ ∀ (w : Word), g.isHalted = true → s.regsWf → exec (.dbgWrite ctx core group (.csr n L false) w) s
          = .next (match c with
              | .laneFlags => (s.setGrpAt k { g with laneFlags := sput g.laneFlags L (sget g.laneFlags L &&& ~~~ w) }).respondDbg
                  ((sget g.laneFlags L &&& ~~~ w).setWidth 64)
              | .trapEn => (s.setGrpAt k { g with trapEn := w.extractLsb' 0 8 }).respondDbg ((w.extractLsb' 0 8).setWidth 64)
              | .fpMode => (s.setGrpAt k { g with fpMode := w.extractLsb' 0 2 }).respondDbg ((w.extractLsb' 0 2).setWidth 64)
              | _ => s.respondDbg ((v.extractLsb' 0 32).setWidth 64)))
    ∧ (∀ a r c (w : Word), a < 4 → r < 128 → c < 128 → (s.coreAt g.core).mxOwner = some g.block →
        let x := s.coreAt g.core
        exec (.dbgRead ctx core group (.acc a r c)) s = .next (s.respondDbg ((sget (x.accAt a).words (r * 128 + c)).setWidth 64))
        ∧ (g.isHalted = true → swf (x.accAt a).words = true → exec (.dbgWrite ctx core group (.acc a r c) w) s
            = .next (((s.setCoreAt g.core (x.setAcc a { x.accAt a with words := sput (x.accAt a).words (r * 128 + c) w })).dirty
                g.block a).respondDbg (w.setWidth 64))))
    ∧ (∀ t i (w : Word), t < (s.lncAt g.launch).tiles → i < 4 →
        exec (.dbgRead ctx core group (.tile t i)) s = .next (s.respondDbg ((wordN (s.tileAt g.block t).bits i).setWidth 64))
        ∧ (g.isHalted = true → exec (.dbgWrite ctx core group (.tile t i) w) s
            = .next (s.respondDbg ((wordN (s.tileAt g.block t).bits i).setWidth 64))))
    ∧ ∀ sp ∈ [DbgSpace.m 0, .m 8, .xbase 4, .xlimit 4, .xindex 4 0, .xindex 0 32, .csr 0x100 0 false, .csr 0 32 false, .acc 4 0 0,
        .acc 0 128 0, .acc 0 0 128, .tile (s.lncAt g.launch).tiles 0, .tile 0 4, .slotState .A 16, .v 0 32, .v 1024 0],
        exec (.dbgRead ctx core group sp) s = .next (s.respondDbg (BitVec.ofNat 64 (2 ^ 35)))

/-- R234, R236, R237, R239 to R243, R245 to R252, R256 to R263: a near command starts once nothing holds it back, its lines clean
and, where it writes, out of L2; each opcode ends with its completion record, a command out of its format with NEAR_FORMAT; a bank
sequence is checked whole and runs segment by segment; region entries are written and cleared by the partition that owns the
context, at a charge of one sector. The order of starts is the model's choice (log 35), so are the one event in which a whole
CGRA.RUN or IREDUCE runs (log 32) and the status of a foreign command (log 36); that the image check covers disabled elements too
(log 37) and that the charge goes to the named context (log 75) are its readings. -/
def Obligations.NearCommandResults : Prop :=
  (∀ (s : State) (ctx k : Nat) (n : NearCmd) (e : Instr), s.near.find? (fun p => p.2.ctx == ctx && !p.2.started) = some (k, n) →
    s.nearBlocked k n = false → s.bankHeld k n = false → headerClean n.cmd = true → nearOp n.op k = some e →
    ∃ t, exec (.nearCommandStart ctx) s = .next t ∧ tget? t.near k = some { n with started := true }
      ∧ e ∈ t.agenda ∧ .nearCommandStart ctx ∈ t.agenda ∧ t.mem = s.drainAll.mem
      ∧ (∀ p ∈ t.l2, s.inLines n.writes p.1 = false) ∧ (n.op = 0x10 → ∀ p ∈ t.msc, s.inLines n.writes p.1 = false))
  ∧ (∀ (s : State) (k : Nat) (n : NearCmd), s.wf →
    (s.runs k n 0x00 → nearEnded s k n (if bodyZero n.cmd 8 then none else some .nearFormat) 0#4 0 (exec (.nnop k) s))
    ∧ (s.runs k n 0x01 →
        (bodyZero n.cmd 8 = false → nearEnded s k n (some .nearFormat) 0#4 0 (exec (.cgraCfg k) s))
        ∧ (bodyZero n.cmd 8 = true →
          (∀ c, s.nearRead n (n.w 1 * 128) 256 = .error c → nearEnded s k n (some c) 0#4 0 (exec (.cgraCfg k) s))
          ∧ ∀ img u, s.nearRead n (n.w 1 * 128) 256 = .ok (img, u) →
            nearEnded u k n (if imageOk img then none else some .nearFormat) 0#4 0 (exec (.cgraCfg k) s)
            ∧ (imageOk img = true → ∃ t, exec (.cgraCfg k) s = .next t ∧ (⟨n.ctx, img⟩ : CgraCfg) ∈ (t.stationAt n.stn).cfgs)))
    ∧ (s.runs k n 0x02 → n.stalled = false →
        (runClean n.cmd = false → nearEnded s k n (some .nearFormat) 0#4 0 (exec (.cgraRun k) s))
        ∧ (runClean n.cmd = true → (∀ c ∈ (s.stationAt n.stn).cfgs, c.ctx ≠ n.ctx) →
            nearEnded s k n (some .nearNocfg) 0#4 0 (exec (.cgraRun k) s))
        ∧ (runClean n.cmd = true → ∀ cfg a, (s.stationAt n.stn).cfgs.find? (fun c => c.ctx == n.ctx) = some cfg →
            Cg.run n cfg.image (routes cfg.image) (runFuel n.cmd)
              (Cg.start (s.setStationAt n.stn ((s.stationAt n.stn).hold cfg))) = (.done, a) →
            ∃ t, exec (.cgraRun k) s = .next t ∧ t.near = tdel a.s.near k))
    ∧ (s.runs k n 0x02 → n.stalled = true → nearEnded s k n (some .nearStall) n.ev n.count (exec (.nearStall k) s))
    ∧ (s.runs k n 0x03 →
        let r := iredOf n.cmd
        let ok := (r.ok && r.tbl4 % 32 == 0 && r.out4 % 32 == 0 && n.w 13 / 2 == 0 && bodyZero n.cmd 14) = true
        let a := (List.range (r.nidx / r.bag)).foldl (iredBag n r) ⟨s.dropCfg n.stn n.ctx, 0#8, 0, none⟩
        (¬ ok → nearEnded (s.dropCfg n.stn n.ctx) k n (some .nearFormat) 0#4 0 (exec (.ireduce k) s))
        ∧ (ok → exec (.ireduce k) s = .next (a.s.nearFinish k n a.err (nearEv a.ev) a.cnt)))
    ∧ (s.runs k n 0x10 → n.steps = none →
        (bseqClean n = false → nearEnded s k n (some .nearFormat) 0#4 0 (exec (.bseq k) s))
        ∧ (bseqClean n = true →
          (∀ c, s.preCheck n (bseqSteps n) 0 ⟨false, allClosed, 0⟩ = .error c → nearEnded s k n (some c) 0#4 0 (exec (.bseq k) s))
          ∧ (∀ ws, s.preCheck n (bseqSteps n) 0 ⟨false, allClosed, 0⟩ = .ok ws →
            let ch := secondCharge false ws
            exec (.bseq k) s = .next ((s.chargeWhole n.ctx (ceilDiv ch.1 2 + ch.2)).bseqSegment k n ws))))
    ∧ (s.runs k n 0x10 → ∀ ws, n.steps = some ws → exec (.bseq k) s = .next (s.bseqSegment k n ws))
    ∧ ∀ ws,
      (∀ c, State.bldSources n (segment ws).1 s = .error c → nearEnded s k n (some c) n.ev n.count (.next (s.bseqSegment k n ws)))
      ∧ ∀ srcs t, State.bldSources n (segment ws).1 s = .ok (srcs, t) →
        let u := (segment ws).1.foldl (Bcu.step n) ⟨t.bcuOf n, n.abm, srcs, ⟨t, 0#8, 0, none⟩⟩
        let v := u.run.s.setBcu n u.regs
        let atEnd := u.run.err.isSome = true ∨ (segment ws).2 = []
        (atEnd → u.run.s.wf →
          nearEnded v k n u.run.err (n.ev ||| nearEv u.run.ev) (n.count + u.run.cnt) (.next (s.bseqSegment k n ws)))
        ∧ (¬ atEnd → (s.bseqSegment k n ws).mem = u.run.s.mem ∧ (s.bseqSegment k n ws).agenda = u.run.s.agenda ++ [.bseq k]
            ∧ tget? (s.bseqSegment k n ws).near k = some { n with
                steps := some (segment ws).2, abm := u.abm, ev := n.ev ||| nearEv u.run.ev, count := n.count + u.run.cnt }))
  ∧ (∀ (s : State) (part : Nat) (cmd : BitVec 512),
    let c := nearWord cmd 1 % 4096
    let e : Rgn := cmd.extractLsb' 256 256
    let own := (tget? s.ctxs c).isSome = true ∧ (s.ctxAt c).part = part
    let form := headerClean cmd = true ∧ nearWord cmd 1 / 4096 = 0
    let u := s.chargeWhole c 1
    let legal := Rgn.valid e = false
      ∨ (rgnLen e ≠ 0 ∧ s.ownsRange part (rgnBase e) (rgnLen e) = true ∧ s.ownsSet part e = true)
    (own → (s.ctxAt c).mem.open = false →
      exec (.nrtSet part cmd) s = .next (s.hold (.nrtSet part cmd)) ∧ exec (.nrtClear part cmd) s = .next (s.hold (.nrtClear part cmd)))
    ∧ (own → (s.ctxAt c).mem.open = true →
      (form → nearWord cmd 0 % 256 = 0xF0 → nearWord cmd 2 / 256 = 0 → Rgn.clean e = true → legal →
        exec (.nrtSet part cmd) s = .next ((u.setCtxAt c
          { u.ctxAt c with nrt := tput (s.ctxAt c).nrt (nearWord cmd 2 % 256) e }).porchStatus 0))
      ∧ (form → nearWord cmd 0 % 256 = 0xF1 → bodyZero cmd 8 = true →
        exec (.nrtClear part cmd) s = .next ((u.setCtxAt c { u.ctxAt c with nrt := [] }).porchStatus 0))
      ∧ (¬ form → exec (.nrtSet part cmd) s = .next (u.porchStatus (causeCode .nearFormat))
          ∧ exec (.nrtClear part cmd) s = .next (u.porchStatus (causeCode .nearFormat))))
    ∧ (¬ own → exec (.nrtSet part cmd) s = .next (s.porchStatus (causeCode .nearFormat))
        ∧ exec (.nrtClear part cmd) s = .next (s.porchStatus (causeCode .nearFormat))))

/-- R50, R229 to R232, R283 to R288, R292: buckets are refilled each 1,000 ns; the governor moves a quad's cadence by one step
against its share, never below the floor; the current limit climbs and descends the shedding ladder; a lease ends at its expiry; an
unused power unit goes drowsy; a context's buckets take new settings within their ranges at the next refill, and its priority-3
quota at once while the partition's capacity covers all quotas; a charge takes a limited bucket's balance down, to the least number
of 32 bits at most. The power sum's scaling by the square of the supply and that bound are the model's readings (log 54). -/
def Obligations.PowerResults : Prop :=
  (∀ s : State, ∃ t, exec .bucketRefill s = .next t
    ∧ ∀ c x, tget? s.ctxs c = some x → ((∀ p ∈ s.porch.caps, p.2.state ≠ 2) → ∃ y, tget? t.ctxs c = some y
        ∧ refilled x.mem x.memNew y.mem ∧ refilled x.fab x.fabNew y.fab ∧ y.memNew = none ∧ y.fabNew = none))
  ∧ (∀ (s : State) (q k : Nat) (e : Cap), s.cap? 1 q = some (k, e) →
    let share := match s.cap? 0x15 e.owner with | some (_, p) => p.cap | none => 0
    let quads := (s.porch.caps.filter fun p => p.2.type == 1 && p.2.owner == e.owner && p.2.state == 1).length
    let mv : Int := (s.quadAt q).mv
    let sum : Int := s.quadEnergy q * (mv * mv) * quads
    let budget : Int := (share : Int) * 100000000 * 562500
    let fl := cadenceFloor s.porch.shed
    ∃ t, exec (.governorWindow q) s = .next t ∧ (∀ c, c ∉ coresOfQuad q → t.coreAt c = s.coreAt c)
      ∧ ∀ c ∈ coresOfQuad q,
        let n := (s.coreAt c).mxCadence.toNat
        t.coreAt c = { s.coreAt c with
          mxCadence := BitVec.ofNat 5 (max fl
            (if budget < sum then min 16 (n + 1) else if sum * 10 < budget * 9 ∧ fl < n then n - 1 else n)) })
  ∧ (∀ s : State,
    exec .ilimNAssert s = .next (if s.porch.ilim then s else { s with porch := { s.porch with ilim := true, shedAt := s.timebase.toNat } })
    ∧ exec .ilimNDeassert s
        = .next (if s.porch.ilim then { s with porch := { s.porch with ilim := false, shedAt := s.timebase.toNat } } else s)
    ∧ (∀ d, s.shedDue = some d → d ≤ s.timebase.toNat → ∃ t, exec .sheddingStep s = .next t
        ∧ t.porch.shed = (if s.porch.ilim then s.porch.shed + 1 else s.porch.shed - 1))
    ∧ (∀ d, s.shedDue = some d → s.timebase.toNat < d → exec .sheddingStep s = .next s))
  ∧ (∀ (s : State) (k : Nat) (l : Lease), tget? s.leases k = some l →
    (s.timebase.toNat < l.expiry → exec (.leaseExpiry k) s = .next s)
    ∧ (l.expiry ≤ s.timebase.toNat → ∃ t, exec (.leaseExpiry k) s = .next t ∧ t.leases = tdel s.leases k
        ∧ ∀ q ∈ l.quads, (t.quadAt q).mv = t.setpoint q))
  ∧ (∀ (s : State) (core port unit : Nat), port < 4 → unit < 16 →
    (s.unitHeld core port unit = true → exec (.registerUnitDrowsy core port unit) s = .next (s.setCoreAt core
      { s.coreAt core with drowsy := insertNat (port * 16 + unit) (s.coreAt core).drowsy }))
    ∧ (s.unitHeld core port unit = false → exec (.registerUnitDrowsy core port unit) s = .next s))
  ∧ ∀ (s : State) (ctx r d : Nat), (tget? s.ctxs ctx).isSome = true →
    let okk := (r ≤ 2 ^ 20 ∨ r = 0xFFFFFFFF) ∧ 1 ≤ d ∧ d ≤ 2 ^ 24
    (okk → exec (.ctxBudget ctx (.memory r d)) s = .next ((s.setCtxAt ctx { s.ctxAt ctx with memNew := some (r, d) }).status 0)
      ∧ exec (.ctxBudget ctx (.fabric r d)) s = .next ((s.setCtxAt ctx { s.ctxAt ctx with fabNew := some (r, d) }).status 0))
    ∧ (¬ okk → exec (.ctxBudget ctx (.memory r d)) s = .next (s.status 4) ∧ exec (.ctxBudget ctx (.fabric r d)) s = .next (s.status 4))
    ∧ (∀ u k e, s.cap? 0x14 (s.ctxAt ctx).part = some (k, e) →
      (e.cap < s.quotas (s.ctxAt ctx).part ctx + u → exec (.ctxBudget ctx (.p3quota u)) s = .next (s.status 4))
      ∧ (s.quotas (s.ctxAt ctx).part ctx + u ≤ e.cap → ∃ t, exec (.ctxBudget ctx (.p3quota u)) s = .next t
          ∧ (t.ctxAt ctx).p3quota = u ∧ t.porch.lastStatus = 0))
    ∧ ∀ (b : Bucket) (n : Int), b.rate ≠ 0xFFFFFFFF →
      (b.charge n).balance = max (b.balance - n) (-2147483648) ∧ (b.fits n = true ↔ n = 0 ∨ n ≤ b.balance) ∧ (b.open = true ↔ 0 < b.balance)

namespace Sys2Proof.Machine

/-- What PART.CREATE asks of its operands (R279). -/
def State.partLegal (s : State) (p : Nat) (res : List Resource) (image imageLen : Nat) : Prop :=
  p < 8 ∧ tget? s.porch.parts p = none ∧ res.eraseDups = res ∧ countType res 3 ≠ 0 ∧ countType res 2 ≠ 0 ∧ countType res 4 = 1
    ∧ countType res 5 = 1 ∧ rangeIn res image imageLen = true

/-- The minima of the partitions with a new one's fit the capacity that is not RETIRED (R282). -/
def State.minimaFit (s : State) (minQuads minGiB : Nat) : Prop :=
  s.porch.minimaShort = false ∧ s.minima 0x11 8 + minQuads ≤ s.capacityOf 1 ∧ s.minima 0x12 8 + minGiB ≤ 4 * s.capacityOf 2

/-- What PART.SHRINK asks of its operands (R279). -/
def State.shrinkLegal (s : State) (p : Nat) (res : List Resource) : Prop :=
  (tget? s.porch.parts p).isSome = true ∧ res.eraseDups = res
    ∧ (∀ r ∈ res, ∃ k c, s.resCap r = some (k, c) ∧ c.owner = p ∧ c.state = 1)
    ∧ countType res 4 = 0 ∧ countType res 5 = 0 ∧ countType res 3 < s.held p 3 ∧ countType res 2 < s.held p 2

/-- The quads a list names. -/
def quadsIn (res : List Resource) : List Nat := res.filterMap fun r => match r with | .quad q => some q | _ => none

/-- Bytes of this package at a physical address, once written. -/
def wrote (s : State) (pa : Nat) (data : List Byte) (t : State) : Prop :=
  t.mem = writeBytes s.mem (paOff pa) data ∧ t.groups = s.groups ∧ (s.wf → holdsBytes t.mem (paOff pa) data)

/-- Combined atomics on one location, one lane's after another's: each one's old bytes, and the bytes left at the end (R119). -/
def atomRun (fn : Nat) (sz : Size) : List Byte → List (DWord × DWord) → List (List Byte) × List Byte
  | old, [] => ([], old)
  | old, o :: os => (old :: (atomRun fn sz (atomBytes fn sz old o.1 o.2) os).1, (atomRun fn sz (atomBytes fn sz old o.1 o.2) os).2)

end Sys2Proof.Machine

open Sys2Proof Sys2Proof.Machine

/-- R278 to R282: the manager's commands with their statuses: a partition is created with its image measured and its lowest hall
core started, grows, shrinks unless a cooperative launch or a halted context stands in the way, and is destroyed with its contexts
killed; a table entry's fields are set; a failing quad or station is retired and the contexts that use it are killed. The order of
the statuses and the moment a drained resource becomes FREE are the model's readings (log 52), and so are the walk that finds the
contexts that own a page in a station and the refusal of a minimum that cannot be met (log 53). -/
def Obligations.PartitionResults : Prop :=
  (∀ (s : State) (p : Nat) (res : List Resource) (mq mg image len entry : Nat),
    let i := Instr.partCreate p res mq mg image len entry
    (s.porch.minimaShort = true → exec i s = .next (s.status 2))
    ∧ (s.porch.minimaShort = false → ¬ s.partLegal p res image len → exec i s = .next (s.status 4))
    ∧ (s.porch.minimaShort = false → s.partLegal p res image len →
      (s.allFree res = false → exec i s = .next (s.status 1))
      ∧ (s.allFree res = true →
        (¬ s.minimaFit mq mg → exec i s = .next (s.status 2))
        ∧ (s.minimaFit mq mg → ∃ t, exec i s = .next t ∧ t.porch.lastStatus = 0
            ∧ tget? t.porch.parts p
                = some { imageDigest := Config.sm3 (readBytes s.mem image len), entry := entry, fpCmd := 0#128, fpStatus := 0, powerSet := false }
            ∧ (∃ h, Resource.hall h ∈ res ∧ (∀ h', Resource.hall h' ∈ res → h ≤ h')
                ∧ tget? t.porch.harts h = some { part := p, entry := entry, started := true, mode := .supervisor })
            ∧ t.mem = s.mem ∧ t.groups = s.groups))))
  ∧ (∀ (s : State) (p : Nat) (res : List Resource),
    let ok := (tget? s.porch.parts p).isSome = true ∧ res.eraseDups = res ∧ countType res 4 = 0 ∧ countType res 5 = 0
    (¬ ok → exec (.partGrow p res) s = .next (s.status 4))
    ∧ (ok → s.allFree res = false → exec (.partGrow p res) s = .next (s.status 1))
    ∧ (ok → s.allFree res = true → exec (.partGrow p res) s = .next ((((s.assign p res).refreshPart p).activate p).status 0)))
  ∧ (∀ (s : State) (p : Nat) (res : List Resource),
    let stays := s.coopFits p ((s.partQuads p).filter fun q => !(quadsIn res).contains q) = false
      ∨ (s.ctxsOn (quadsIn res)).any s.hasHalted = true
    (¬ s.shrinkLegal p res → exec (.partShrink p res) s = .next (s.status 4))
    ∧ (s.shrinkLegal p res → stays → exec (.partShrink p res) s = .next (s.status 3))
    ∧ (s.shrinkLegal p res → ¬ stays → ∃ t u v : State, exec (.partShrink p res) s = .next t ∧ t.porch.lastStatus = 0
        ∧ t = ((u.refreshPart p).finishDrains).status 0 ∧ u = (s.ctxsOn (quadsIn res)).foldl State.preempt v
        ∧ { v with porch := s.porch, near := s.near } = s))
  ∧ (∀ (s : State) (p : Nat),
    (tget? s.porch.parts p = none → exec (.partDestroy p) s = .next (s.status 4))
    ∧ ((tget? s.porch.parts p).isSome = true → ∃ t u : State, exec (.partDestroy p) s = .next t ∧ t = u.finishDrains.status 0
        ∧ ∀ c x, tget? s.ctxs c = some x → x.part = p → (u.ctxAt c).killed = true))
  ∧ (∀ (s : State) (k : Nat) (c : Cap) (value : Word), tget? s.porch.caps k = some c →
    let v := value.toNat
    exec (.capSet k .ucost value) s = .next ((s.setCap k { c with ucost := v }).status 0)
    ∧ (c.type ≠ 0x11 → c.type ≠ 0x12 → exec (.capSet k .min value) s = .next (s.status 4))
    ∧ (c.type = 0x11 ∨ c.type = 0x12 → v ≤ c.min → ∃ t, exec (.capSet k .min value) s = .next t
        ∧ tget? t.porch.caps k = some { c with min := v } ∧ t.porch.lastStatus = 0)
    ∧ (c.type = 0x11 ∨ c.type = 0x12 → c.min < v → s.porch.minimaShort = true ∨ (s.setCap k { c with min := v }).minimaExceed = true →
        exec (.capSet k .min value) s = .next (s.status 2))
    ∧ (0x13 ≤ c.type → c.type ≤ 0x15 → ∃ t, exec (.capSet k .cap value) s = .next t
        ∧ tget? t.porch.caps k = some { c with cap := v, used := if c.type = 0x15 then v else c.used } ∧ t.porch.lastStatus = 0)
    ∧ (c.type < 0x13 ∨ 0x15 < c.type → exec (.capSet k .cap value) s = .next (s.status 4)))
  ∧ ∀ (s : State) (n k : Nat) (c : Cap), c.state ≠ 3 →
    (s.resCap (.quad n) = some (k, c) → ∃ t u : State, exec (.resourceRetire (.quad n)) s = .next t ∧ t = u.retired k c
      ∧ (t.quadAt n).retired = true ∧ t.porch.ready.getLsbD (48 + n) = false
      ∧ ∀ b ∈ s.blocks, quadOfCore b.2.core = n → (u.ctxAt b.2.ctx).killed = true)
    ∧ (s.resCap (.station n) = some (k, c) → ∃ t u : State, exec (.resourceRetire (.station n)) s = .next t ∧ t = u.retired k c
      ∧ ∀ x ∈ s.ctxs, s.ownsPage x.1 n = true → (u.ctxAt x.1).killed = true)

/-- R4, R103, R136, R275, R289, R293 to R299: accesses from outside wait for a line that something holds, reach the partition's
stations and no others, and write exactly their bytes; the command in a partition's window runs when its last word is written;
READY is read in BAR 0; a packet of another package runs at its line; links, routes, frames, drives and soft errors change what
their rules name. That what waits tries again in its order is the model's choice (log 57). -/
def Obligations.OutsideResults : Prop :=
  (∀ (s : State) (part off len : Nat) (data : List Byte),
    let w := Instr.hostWrite (.memory part) off (.write data)
    (tget? s.porch.parts part = none ∨ s.barAddr part off data.length = none →
      ∃ t, exec w s = .next t ∧ t.porch.reply = .unsupported ∧ t.mem = s.mem)
    ∧ (tget? s.porch.parts part = none ∨ s.barAddr part off len = none →
      ∃ t, exec (.hostRead (.memory part) off len) s = .next t ∧ t.porch.reply = .unsupported ∧ t.mem = s.mem)
    ∧ ∀ pa, (tget? s.porch.parts part).isSome = true →
      (s.barAddr part off data.length = some pa →
        (s.lineHeld [(pa, data.length)] = true → exec w s = .next (s.hold w))
        ∧ (s.lineHeld [(pa, data.length)] = false → ∃ t, exec w s = .next t ∧ wrote s pa data t))
      ∧ (s.barAddr part off len = some pa → s.lineHeld [(pa, len)] = false → ∃ t, exec (.hostRead (.memory part) off len) s = .next t
          ∧ t.porch.reply = .data (s.physRead pa len) (s.poisonIn pa len) ∧ t.mem = s.mem)
      ∧ (∀ (fn : Nat) (wide : Bool) (x y : DWord),
        let n := if wide then 8 else 4
        let i := Instr.hostWrite (.memory part) off (.atom fn wide x y)
        s.barAddr part off n = some pa →
        (hostOpLegal (.atom fn wide x y) = false → ∃ t, exec i s = .next t ∧ t.porch.reply = .unsupported ∧ t.mem = s.mem)
        ∧ (hostOpLegal (.atom fn wide x y) = true → pa % n = 0 → s.lineHeld [(pa, n)] = false → s.poisoned pa = false →
            ∃ t, exec i s = .next t ∧ t.porch.reply = .data (s.physRead pa n) []
              ∧ wrote s pa (atomBytes fn (if wide then .b64 else .b32) (s.physRead pa n) x y) t)))
  ∧ (∀ (s : State) (part : Nat) (x : Part) (off len : Nat), tget? s.porch.parts part = some x →
    (off + len ≤ 65536 → ∃ t, exec (.hostRead (.window part) off len) s = .next t ∧ t.mem = s.mem ∧ t.groups = s.groups
      ∧ t.porch.reply = .data ((List.range len).map fun i => s.windowByte part (off + i)) [])
    ∧ (∀ (data : List Byte), data.length = 16 →
      let w := Instr.hostWrite (.window part) 0x100 (.write data)
      let cmd := BitVec.ofNat 128 (leNat data)
      let u : State := { s with porch := { s.porch with parts := tput s.porch.parts part { x with fpCmd := cmd } } }
      ∀ p ∈ [(1, Instr.fqPop part cmd), (2, .ctxResume part cmd), (3, .ctxKill part cmd)], fpOp cmd = p.1 →
        ∃ v, exec p.2 u = .next v ∧ exec w s = .next (v.answer (.data [] []))))
  ∧ (∀ (s : State) (off len : Nat), 0x100 ≤ off → off + len ≤ 0x110 →
    ∃ t, exec (.hostRead .porch off len) s = .next t ∧ t.mem = s.mem ∧ t.groups = s.groups
      ∧ t.porch.reply = .data ((List.range len).map fun i => byteAt s.porch.ready.toNat (off - 0x100 + i)) [])
  ∧ (∀ (s : State) (pa n : Nat) (data : List Byte), s.ownPa pa = true →
    (s.ownPa (pa + n - 1) = true → s.lineHeld [(pa, n)] = false → ∃ t, exec (.remoteRequestArrive (.load pa n)) s = .next t
      ∧ t.porch.reply = .data (s.physRead pa n) (s.poisonIn pa n) ∧ t.mem = s.mem)
    ∧ (∀ bad, s.ownPa (pa + data.length - 1) = true → s.lineHeld [(pa, data.length)] = false →
      ∃ t, exec (.remoteRequestArrive (.store pa data bad)) s = .next t ∧ wrote s pa data t
        ∧ ∀ i ∈ bad, t.badSector (paOff pa / 64 + i) = true)
    ∧ (∀ (fn : Nat) (wide : Bool) (ops : List (DWord × DWord)),
      let k := if wide then 8 else 4
      let r := atomRun fn (if wide then .b64 else .b32) (s.physRead pa k) ops
      s.wf → s.ownPa (pa + k - 1) = true → s.lineHeld [(pa, k)] = false → s.poisoned pa = false →
        ∃ t, exec (.remoteRequestArrive (.atom fn wide pa ops)) s = .next t ∧ t.porch.reply = .data r.1.flatten []
          ∧ t.groups = s.groups ∧ holdsBytes t.mem (paOff pa) r.2
          ∧ ∀ a, a < paOff pa ∨ paOff pa + k ≤ a → readByte t.mem a = readByte s.mem a)
    ∧ (∀ p : FarPacket, p.line * 128 = pa → s.ownPa (pa + 127) = true → s.lineHeld [(pa, 128)] = false →
      ∃ t v f c b, exec (.remoteRequestArrive (.packet p)) s = .next t ∧ t.porch.reply = .landed v f c b ∧ t.groups = s.groups
        ∧ (b ≠ none → t.mem = s.mem))
    ∧ (s.ownPa (pa + n - 1) = false → ∃ t, exec (.remoteRequestArrive (.load pa n)) s = .next t
      ∧ t.porch.reply = .paRange ∧ t.mem = s.mem))
  ∧ (∀ (s : State) (link : Nat), exec (.linkFlitRetry link) s = .next s
    ∧ (link < 18 → ∃ t, exec (.linkDown link) s = .next t ∧ t.porch.linksUp.getLsbD link = false
        ∧ t.porch.ready.getLsbD (9 + link) = false
        ∧ (∀ l, l < 18 → l ≠ link → t.porch.linksUp.getLsbD l = s.porch.linksUp.getLsbD l) ∧ t.groups = s.groups ∧ t.mem = s.mem))
  ∧ (∀ (s : State) (presence : BitVec 432) (routes : List (Nat × List Nat)),
    exec (.routeTableSet presence routes) s = .next { s with porch := { s.porch with presence := presence, routes := routes } })
  ∧ (∀ (s : State) (port pa : Nat) (frame : List Byte) (k : Nat) (c : Cap), s.cap? 4 port = some (k, c) → frame.length ≤ 9216 →
    (c.state = 0 → exec (.ethernetFrameReceive port pa frame) s
      = .next { s with porch := { s.porch with frames := s.porch.frames ++ [(port, frame)] } })
    ∧ (c.state = 1 → s.partBytes c.owner pa frame.length = true → s.lineHeld [(pa, frame.length)] = false →
      ∃ t, exec (.ethernetFrameReceive port pa frame) s = .next t ∧ wrote s pa frame t)
    ∧ (c.state = 1 → s.partBytes c.owner pa frame.length = false → exec (.ethernetFrameReceive port pa frame) s = .next s))
  ∧ (∀ (s : State) (ns pa : Nat) (data : List Byte) (k : Nat) (c : Cap), s.cap? 5 ns = some (k, c) → c.state = 1 →
    (s.partBytes c.owner pa data.length = true → s.lineHeld [(pa, data.length)] = false →
      (∃ t, exec (.nvmeDataTransfer ns pa data.length data false) s = .next t ∧ wrote s pa data t ∧ t.porch.nvmeError = false)
      ∧ ∃ t, exec (.nvmeDataTransfer ns pa data.length [] true) s = .next t ∧ t.mem = s.mem ∧ t.porch.nvmeError = false
          ∧ t.porch.reply = .data (s.physRead pa data.length) (s.poisonIn pa data.length))
    ∧ (∀ b, s.partBytes c.owner pa data.length = false →
      ∃ t, exec (.nvmeDataTransfer ns pa data.length data b) s = .next t ∧ t.mem = s.mem ∧ t.porch.nvmeError = true))
  ∧ ∀ (s : State) (n : Nat),
    let up := fun (w : Word) => if w = 0xFFFFFFFF#32 then w else w + 1#32
    (∃ t, exec (.softError (.core n) .corrected) s = .next t
      ∧ t = s.setCoreAt n { s.coreAt n with errC := up (s.coreAt n).errC })
    ∧ (∀ pa, ∃ t, exec (.softError (.core n) (.data pa)) s = .next t ∧ t.mem = s.mem ∧ t.poison = s.poison
        ∧ (t.coreAt n).errU = up (s.coreAt n).errU
        ∧ ∀ x, tget? (s.coreAt n).l1 (pa / 64) = some x → tget? (t.coreAt n).l1 (pa / 64) = some { x with poison := true })
    ∧ (∀ pa, s.ownPa pa = true →
      let k := paOff pa / 64
      let same := fun (t : State) => t.mem = s.mem ∧ t.groups = s.groups ∧ ∀ j, j ≠ k → t.badSector j = s.badSector j
      (∃ t, exec (.softError (.slice n) (.data pa)) s = .next t ∧ same t ∧ (s.l2Has k = true → t.badSector k = true)
        ∧ (s.l2Has k = false → t.badSector k = s.badSector k))
      ∧ (∃ t, exec (.softError (.station n) (.data pa)) s = .next t ∧ same t ∧ (t.stationAt n).errU = up (s.stationAt n).errU
        ∧ (s.l2Has k = true → t.badSector k = s.badSector k)
        ∧ (s.l2Has k = false → s.mscHas k = true → t.badSector k = true))
      ∧ ∃ t, exec (.softError (.channel n) (.data pa)) s = .next t ∧ same t ∧ k ∈ t.poison
        ∧ (s.l2Has k = true ∨ s.mscHas k = true → t.badSector k = s.badSector k)
        ∧ (s.l2Has k = false → s.mscHas k = false → t.badSector k = true))
    ∧ (∀ b x off, tget? s.blocks b = some x → ∃ t, exec (.softError (.core n) (.scratch b off)) s = .next t
        ∧ (t.blkAt b).scratchPoison.contains (off / 64) = true)
    ∧ (∀ g x, tget? s.groups g = some x → ∃ t, exec (.softError (.core n) (.groupState g)) s = .next t
        ∧ (t.ctxAt x.ctx).killed = true)
    ∧ (∀ b x, tget? s.blocks b = some x → ∃ t, exec (.softError (.core n) (.tileEntry b)) s = .next t
        ∧ (t.ctxAt x.ctx).killed = true)
    ∧ exec (.errorCounterClear (.core n) true) s = .next (s.setCoreAt n { s.coreAt n with errC := 0#32 })
    ∧ exec (.errorCounterClear (.core n) false) s = .next (s.setCoreAt n { s.coreAt n with errU := 0#32 })

/-- R281, R282, R297, R300 to R302: package reset keeps the flash, the fuses, the ROM and the package's number, and runs the flash
image where it verifies; a mailbox image runs only while no firmware does; an image is written to flash only when it verifies; a
function's READY bit brings its resource as FREE, the firmware's only while firmware runs; harts are started, in supervisor mode,
within their partition; an attestation is the signed report. What package reset keeps, that FLASH.WRITE and ATTEST answer the
statuses 0 and 4, and the report's layout are the model's choices (log 55). -/
def Obligations.BootResults : Prop :=
  (∀ s : State, ∃ t, exec .packageReset s = .next t ∧ t.pkgId = s.pkgId ∧ t.porch.flash = s.porch.flash
    ∧ t.porch.fusedHash = s.porch.fusedHash ∧ t.porch.romVersion = s.porch.romVersion ∧ t.groups = [] ∧ t.ctxs = []
    ∧ t.launches = [] ∧ t.queues = [] ∧ t.cores = [] ∧ t.porch.parts = []
    ∧ (s.porch.verifies s.porch.flash = true → t.porch.running = some s.porch.flash ∧ t.porch.ready = 1#128)
    ∧ (s.porch.verifies s.porch.flash = false → t.porch.running = none ∧ t.porch.ready = 0#128))
  ∧ (∀ (s : State) (img : BootImage),
    (s.porch.running = none → s.porch.verifies img = true → ∃ t, exec (.mailboxImage img) s = .next t
      ∧ t.porch.running = some img ∧ t.porch.ready = s.porch.ready ||| 1#128 ∧ t.porch.flash = s.porch.flash)
    ∧ (s.porch.running ≠ none ∨ s.porch.verifies img = false → exec (.mailboxImage img) s = .next s)
    ∧ (s.porch.verifies img = true → exec (.flashWrite img) s = .next ({ s with porch := { s.porch with flash := img } }.status 0))
    ∧ (s.porch.verifies img = false → exec (.flashWrite img) s = .next (s.status 4)))
  ∧ (∀ (s : State) (bit : Nat) (ns : List (Nat × Nat)), readyBit bit = true → s.porch.ready.getLsbD bit = false →
    (bit = 0 → s.porch.running.isSome = true) →
    (48 ≤ bit → (s.quadAt (bit - 48)).retired = false) → ∃ t, exec (.functionReady bit ns) s = .next t
      ∧ t.porch.ready = s.porch.ready ||| BitVec.ofNat 128 (2 ^ bit)
      ∧ (48 ≤ bit → s.cap? 1 (bit - 48) = none → s.freeEntry ≠ none → ∃ k c, t.cap? 1 (bit - 48) = some (k, c) ∧ c.state = 0))
  ∧ (∀ (s : State) (part hart entry : Nat) (h : Hart), tget? s.porch.harts hart = some h →
    (h.part = part → h.started = false → exec (.hartStart part hart entry) s
      = .next { s with porch := { s.porch with harts := tput s.porch.harts hart { h with entry := entry, started := true, mode := .supervisor } } })
    ∧ (h.part ≠ part ∨ h.started = true → exec (.hartStart part hart entry) s = .next s))
  ∧ ∀ (s : State) (part : Option Nat) (nonce : List Byte),
    let known := ∀ k, part = some k → (tget? s.porch.parts k).isSome = true
    (nonce.length = 32 → known → exec (.attest part nonce) s
      = .next ({ s with porch := { s.porch with lastReport := s.porch.report part nonce } }.status 0)
      ∧ ∃ body, s.porch.report part nonce = body ++ Config.deviceSign body ∧ nonce <+: body)
    ∧ (nonce.length ≠ 32 ∨ ¬ known → exec (.attest part nonce) s = .next (s.status 4))

namespace Sys2Proof.Machine

/-- An instruction in each of these positions writes register `L` of entry `e` (R38, R39, R46). -/
def Group.writesEntry (g : Group) (o : Opd) (w : Nat) (E : Lanes) (e : Nat) (L : Lane) : Bool :=
  laneIn E L &&
    match o with
    | .v k => decide (k.val ≤ e) && decide (e < k.val + w)
    | .vx k => decide (g.vxEntry k L ≤ e) && decide (e < g.vxEntry k L + w)
    | _ => false

/-- Only `w` registers from the destination on, in the lanes `E`, and with `ev` those lanes' event bits, may have changed: no
other register, nothing outside the group, no byte of memory. -/
def keepsOthers (s t : State) (o : Opd) (w : Nat) (E : Lanes) (ev : Bool) : Prop :=
  { t.grp.regs with v := s.grp.v, annex := s.grp.annex, s := s.grp.s, laneFlags := s.grp.laneFlags } = s.grp.regs
  ∧ (∀ n, namesS o w n = false → sget t.grp.s n = sget s.grp.s n)
  ∧ (∀ e L, L < 32 → s.grp.writesEntry o w E e L = false → t.grp.entry e L = s.grp.entry e L)
  ∧ (∀ L, (ev && laneIn E L) = false → sget t.grp.laneFlags L = sget s.grp.laneFlags L)
  ∧ onlyGroup s t ∧ sameMemory s t

/-- Only the bits of the lanes `E` in one mask register, and with `ev` those lanes' event bits, may have changed (R43). -/
def keepsOtherMasks (s t : State) (o : Opd) (E : Lanes) (ev : Bool) : Prop :=
  { t.grp.regs with m := s.grp.m, laneFlags := s.grp.laneFlags } = s.grp.regs
  ∧ (∀ n, namesV o 1 n = false → sget t.grp.m n = sget s.grp.m n)
  ∧ (∀ n L, laneIn E L = false → laneIn (sget t.grp.m n) L = laneIn (sget s.grp.m n) L)
  ∧ (∀ L, (ev && laneIn E L) = false → sget t.grp.laneFlags L = sget s.grp.laneFlags L)
  ∧ onlyGroup s t ∧ sameMemory s t

/-- Class-S instructions that write a scalar of `w` registers (R58 to R61). -/
noncomputable def scalarWriters (x : RegF) : List (Instr × RegRow × Nat) :=
  scalarTable.map (fun p => (p.1 x, rSSS, 1)) ++ compareTable.map (fun p => (p.1 x, rSSS, 1))
    ++ maskScalarTable.map (fun p => (p.1 x, p.2.1, 1))
    ++ [(.smovB32 x, rSS, 1), (.spopcB32 x, rSS, 1), (.sclzB32 x, rSS, 1), (.saddB64 x, rSS64, 2), (.ssubB64 x, rSS64, 2),
        (.smadI32 x, rSSSS, 1), (.sselB32 x, rSSSS, 1)]

/-- Class-V instructions that write `w` registers of each executing lane, and whether they raise events (R79 to R84, R151). -/
noncomputable def vectorWriters (x : RegF) : List (Instr × RegRow × Nat × Bool) :=
  vectorTable.map (fun p => (p.1 x, rVVV, 1, false)) ++ vectorTable1.map (fun p => (p.1 x, rVV, 1, false))
    ++ vectorTable3.map (fun p => (p.1 x, rVVVV, 1, false)) ++ floatTable.map (fun p => (p.1 x, p.2.1, 1, true))
    ++ [false, true].flatMap (fun bf => packedTable.map fun p => (p.1 x bf, p.2.1, 1, true))
    ++ [(.vaddB64 x, rV64, 2, false), (.vsubB64 x, rV64, 2, false), (.vmadwI32 x, rMadw, 2, false), (.vmadwB32 x, rMadw, 2, false),
        (.vxtrB32 x, rVVV, 1, false), (.vxtrI32 x, rVVV, 1, false), (.vdivI32 x, rVVV, 1, true), (.vremI32 x, rVVV, 1, true),
        (.vdivB32 x, rVVV, 1, true), (.vremB32 x, rVVV, 1, true), (.vdivremI32 x, rDivrem, 2, true),
        (.vdivremB32 x, rDivrem, 2, true)]

/-- What a class-V register-form instruction leaves alone, with `ev` unless it traps: everything but its destination in the executing lanes and
those lanes' events. -/
def laneFrame (i : RegF → Instr) (r : RegRow) (ok : RegF → Bool) (ev : Bool) : Prop :=
  ∀ (x : RegF) (s t : State), s.goesOn true (regForm r x (ok x) s) = true → exec (i x) s = .next t →
    keepsOthers s t x.d 1 (s.execLanes x.guard x.ginv) ev ∨ ev = true ∧ ∃ r, t = s.takeTrap r

/-- Every register-form word of the spec's worked encodings that is written out here, with its instruction. -/
noncomputable def spelledWords : List (IWord × Instr) :=
  [(0#96, .nop),
   (0x01000C3C4C50000000000000#96,
     .saddI32 ⟨0#3, false, .s 3, .s 4, .s 5, opdZero, false, false, false, false, false, false, 0#2, 0#5, 0#2⟩),
   (0x210000307000001000000000#96, .vaddI32Imm ⟨0#3, false, .v 3, .v 7, 0x100#32⟩),
   (0x4004508090A0800000000000#96,
     .vfmaF32 ⟨2#3, true, .v 8, .v 9, .v 10, .v 8, false, false, false, false, false, false, 0#2, 0#5, 0#2⟩),
   (0x700000CC4000045000040000#96,
     .ldG ⟨0#3, false, .v 12, .s 4, opdZero, opdZero, .b32, .acq, .die, .default, 0x40#20⟩ false),
   (0x050000000000000005FFFFA0#96,
     .bra ⟨0#3, false, opdZero, opdZero, 0#3, 0#20, 0#3, false, 2#3, 0xFFFFD#20⟩),
   (0xA0000C500000000040000000#96, .barArrive ⟨0#3, false, .s 5, opdZero, opdZero, opdZero, 0#6, 0#2, 0#4, .die⟩ 0#4),
   (0xE0000C200010000000000000#96, .csrr ⟨0#3, false, .s 2, opdZero, 0x010#12, opdZero, 0#16⟩)]

end Sys2Proof.Machine

open Sys2Proof Sys2Proof.Machine

/-- R43, R52, R57 to R61, R79 to R84, R151, R152, R159: what these instructions leave alone: they have no memory effect and no
order against memory accesses. A scalar result writes its destination registers and nothing else; a vector result writes its
destination in the executing lanes, and its events in their LANE_FLAGS, unless it traps; a mask result writes the bits of its lanes
in one mask register. Everything else stands: every other register, every other lane, every other group, all of memory. -/
def Obligations.RegisterFrames : Prop :=
  (∀ (x : RegF) (s t : State), ∀ p ∈ scalarWriters x, s.goesOn false (regForm p.2.1 x true s) = true →
    exec p.1 s = .next t → keepsOthers s t x.d p.2.2 1#32 false)
  ∧ (∀ (x : ImmF) (s t : State), ∀ p ∈ scalarTable, s.goesOn false (immForm iSS x s) = true →
    exec (p.2.1 x) s = .next t → keepsOthers s t x.d 1 1#32 false)
  ∧ (∀ (x : RegF) (s t : State), ∀ p ∈ vectorWriters x, s.goesOn true (regForm p.2.1 x true s) = true →
    exec p.1 s = .next t →
    keepsOthers s t x.d p.2.2.1 (s.execLanes x.guard x.ginv) p.2.2.2 ∨ p.2.2.2 = true ∧ ∃ r, t = s.takeTrap r)
  ∧ (∀ (x : ImmF) (s t : State), ∀ p ∈ vectorTable, s.goesOn true (immForm iVV x s) = true →
    exec (p.2.1 x) s = .next t → keepsOthers s t x.d 1 (s.execLanes x.guard x.ginv) false)
  ∧ (∀ p ∈ roundedTable, ∀ rms, laneFrame (fun x => p.1 x rms) p.2.1 (fun _ => true) true)
  ∧ (∀ hi, laneFrame (fun x => .vcvtF32F16 x hi) rCvtN (fun _ => true) true
      ∧ laneFrame (fun x => .vcvtF32Bf16 x hi) rCvtN (fun _ => true) true)
  ∧ (∀ ex, laneFrame (fun x => .vcvtF32Fmt x ex) (rFromElem ex) (fun _ => true) true
      ∧ laneFrame (fun x => .vcvtFmtF32 x ex) rCvtE (fun x => x.clamp == 0#2 || x.clamp == 3#2) true)
  ∧ (∀ k, laneFrame (fun x => .vselB32 x k) rVVV (fun _ => true) false)
  ∧ (∀ (x : ImmF) (s t : State), ∀ p ∈ floatImmTable, s.goesOn true (immForm iVV x s) = true → exec (p.1 x) s = .next t →
    keepsOthers s t x.d 1 (s.execLanes x.guard x.ginv) true ∨ ∃ r, t = s.takeTrap r)
  ∧ (∀ (x : ImmF) (s t : State), (s.goesOn true (immForm iV x s) = true → exec (.vmovB32Imm x) s = .next t →
      keepsOthers s t x.d 1 (s.execLanes x.guard x.ginv) false)
    ∧ (s.goesOn false (immForm iS x s) = true → exec (.smovB32Imm x) s = .next t → keepsOthers s t x.d 1 1#32 false))
  ∧ (∀ (x : RegF) (s t : State), s.regsWf → ∀ p ∈ maskTable, s.goesOn false (regForm p.2.1 x true s) = true →
    exec (p.1 x) s = .next t → keepsOtherMasks s t x.d s.passLanes false)
  ∧ (∀ (x : RegF) (comb : BitVec 2) (s t : State), s.regsWf →
    (∀ p ∈ compareTable, s.goesOn true (regForm rCmp x true s) = true →
      exec (p.2.1 x comb) s = .next t → keepsOtherMasks s t x.d (s.execLanes x.guard x.ginv) false)
    ∧ ∀ p ∈ floatCompareTable, s.goesOn true (regForm rFcmp x true s) = true →
      exec (p.1 x comb) s = .next t →
      keepsOtherMasks s t x.d (s.execLanes x.guard x.ginv) true ∨ ∃ r, t = s.takeTrap r)

/-- After the time has passed the slots have the turn: it is theirs, or no unit can move. -/
def slotsDue (t : State) : Prop :=
  t.unitsNext = false ∨ firstMove t.flipTurn t.flipTurn.unitWork = .next t.flipTurn

/-- The next step is slot `u`'s turn, and no event is due to it. -/
def slotHas (s u : State) : Prop :=
  s.agenda = [] ∧ s.tick.schedWork = none ∧ slotsDue s.tick ∧ s.tick.flipTurn.pick = some u ∧ u.slotEvent = none

/-- What a step does at its end: what slots have issued ahead of a header goes on, or is discarded (R125, R177). -/
def settled (o : Host.Outcome State Fault Refusal) : Host.Outcome State Fault Refusal :=
  match o with
  | .next t => .next t.settleAhead
  | r => r

/-- R23, R25 to R27, R37, R177: a step takes the head of the agenda, or the scheduler's move; otherwise the slot whose turn it is
fetches a word of its line, and executes the instruction that word decodes to, or takes the trap of its encoding; a fetch that
faults stops the slot; a slot that waits at a SINK header goes on with a word beyond it. Around the instruction a step does four
things: time has passed (tick), the register units it reads have woken before it and those it has written after it, a debugger's
step ends once the group has moved, and what slots have issued ahead goes on where the header is complete; a slot that could not
change anything leaves the turn to the units it waits for, and slots and units take turns. The order of these is the model's choice
(log 10), and so is what may be issued ahead (log 90). -/
def Obligations.StepRunsDecoded : Prop :=
  (∀ (s : State) (e : Instr) (es : List Instr), s.agenda = e :: es →
    step s = settled (exec e { s.tick with agenda := s.tick.agenda.drop 1 }))
  ∧ (∀ (s : State) (e : Instr), s.agenda = [] → s.tick.schedWork = some e → step s = settled (exec e s.tick))
  ∧ (∀ (s u t : State) (w : IWord), slotHas s u → u.ready = true ∨ u.slot.pending = [] → u.fetched = .ok (w, t) →
      (∀ i, decode w = .ok i → step s = settled (afterTurn u (ranOf t w (exec i (t.wakeFor w)))))
      ∧ ∀ c, decode w = .error c → t.heldBack (wordClass w == .V) = false →
          step s = settled (afterTurn u (.next (t.takeTrap { cause := c, mask := t.wordLanes w }))))
  ∧ (∀ (s u v : State) (x : AheadWord) (i : Instr), slotHas s u → u.ready = false → u.slot.pending ≠ [] →
      u.aheadNext u.gid u.sel = some x →
      (x.kind = .own → decode x.w = .ok i → exec i (x.u.fetchTlb.wakeFor x.w) = .next v →
        step s = settled (afterTurn u (.next (u.aheadKeep u.gid x (x.u.wakeDest x.w v)))))
      ∧ (x.kind ≠ .own → step s = settled (afterTurn u (.next (u.aheadQueue (x.u.fetchTlb.wakeFor x.w) u.gid x)))))
  ∧ (∀ t : State, t.ahead = [] → settled (.next t) = .next t)
  ∧ (∀ u v : State, v ≠ u → u.grp.step = none → afterTurn u (.next v) = .next v)
  ∧ (∀ (s t : State) (w : IWord), { s.wakeFor w with cores := s.cores } = s ∧ { s.wakeDest w t with cores := t.cores } = t)
  ∧ (∀ (u : State) (w : IWord) (uni : Bool), u.fetch = .word w uni →
    ∃ t, u.fetched = .ok (w, t) ∧ { t with cores := u.cores, quads := u.quads, descs := u.descs, uni := u.uni } = u ∧ t.uni = uni)
  ∧ (∀ (u : State) (c : Cause) (va : Nat), u.fetch = .fault c va → u.fetched = .error (u.slotFault c va .fetch))
  ∧ (∀ (s v : State), s.agenda = [] → s.tick.schedWork = none → s.tick.unitsNext = true →
    firstMove s.tick.flipTurn s.tick.flipTurn.unitWork = .next v → v ≠ s.tick.flipTurn → step s = settled (.next v))
  ∧ (∀ (s u t : State), slotHas s u → u.ready = true ∨ u.slot.pending = [] → u.fetched = .error t →
    step s = settled (afterTurn u (.next t)))
  ∧ ∀ (u : State) (p : BitVec 2) (bs : List Byte),
      let line := lineOf u.slot.offset
      let k := slotIn u.slot.offset
      u.grp.occupied u.slot.mask = [p] → u.lnc.lineOk line = true → k ≤ 4 → u.fetchLine u.grp p.toNat line = .ok bs →
      badParity (lineWord bs) = false → parity (slotWord bs k) = (lineWord bs).getLsbD (26 + k) →
      badReserved (lineWord bs) = false → u.fetch = .word (slotWord bs k) ((lineWord bs).getLsbD (5 + k))

/-- R36, R58, R31, R30, R32, R33, R34, R35: words written out from the spec's worked encodings decode to what they stand for. -/
def Obligations.DecodedWords : Prop := ∀ p ∈ spelledWords, decode p.1 = .ok p.2

/-- R30 to R37: decoding the word of a well-formed instruction gives it back, and a word that decodes is the word of a
well-formed instruction: no two words share an instruction, and no bit of an encoding is dropped. -/
def Obligations.DecodeEncodeAgree : Prop :=
  (∀ (i : Instr) (w : IWord), i.wf = true → encode i = some w → decode w = .ok i)
  ∧ ∀ (i : Instr) (w : IWord), decode w = .ok i → i.wf = true ∧ encode i = some w

/-- Every step keeps memory and the scratchpads in canonical form, so that equal contents are equal data. -/
def Obligations.MemoryStaysCanonical : Prop := ∀ s t : State, s.wf → step s = .next t → t.wf

/-- Every step keeps register files in canonical form: those of every group, of the groups that slots have issued ahead of a
header, and the landing codes of every group saved at pre-emption. -/
def Obligations.RegistersStayCanonical : Prop := ∀ s t : State, s.canonical → step s = .next t → t.canonical

/-- R275, R300: after package reset nothing is created or resident and every soft error count is zero. What memory reads then,
and the values the spec does not give, are the model's choice (log 2, log 3). The canonical forms hold. -/
def Obligations.ResetState : Prop :=
  let s := State.reset
  s.wf ∧ s.canonical ∧ s.ahead = [] ∧ s.groups = [] ∧ s.blocks = [] ∧ s.launches = [] ∧ s.queues = [] ∧ s.ctxs = [] ∧ s.porch.parts = []
  ∧ s.porch.caps = [] ∧ s.stores = [] ∧ s.outs = [] ∧ s.near = [] ∧ s.packets = [] ∧ s.l2 = [] ∧ s.msc = [] ∧ s.agenda = []
  ∧ (∀ a, readByte s.mem a = 0#8)
  ∧ (∀ c, s.coreAt c = Core.blank) ∧ Core.blank.errC = 0#32 ∧ Core.blank.errU = 0#32 ∧ Core.blank.staleReturn = 0#32
  ∧ s.porch.channelErrC = [] ∧ s.porch.channelErrU = [] ∧ s.porch.sliceErrC = [] ∧ s.porch.sliceErrU = []

/-- No instruction, event or step stops the machine: each answers a next state in every state, a trap, a wait or a fault record
where the spec has one. That none ends in a fault or a refusal is the model's reading (log 60). -/
def Obligations.EveryStepAnswers : Prop :=
  (∀ (i : Instr) (s : State), ∃ t, exec i s = .next t) ∧ ∀ s : State, ∃ t, step s = .next t
end

