-- ==== Sys2Proof/Laws/Store.lean ====
section
/-! SUPPORT. Laws of the stores and the tables: a read after a write, and that every memory operation keeps the canonical
form. -/

namespace Sys2Proof.Machine

/-! ## Reads after writes -/

theorem sget_sput_ne {n : Nat} (m : Sparse n) (k j : Nat) (x : BitVec n) (h : j ≠ k) : sget (sput m k x) j = sget m j := by
  induction m with
  | nil => simp only [sput]; split <;> simp [sget, Ne.symm h]
  | cons p r ih =>
    obtain ⟨a, b⟩ := p
    simp only [sput]
    split
    · split <;> simp [sget, Ne.symm h]
    · split
      · next h2 => subst h2; split <;> simp [sget, Ne.symm h]
      · simp [sget, ih]

theorem swfFrom_mono {n : Nat} {m : Sparse n} {lo hi : Nat} (h : swfFrom hi m = true) (hl : lo ≤ hi) : swfFrom lo m = true := by
  cases m with
  | nil => rfl
  | cons p r =>
    simp only [swfFrom, Bool.and_eq_true, decide_eq_true_eq] at *
    exact ⟨⟨by omega, h.1.2⟩, h.2⟩

theorem sget_below {n : Nat} (m : Sparse n) (lo k : Nat) (h : swfFrom lo m = true) (hk : k < lo) : sget m k = 0#n := by
  induction m generalizing lo with
  | nil => rfl
  | cons p r ih =>
    simp only [swfFrom, Bool.and_eq_true, decide_eq_true_eq] at h
    simp only [sget]
    rw [if_neg (by omega)]
    exact ih (p.1 + 1) h.2 (by omega)

theorem sget_sput_same {n : Nat} (m : Sparse n) (lo k : Nat) (x : BitVec n) (h : swfFrom lo m = true) :
    sget (sput m k x) k = x := by
  induction m generalizing lo with
  | nil => simp only [sput]; split <;> simp_all [sget]
  | cons p r ih =>
    obtain ⟨a, b⟩ := p
    simp only [swfFrom, Bool.and_eq_true, decide_eq_true_eq] at h
    simp only [sput]
    split
    · next hk =>
      split
      · next hx => subst hx; simp only [sget]; rw [if_neg (by omega)]; exact sget_below r (a + 1) k h.2 (by omega)
      · simp [sget]
    · split
      · next hk =>
        split
        · next hx => subst hx hk; exact sget_below r (k + 1) k h.2 (by omega)
        · simp [sget]
      · next hk hk2 => simp only [sget]; rw [if_neg (by omega)]; exact ih (a + 1) h.2

/-- A byte written reads back, and every other byte reads as before. -/
theorem readByte_writeByte (m : Memory) (a b : Nat) (x : Byte) (h : Memory.wf m = true) :
    readByte (writeByte m a x) b = if b = a then x else readByte m b := by
  split
  · next e => subst e; exact sget_sput_same (n := 8) m 0 b x h
  · next e => exact sget_sput_ne (n := 8) m a b x e

theorem readByte_writeBytes_ne (m : Memory) (a b : Nat) (bs : List Byte) (h : b < a ∨ a + bs.length ≤ b) :
    readByte (writeBytes m a bs) b = readByte m b := by
  induction bs generalizing m a with
  | nil => rfl
  | cons x xs ih =>
    simp only [List.length_cons] at h
    simp only [writeBytes]
    rw [ih (writeByte m a x) (a + 1) (by omega)]
    exact sget_sput_ne (n := 8) m a b x (by omega)

theorem tget?_tput_same {κ α : Type} [DecidableEq κ] (t : Map κ α) (k : κ) (x : α) : tget? (tput t k x) k = some x := by
  induction t with
  | nil => simp [tput, tget?]
  | cons p r ih => obtain ⟨a, y⟩ := p; by_cases h : a = k <;> simp [tput, tget?, h, ih]

theorem tget?_tput_ne {κ α : Type} [DecidableEq κ] (t : Map κ α) (k j : κ) (x : α) (h : j ≠ k) :
    tget? (tput t k x) j = tget? t j := by
  induction t with
  | nil => simp [tput, tget?, Ne.symm h]
  | cons p r ih =>
    obtain ⟨a, y⟩ := p
    by_cases h2 : a = k
    · subst h2; simp [tput, tget?, Ne.symm h]
    · simp [tput, tget?, h2, ih]

theorem tget?_mem {κ α : Type} [DecidableEq κ] {t : Map κ α} {k : κ} {x : α} (h : tget? t k = some x) : (k, x) ∈ t := by
  induction t with
  | nil => simp [tget?] at h
  | cons p r ih =>
    obtain ⟨a, y⟩ := p
    simp only [tget?] at h
    split at h
    · next e => subst e; simp_all
    · exact List.mem_cons_of_mem _ (ih h)

theorem mem_tput {κ α : Type} [DecidableEq κ] {t : Map κ α} {k : κ} {x : α} {p : κ × α} (h : p ∈ tput t k x) :
    p = (k, x) ∨ p ∈ t := by
  induction t with
  | nil => simp [tput] at h; exact .inl h
  | cons q r ih =>
    obtain ⟨a, y⟩ := q
    simp only [tput] at h
    split at h
    · rcases List.mem_cons.mp h with h | h
      · exact .inl h
      · exact .inr (List.mem_cons_of_mem _ h)
    · rcases List.mem_cons.mp h with h | h
      · subst h; exact .inr List.mem_cons_self
      · rcases ih h with h | h
        · exact .inl h
        · exact .inr (List.mem_cons_of_mem _ h)

/-! ## The canonical form is kept -/

theorem swfFrom_sput {n : Nat} (m : Sparse n) (lo k : Nat) (x : BitVec n) (h : swfFrom lo m = true) (hk : lo ≤ k) :
    swfFrom lo (sput m k x) = true := by
  induction m generalizing lo with
  | nil => simp only [sput]; split <;> simp_all [swfFrom]
  | cons p r ih =>
    obtain ⟨a, b⟩ := p
    have h0 := h
    simp only [swfFrom, Bool.and_eq_true, decide_eq_true_eq] at h
    simp only [sput]
    split
    · split
      · exact h0
      · next hx =>
        simp only [swfFrom, Bool.and_eq_true, decide_eq_true_eq]
        exact ⟨⟨hk, by simpa using hx⟩, ⟨by omega, h.1.2⟩, h.2⟩
    · split
      · split
        · exact swfFrom_mono h.2 (by omega)
        · next hx =>
          simp only [swfFrom, Bool.and_eq_true, decide_eq_true_eq]
          exact ⟨⟨hk, by simpa using hx⟩, by subst_vars; exact h.2⟩
      · simp only [swfFrom, Bool.and_eq_true, decide_eq_true_eq]
        exact ⟨h.1, ih (a + 1) h.2 (by omega)⟩

theorem swf_sput {n : Nat} {m : Sparse n} (k : Nat) (x : BitVec n) (h : swf m = true) : swf (sput m k x) = true :=
  swfFrom_sput m 0 k x h (Nat.zero_le k)

theorem swf_sputMany {n : Nat} {m : Sparse n} (f : Nat → BitVec n) (ks : List Nat) (h : swf m = true) :
    swf (sputMany m f ks) = true := by
  induction ks generalizing m with
  | nil => exact h
  | cons k ks ih => exact ih (swf_sput k (f k) h)

theorem writeByte_wf {m : Memory} (a : Nat) (x : Byte) (h : Memory.wf m = true) : Memory.wf (writeByte m a x) = true :=
  swf_sput (n := 8) a x h

theorem writeBytes_wf {m : Memory} (a : Nat) (bs : List Byte) (h : Memory.wf m = true) : Memory.wf (writeBytes m a bs) = true := by
  induction bs generalizing m a with
  | nil => exact h
  | cons x xs ih => exact ih (a + 1) (writeByte_wf a x h)

theorem putBytes_swf {m : Sparse 8} (a : Nat) (bs : List Byte) (h : swf m = true) : swf (putBytes m a bs) = true := by
  induction bs generalizing m a with
  | nil => exact h
  | cons x xs ih => exact ih (a + 1) (swf_sput a x h)

theorem swfFrom_filter {n : Nat} (m : Sparse n) (p : Nat × BitVec n → Bool) (lo : Nat) (h : swfFrom lo m = true) :
    swfFrom lo (m.filter p) = true := by
  induction m generalizing lo with
  | nil => rfl
  | cons q r ih =>
    simp only [swfFrom, Bool.and_eq_true, decide_eq_true_eq] at h
    simp only [List.filter_cons]
    split
    · simp only [swfFrom, Bool.and_eq_true, decide_eq_true_eq]; exact ⟨h.1, ih (q.1 + 1) h.2⟩
    · exact ih lo (swfFrom_mono h.2 (by omega))

theorem swf_sclear {n : Nat} {m : Sparse n} (lo hi : Nat) (h : swf m = true) : swf (sclear m lo hi) = true :=
  swfFrom_filter m _ 0 h

theorem swfFrom_slist {n : Nat} (bs : List (BitVec n)) (k : Nat) : swfFrom k (slist k bs) = true := by
  induction bs generalizing k with
  | nil => rfl
  | cons b bs ih =>
    simp only [slist]
    split
    · exact swfFrom_mono (ih (k + 1)) (by omega)
    · next hb => simp only [swfFrom, Bool.and_eq_true, decide_eq_true_eq]; exact ⟨⟨Nat.le_refl k, by simpa using hb⟩, ih (k + 1)⟩

theorem swf_slist {n : Nat} (k : Nat) (bs : List (BitVec n)) : swf (slist k bs) = true :=
  swfFrom_mono (swfFrom_slist bs k) (Nat.zero_le k)

/-- Two stores joined, every key of the first below a bound that the second starts at. -/
theorem swfFrom_append {n : Nat} (m r : Sparse n) (lo mid : Nat) (hm : swfFrom lo m = true) (hr : swfFrom mid r = true)
    (hk : ∀ p ∈ m, p.1 < mid) (hl : lo ≤ mid) : swfFrom lo (m ++ r) = true := by
  induction m generalizing lo with
  | nil => exact swfFrom_mono hr hl
  | cons p q ih =>
    simp only [swfFrom, Bool.and_eq_true, decide_eq_true_eq] at hm
    simp only [List.cons_append, swfFrom, Bool.and_eq_true, decide_eq_true_eq]
    exact ⟨hm.1, ih (p.1 + 1) hm.2 (fun p hp => hk p (List.mem_cons_of_mem _ hp)) (hk p List.mem_cons_self)⟩

theorem swfFrom_takeWhile {n : Nat} (m : Sparse n) (p : Nat × BitVec n → Bool) (lo : Nat) (h : swfFrom lo m = true) :
    swfFrom lo (m.takeWhile p) = true := by
  induction m generalizing lo with
  | nil => rfl
  | cons q r ih =>
    simp only [swfFrom, Bool.and_eq_true, decide_eq_true_eq] at h
    simp only [List.takeWhile_cons]
    split
    · simp only [swfFrom, Bool.and_eq_true, decide_eq_true_eq]; exact ⟨h.1, ih (q.1 + 1) h.2⟩
    · rfl

theorem swfFrom_dropBelow {n : Nat} (m : Sparse n) (lo hi : Nat) (h : swfFrom lo m = true) :
    swfFrom hi (m.dropWhile fun p => decide (p.1 < hi)) = true := by
  induction m generalizing lo with
  | nil => rfl
  | cons q r ih =>
    simp only [swfFrom, Bool.and_eq_true, decide_eq_true_eq] at h
    simp only [List.dropWhile_cons]
    split
    · exact ih (q.1 + 1) h.2
    · next hq => simp only [swfFrom, Bool.and_eq_true, decide_eq_true_eq] at *; exact ⟨⟨by omega, h.1.2⟩, h.2⟩

theorem slist_keys {n : Nat} (bs : List (BitVec n)) (k : Nat) : ∀ p ∈ slist k bs, p.1 < k + bs.length := by
  induction bs generalizing k with
  | nil => intro p hp; simp [slist] at hp
  | cons b bs ih =>
    intro p hp
    simp only [slist] at hp
    simp only [List.length_cons]
    split at hp
    · have := ih (k + 1) p hp; omega
    · rcases List.mem_cons.mp hp with h | h
      · subst h; simp
      · have := ih (k + 1) p h; omega

theorem swf_sputRange {n : Nat} {m : Sparse n} (lo : Nat) (bs : List (BitVec n)) (h : swf m = true) :
    swf (sputRange m lo bs) = true := by
  have h3 := swfFrom_dropBelow m 0 (lo + bs.length) h
  have h2 : swfFrom lo (slist lo bs ++ m.dropWhile fun p => decide (p.1 < lo + bs.length)) = true :=
    swfFrom_append _ _ lo (lo + bs.length) (swfFrom_slist bs lo) h3 (slist_keys bs lo) (by omega)
  have h1 : ∀ p ∈ m.takeWhile fun p => decide (p.1 < lo), p.1 < lo := by
    intro p hp; simpa using List.mem_takeWhile_imp hp
  simp only [swf, sputRange, List.append_assoc]
  exact swfFrom_append _ _ 0 lo (swfFrom_takeWhile m _ 0 h) h2 h1 (Nat.zero_le lo)

/-- The stores of one instruction, performed one after another, keep the canonical form. -/
theorem foldl_writeBytes_wf (ws : List (Nat × List Byte)) (at_ : Nat → Nat) {m : Memory} (h : Memory.wf m = true) :
    Memory.wf (ws.foldl (fun (m : Memory) w => writeBytes m (at_ w.1) w.2) m) = true := by
  induction ws generalizing m with
  | nil => exact h
  | cons w ws ih => exact ih (writeBytes_wf (at_ w.1) w.2 h)

theorem Block.write_swf (b : Block) (ws : List Write) (h : swf b.scratch = true) : swf (b.write ws).scratch = true := by
  simp only [Block.write]
  generalize b.scratch = m at h
  induction ws generalizing m with
  | nil => exact h
  | cons w ws ih => exact ih (putBytes m w.1 w.2) (putBytes_swf w.1 w.2 h)

end Sys2Proof.Machine
end

