-- ==== Sys2Proof/Laws/State.lean ====
section
/-! SUPPORT. What each update of the state leaves in each field: one lemma a field and update, so that no proof unfolds a
record update. -/

namespace Sys2Proof.Machine

@[simp] theorem State.setGrpAt_gid (s : State) (k : Nat) (g : Group) : (s.setGrpAt k g).gid = s.gid := rfl
@[simp] theorem State.setGrpAt_sel (s : State) (k : Nat) (g : Group) : (s.setGrpAt k g).sel = s.sel := rfl
@[simp] theorem State.setGrpAt_uni (s : State) (k : Nat) (g : Group) : (s.setGrpAt k g).uni = s.uni := rfl
@[simp] theorem State.setGrpAt_timebase (s : State) (k : Nat) (g : Group) : (s.setGrpAt k g).timebase = s.timebase := rfl
@[simp] theorem State.setGrpAt_tickNs (s : State) (k : Nat) (g : Group) : (s.setGrpAt k g).tickNs = s.tickNs := rfl
@[simp] theorem State.setGrpAt_free (s : State) (k : Nat) (g : Group) : (s.setGrpAt k g).free = s.free := rfl
@[simp] theorem State.setGrpAt_agenda (s : State) (k : Nat) (g : Group) : (s.setGrpAt k g).agenda = s.agenda := rfl
@[simp] theorem State.setGrpAt_pkgId (s : State) (k : Nat) (g : Group) : (s.setGrpAt k g).pkgId = s.pkgId := rfl
@[simp] theorem State.setGrpAt_blocks (s : State) (k : Nat) (g : Group) : (s.setGrpAt k g).blocks = s.blocks := rfl
@[simp] theorem State.setGrpAt_launches (s : State) (k : Nat) (g : Group) : (s.setGrpAt k g).launches = s.launches := rfl
@[simp] theorem State.setGrpAt_queues (s : State) (k : Nat) (g : Group) : (s.setGrpAt k g).queues = s.queues := rfl
@[simp] theorem State.setGrpAt_ctxs (s : State) (k : Nat) (g : Group) : (s.setGrpAt k g).ctxs = s.ctxs := rfl
@[simp] theorem State.setGrpAt_cores (s : State) (k : Nat) (g : Group) : (s.setGrpAt k g).cores = s.cores := rfl
@[simp] theorem State.setGrpAt_quads (s : State) (k : Nat) (g : Group) : (s.setGrpAt k g).quads = s.quads := rfl
@[simp] theorem State.setGrpAt_stations (s : State) (k : Nat) (g : Group) : (s.setGrpAt k g).stations = s.stations := rfl
@[simp] theorem State.setGrpAt_bars (s : State) (k : Nat) (g : Group) : (s.setGrpAt k g).bars = s.bars := rfl
@[simp] theorem State.setGrpAt_pods (s : State) (k : Nat) (g : Group) : (s.setGrpAt k g).pods = s.pods := rfl
@[simp] theorem State.setGrpAt_ages (s : State) (k : Nat) (g : Group) : (s.setGrpAt k g).ages = s.ages := rfl
@[simp] theorem State.setGrpAt_descs (s : State) (k : Nat) (g : Group) : (s.setGrpAt k g).descs = s.descs := rfl
@[simp] theorem State.setGrpAt_mem (s : State) (k : Nat) (g : Group) : (s.setGrpAt k g).mem = s.mem := rfl
@[simp] theorem State.setGrpAt_poison (s : State) (k : Nat) (g : Group) : (s.setGrpAt k g).poison = s.poison := rfl
@[simp] theorem State.setGrpAt_l2 (s : State) (k : Nat) (g : Group) : (s.setGrpAt k g).l2 = s.l2 := rfl
@[simp] theorem State.setGrpAt_msc (s : State) (k : Nat) (g : Group) : (s.setGrpAt k g).msc = s.msc := rfl
@[simp] theorem State.setGrpAt_outs (s : State) (k : Nat) (g : Group) : (s.setGrpAt k g).outs = s.outs := rfl
@[simp] theorem State.setGrpAt_stores (s : State) (k : Nat) (g : Group) : (s.setGrpAt k g).stores = s.stores := rfl
@[simp] theorem State.setGrpAt_walks (s : State) (k : Nat) (g : Group) : (s.setGrpAt k g).walks = s.walks := rfl
@[simp] theorem State.setGrpAt_packets (s : State) (k : Nat) (g : Group) : (s.setGrpAt k g).packets = s.packets := rfl
@[simp] theorem State.setGrpAt_ahead (s : State) (k : Nat) (g : Group) : (s.setGrpAt k g).ahead = s.ahead := rfl
@[simp] theorem State.setGrpAt_near (s : State) (k : Nat) (g : Group) : (s.setGrpAt k g).near = s.near := rfl
@[simp] theorem State.setGrpAt_leases (s : State) (k : Nat) (g : Group) : (s.setGrpAt k g).leases = s.leases := rfl
@[simp] theorem State.setGrpAt_evictions (s : State) (k : Nat) (g : Group) : (s.setGrpAt k g).evictions = s.evictions := rfl
@[simp] theorem State.setGrpAt_arrivals (s : State) (k : Nat) (g : Group) : (s.setGrpAt k g).arrivals = s.arrivals := rfl
@[simp] theorem State.setGrpAt_porch (s : State) (k : Nat) (g : Group) : (s.setGrpAt k g).porch = s.porch := rfl
@[simp] theorem State.setGrpAt_deferLoads (s : State) (k : Nat) (g : Group) : (s.setGrpAt k g).deferLoads = s.deferLoads := rfl
@[simp] theorem State.setGrpAt_deferStores (s : State) (k : Nat) (g : Group) : (s.setGrpAt k g).deferStores = s.deferStores := rfl
@[simp] theorem State.setGrpAt_walkAsync (s : State) (k : Nat) (g : Group) : (s.setGrpAt k g).walkAsync = s.walkAsync := rfl
@[simp] theorem State.setGrpAt_lastServed (s : State) (k : Nat) (g : Group) : (s.setGrpAt k g).lastServed = s.lastServed := rfl
@[simp] theorem State.setGrpAt_unitsNext (s : State) (k : Nat) (g : Group) : (s.setGrpAt k g).unitsNext = s.unitsNext := rfl
@[simp] theorem State.setGrpAt_next (s : State) (k : Nat) (g : Group) : (s.setGrpAt k g).next = s.next := rfl

@[simp] theorem State.setGrp_gid (s : State) (g : Group) : (s.setGrp g).gid = s.gid := rfl
@[simp] theorem State.setGrp_sel (s : State) (g : Group) : (s.setGrp g).sel = s.sel := rfl
@[simp] theorem State.setGrp_uni (s : State) (g : Group) : (s.setGrp g).uni = s.uni := rfl
@[simp] theorem State.setGrp_timebase (s : State) (g : Group) : (s.setGrp g).timebase = s.timebase := rfl
@[simp] theorem State.setGrp_tickNs (s : State) (g : Group) : (s.setGrp g).tickNs = s.tickNs := rfl
@[simp] theorem State.setGrp_free (s : State) (g : Group) : (s.setGrp g).free = s.free := rfl
@[simp] theorem State.setGrp_agenda (s : State) (g : Group) : (s.setGrp g).agenda = s.agenda := rfl
@[simp] theorem State.setGrp_pkgId (s : State) (g : Group) : (s.setGrp g).pkgId = s.pkgId := rfl
@[simp] theorem State.setGrp_blocks (s : State) (g : Group) : (s.setGrp g).blocks = s.blocks := rfl
@[simp] theorem State.setGrp_launches (s : State) (g : Group) : (s.setGrp g).launches = s.launches := rfl
@[simp] theorem State.setGrp_queues (s : State) (g : Group) : (s.setGrp g).queues = s.queues := rfl
@[simp] theorem State.setGrp_ctxs (s : State) (g : Group) : (s.setGrp g).ctxs = s.ctxs := rfl
@[simp] theorem State.setGrp_cores (s : State) (g : Group) : (s.setGrp g).cores = s.cores := rfl
@[simp] theorem State.setGrp_quads (s : State) (g : Group) : (s.setGrp g).quads = s.quads := rfl
@[simp] theorem State.setGrp_stations (s : State) (g : Group) : (s.setGrp g).stations = s.stations := rfl
@[simp] theorem State.setGrp_bars (s : State) (g : Group) : (s.setGrp g).bars = s.bars := rfl
@[simp] theorem State.setGrp_pods (s : State) (g : Group) : (s.setGrp g).pods = s.pods := rfl
@[simp] theorem State.setGrp_ages (s : State) (g : Group) : (s.setGrp g).ages = s.ages := rfl
@[simp] theorem State.setGrp_descs (s : State) (g : Group) : (s.setGrp g).descs = s.descs := rfl
@[simp] theorem State.setGrp_mem (s : State) (g : Group) : (s.setGrp g).mem = s.mem := rfl
@[simp] theorem State.setGrp_poison (s : State) (g : Group) : (s.setGrp g).poison = s.poison := rfl
@[simp] theorem State.setGrp_l2 (s : State) (g : Group) : (s.setGrp g).l2 = s.l2 := rfl
@[simp] theorem State.setGrp_msc (s : State) (g : Group) : (s.setGrp g).msc = s.msc := rfl
@[simp] theorem State.setGrp_outs (s : State) (g : Group) : (s.setGrp g).outs = s.outs := rfl
@[simp] theorem State.setGrp_stores (s : State) (g : Group) : (s.setGrp g).stores = s.stores := rfl
@[simp] theorem State.setGrp_walks (s : State) (g : Group) : (s.setGrp g).walks = s.walks := rfl
@[simp] theorem State.setGrp_packets (s : State) (g : Group) : (s.setGrp g).packets = s.packets := rfl
@[simp] theorem State.setGrp_ahead (s : State) (g : Group) : (s.setGrp g).ahead = s.ahead := rfl
@[simp] theorem State.setGrp_near (s : State) (g : Group) : (s.setGrp g).near = s.near := rfl
@[simp] theorem State.setGrp_leases (s : State) (g : Group) : (s.setGrp g).leases = s.leases := rfl
@[simp] theorem State.setGrp_evictions (s : State) (g : Group) : (s.setGrp g).evictions = s.evictions := rfl
@[simp] theorem State.setGrp_arrivals (s : State) (g : Group) : (s.setGrp g).arrivals = s.arrivals := rfl
@[simp] theorem State.setGrp_porch (s : State) (g : Group) : (s.setGrp g).porch = s.porch := rfl
@[simp] theorem State.setGrp_deferLoads (s : State) (g : Group) : (s.setGrp g).deferLoads = s.deferLoads := rfl
@[simp] theorem State.setGrp_deferStores (s : State) (g : Group) : (s.setGrp g).deferStores = s.deferStores := rfl
@[simp] theorem State.setGrp_walkAsync (s : State) (g : Group) : (s.setGrp g).walkAsync = s.walkAsync := rfl
@[simp] theorem State.setGrp_lastServed (s : State) (g : Group) : (s.setGrp g).lastServed = s.lastServed := rfl
@[simp] theorem State.setGrp_unitsNext (s : State) (g : Group) : (s.setGrp g).unitsNext = s.unitsNext := rfl
@[simp] theorem State.setGrp_next (s : State) (g : Group) : (s.setGrp g).next = s.next := rfl

@[simp] theorem State.setSlot_gid (s : State) (x : Slot) : (s.setSlot x).gid = s.gid := rfl
@[simp] theorem State.setSlot_sel (s : State) (x : Slot) : (s.setSlot x).sel = s.sel := rfl
@[simp] theorem State.setSlot_uni (s : State) (x : Slot) : (s.setSlot x).uni = s.uni := rfl
@[simp] theorem State.setSlot_timebase (s : State) (x : Slot) : (s.setSlot x).timebase = s.timebase := rfl
@[simp] theorem State.setSlot_tickNs (s : State) (x : Slot) : (s.setSlot x).tickNs = s.tickNs := rfl
@[simp] theorem State.setSlot_free (s : State) (x : Slot) : (s.setSlot x).free = s.free := rfl
@[simp] theorem State.setSlot_agenda (s : State) (x : Slot) : (s.setSlot x).agenda = s.agenda := rfl
@[simp] theorem State.setSlot_pkgId (s : State) (x : Slot) : (s.setSlot x).pkgId = s.pkgId := rfl
@[simp] theorem State.setSlot_blocks (s : State) (x : Slot) : (s.setSlot x).blocks = s.blocks := rfl
@[simp] theorem State.setSlot_launches (s : State) (x : Slot) : (s.setSlot x).launches = s.launches := rfl
@[simp] theorem State.setSlot_queues (s : State) (x : Slot) : (s.setSlot x).queues = s.queues := rfl
@[simp] theorem State.setSlot_ctxs (s : State) (x : Slot) : (s.setSlot x).ctxs = s.ctxs := rfl
@[simp] theorem State.setSlot_cores (s : State) (x : Slot) : (s.setSlot x).cores = s.cores := rfl
@[simp] theorem State.setSlot_quads (s : State) (x : Slot) : (s.setSlot x).quads = s.quads := rfl
@[simp] theorem State.setSlot_stations (s : State) (x : Slot) : (s.setSlot x).stations = s.stations := rfl
@[simp] theorem State.setSlot_bars (s : State) (x : Slot) : (s.setSlot x).bars = s.bars := rfl
@[simp] theorem State.setSlot_pods (s : State) (x : Slot) : (s.setSlot x).pods = s.pods := rfl
@[simp] theorem State.setSlot_ages (s : State) (x : Slot) : (s.setSlot x).ages = s.ages := rfl
@[simp] theorem State.setSlot_descs (s : State) (x : Slot) : (s.setSlot x).descs = s.descs := rfl
@[simp] theorem State.setSlot_mem (s : State) (x : Slot) : (s.setSlot x).mem = s.mem := rfl
@[simp] theorem State.setSlot_poison (s : State) (x : Slot) : (s.setSlot x).poison = s.poison := rfl
@[simp] theorem State.setSlot_l2 (s : State) (x : Slot) : (s.setSlot x).l2 = s.l2 := rfl
@[simp] theorem State.setSlot_msc (s : State) (x : Slot) : (s.setSlot x).msc = s.msc := rfl
@[simp] theorem State.setSlot_outs (s : State) (x : Slot) : (s.setSlot x).outs = s.outs := rfl
@[simp] theorem State.setSlot_stores (s : State) (x : Slot) : (s.setSlot x).stores = s.stores := rfl
@[simp] theorem State.setSlot_walks (s : State) (x : Slot) : (s.setSlot x).walks = s.walks := rfl
@[simp] theorem State.setSlot_packets (s : State) (x : Slot) : (s.setSlot x).packets = s.packets := rfl
@[simp] theorem State.setSlot_ahead (s : State) (x : Slot) : (s.setSlot x).ahead = s.ahead := rfl
@[simp] theorem State.setSlot_near (s : State) (x : Slot) : (s.setSlot x).near = s.near := rfl
@[simp] theorem State.setSlot_leases (s : State) (x : Slot) : (s.setSlot x).leases = s.leases := rfl
@[simp] theorem State.setSlot_evictions (s : State) (x : Slot) : (s.setSlot x).evictions = s.evictions := rfl
@[simp] theorem State.setSlot_arrivals (s : State) (x : Slot) : (s.setSlot x).arrivals = s.arrivals := rfl
@[simp] theorem State.setSlot_porch (s : State) (x : Slot) : (s.setSlot x).porch = s.porch := rfl
@[simp] theorem State.setSlot_deferLoads (s : State) (x : Slot) : (s.setSlot x).deferLoads = s.deferLoads := rfl
@[simp] theorem State.setSlot_deferStores (s : State) (x : Slot) : (s.setSlot x).deferStores = s.deferStores := rfl
@[simp] theorem State.setSlot_walkAsync (s : State) (x : Slot) : (s.setSlot x).walkAsync = s.walkAsync := rfl
@[simp] theorem State.setSlot_lastServed (s : State) (x : Slot) : (s.setSlot x).lastServed = s.lastServed := rfl
@[simp] theorem State.setSlot_unitsNext (s : State) (x : Slot) : (s.setSlot x).unitsNext = s.unitsNext := rfl
@[simp] theorem State.setSlot_next (s : State) (x : Slot) : (s.setSlot x).next = s.next := rfl

@[simp] theorem State.setBlkAt_gid (s : State) (k : Nat) (b : Block) : (s.setBlkAt k b).gid = s.gid := rfl
@[simp] theorem State.setBlkAt_sel (s : State) (k : Nat) (b : Block) : (s.setBlkAt k b).sel = s.sel := rfl
@[simp] theorem State.setBlkAt_uni (s : State) (k : Nat) (b : Block) : (s.setBlkAt k b).uni = s.uni := rfl
@[simp] theorem State.setBlkAt_timebase (s : State) (k : Nat) (b : Block) : (s.setBlkAt k b).timebase = s.timebase := rfl
@[simp] theorem State.setBlkAt_tickNs (s : State) (k : Nat) (b : Block) : (s.setBlkAt k b).tickNs = s.tickNs := rfl
@[simp] theorem State.setBlkAt_free (s : State) (k : Nat) (b : Block) : (s.setBlkAt k b).free = s.free := rfl
@[simp] theorem State.setBlkAt_agenda (s : State) (k : Nat) (b : Block) : (s.setBlkAt k b).agenda = s.agenda := rfl
@[simp] theorem State.setBlkAt_pkgId (s : State) (k : Nat) (b : Block) : (s.setBlkAt k b).pkgId = s.pkgId := rfl
@[simp] theorem State.setBlkAt_groups (s : State) (k : Nat) (b : Block) : (s.setBlkAt k b).groups = s.groups := rfl
@[simp] theorem State.setBlkAt_launches (s : State) (k : Nat) (b : Block) : (s.setBlkAt k b).launches = s.launches := rfl
@[simp] theorem State.setBlkAt_queues (s : State) (k : Nat) (b : Block) : (s.setBlkAt k b).queues = s.queues := rfl
@[simp] theorem State.setBlkAt_ctxs (s : State) (k : Nat) (b : Block) : (s.setBlkAt k b).ctxs = s.ctxs := rfl
@[simp] theorem State.setBlkAt_cores (s : State) (k : Nat) (b : Block) : (s.setBlkAt k b).cores = s.cores := rfl
@[simp] theorem State.setBlkAt_quads (s : State) (k : Nat) (b : Block) : (s.setBlkAt k b).quads = s.quads := rfl
@[simp] theorem State.setBlkAt_stations (s : State) (k : Nat) (b : Block) : (s.setBlkAt k b).stations = s.stations := rfl
@[simp] theorem State.setBlkAt_bars (s : State) (k : Nat) (b : Block) : (s.setBlkAt k b).bars = s.bars := rfl
@[simp] theorem State.setBlkAt_pods (s : State) (k : Nat) (b : Block) : (s.setBlkAt k b).pods = s.pods := rfl
@[simp] theorem State.setBlkAt_ages (s : State) (k : Nat) (b : Block) : (s.setBlkAt k b).ages = s.ages := rfl
@[simp] theorem State.setBlkAt_descs (s : State) (k : Nat) (b : Block) : (s.setBlkAt k b).descs = s.descs := rfl
@[simp] theorem State.setBlkAt_mem (s : State) (k : Nat) (b : Block) : (s.setBlkAt k b).mem = s.mem := rfl
@[simp] theorem State.setBlkAt_poison (s : State) (k : Nat) (b : Block) : (s.setBlkAt k b).poison = s.poison := rfl
@[simp] theorem State.setBlkAt_l2 (s : State) (k : Nat) (b : Block) : (s.setBlkAt k b).l2 = s.l2 := rfl
@[simp] theorem State.setBlkAt_msc (s : State) (k : Nat) (b : Block) : (s.setBlkAt k b).msc = s.msc := rfl
@[simp] theorem State.setBlkAt_outs (s : State) (k : Nat) (b : Block) : (s.setBlkAt k b).outs = s.outs := rfl
@[simp] theorem State.setBlkAt_stores (s : State) (k : Nat) (b : Block) : (s.setBlkAt k b).stores = s.stores := rfl
@[simp] theorem State.setBlkAt_walks (s : State) (k : Nat) (b : Block) : (s.setBlkAt k b).walks = s.walks := rfl
@[simp] theorem State.setBlkAt_packets (s : State) (k : Nat) (b : Block) : (s.setBlkAt k b).packets = s.packets := rfl
@[simp] theorem State.setBlkAt_ahead (s : State) (k : Nat) (b : Block) : (s.setBlkAt k b).ahead = s.ahead := rfl
@[simp] theorem State.setBlkAt_near (s : State) (k : Nat) (b : Block) : (s.setBlkAt k b).near = s.near := rfl
@[simp] theorem State.setBlkAt_leases (s : State) (k : Nat) (b : Block) : (s.setBlkAt k b).leases = s.leases := rfl
@[simp] theorem State.setBlkAt_evictions (s : State) (k : Nat) (b : Block) : (s.setBlkAt k b).evictions = s.evictions := rfl
@[simp] theorem State.setBlkAt_arrivals (s : State) (k : Nat) (b : Block) : (s.setBlkAt k b).arrivals = s.arrivals := rfl
@[simp] theorem State.setBlkAt_porch (s : State) (k : Nat) (b : Block) : (s.setBlkAt k b).porch = s.porch := rfl
@[simp] theorem State.setBlkAt_deferLoads (s : State) (k : Nat) (b : Block) : (s.setBlkAt k b).deferLoads = s.deferLoads := rfl
@[simp] theorem State.setBlkAt_deferStores (s : State) (k : Nat) (b : Block) : (s.setBlkAt k b).deferStores = s.deferStores := rfl
@[simp] theorem State.setBlkAt_walkAsync (s : State) (k : Nat) (b : Block) : (s.setBlkAt k b).walkAsync = s.walkAsync := rfl
@[simp] theorem State.setBlkAt_lastServed (s : State) (k : Nat) (b : Block) : (s.setBlkAt k b).lastServed = s.lastServed := rfl
@[simp] theorem State.setBlkAt_unitsNext (s : State) (k : Nat) (b : Block) : (s.setBlkAt k b).unitsNext = s.unitsNext := rfl
@[simp] theorem State.setBlkAt_next (s : State) (k : Nat) (b : Block) : (s.setBlkAt k b).next = s.next := rfl

@[simp] theorem State.setLncAt_gid (s : State) (k : Nat) (l : Launch) : (s.setLncAt k l).gid = s.gid := rfl
@[simp] theorem State.setLncAt_sel (s : State) (k : Nat) (l : Launch) : (s.setLncAt k l).sel = s.sel := rfl
@[simp] theorem State.setLncAt_uni (s : State) (k : Nat) (l : Launch) : (s.setLncAt k l).uni = s.uni := rfl
@[simp] theorem State.setLncAt_timebase (s : State) (k : Nat) (l : Launch) : (s.setLncAt k l).timebase = s.timebase := rfl
@[simp] theorem State.setLncAt_tickNs (s : State) (k : Nat) (l : Launch) : (s.setLncAt k l).tickNs = s.tickNs := rfl
@[simp] theorem State.setLncAt_free (s : State) (k : Nat) (l : Launch) : (s.setLncAt k l).free = s.free := rfl
@[simp] theorem State.setLncAt_agenda (s : State) (k : Nat) (l : Launch) : (s.setLncAt k l).agenda = s.agenda := rfl
@[simp] theorem State.setLncAt_pkgId (s : State) (k : Nat) (l : Launch) : (s.setLncAt k l).pkgId = s.pkgId := rfl
@[simp] theorem State.setLncAt_groups (s : State) (k : Nat) (l : Launch) : (s.setLncAt k l).groups = s.groups := rfl
@[simp] theorem State.setLncAt_blocks (s : State) (k : Nat) (l : Launch) : (s.setLncAt k l).blocks = s.blocks := rfl
@[simp] theorem State.setLncAt_queues (s : State) (k : Nat) (l : Launch) : (s.setLncAt k l).queues = s.queues := rfl
@[simp] theorem State.setLncAt_ctxs (s : State) (k : Nat) (l : Launch) : (s.setLncAt k l).ctxs = s.ctxs := rfl
@[simp] theorem State.setLncAt_cores (s : State) (k : Nat) (l : Launch) : (s.setLncAt k l).cores = s.cores := rfl
@[simp] theorem State.setLncAt_quads (s : State) (k : Nat) (l : Launch) : (s.setLncAt k l).quads = s.quads := rfl
@[simp] theorem State.setLncAt_stations (s : State) (k : Nat) (l : Launch) : (s.setLncAt k l).stations = s.stations := rfl
@[simp] theorem State.setLncAt_bars (s : State) (k : Nat) (l : Launch) : (s.setLncAt k l).bars = s.bars := rfl
@[simp] theorem State.setLncAt_pods (s : State) (k : Nat) (l : Launch) : (s.setLncAt k l).pods = s.pods := rfl
@[simp] theorem State.setLncAt_ages (s : State) (k : Nat) (l : Launch) : (s.setLncAt k l).ages = s.ages := rfl
@[simp] theorem State.setLncAt_descs (s : State) (k : Nat) (l : Launch) : (s.setLncAt k l).descs = s.descs := rfl
@[simp] theorem State.setLncAt_mem (s : State) (k : Nat) (l : Launch) : (s.setLncAt k l).mem = s.mem := rfl
@[simp] theorem State.setLncAt_poison (s : State) (k : Nat) (l : Launch) : (s.setLncAt k l).poison = s.poison := rfl
@[simp] theorem State.setLncAt_l2 (s : State) (k : Nat) (l : Launch) : (s.setLncAt k l).l2 = s.l2 := rfl
@[simp] theorem State.setLncAt_msc (s : State) (k : Nat) (l : Launch) : (s.setLncAt k l).msc = s.msc := rfl
@[simp] theorem State.setLncAt_outs (s : State) (k : Nat) (l : Launch) : (s.setLncAt k l).outs = s.outs := rfl
@[simp] theorem State.setLncAt_stores (s : State) (k : Nat) (l : Launch) : (s.setLncAt k l).stores = s.stores := rfl
@[simp] theorem State.setLncAt_walks (s : State) (k : Nat) (l : Launch) : (s.setLncAt k l).walks = s.walks := rfl
@[simp] theorem State.setLncAt_packets (s : State) (k : Nat) (l : Launch) : (s.setLncAt k l).packets = s.packets := rfl
@[simp] theorem State.setLncAt_ahead (s : State) (k : Nat) (l : Launch) : (s.setLncAt k l).ahead = s.ahead := rfl
@[simp] theorem State.setLncAt_near (s : State) (k : Nat) (l : Launch) : (s.setLncAt k l).near = s.near := rfl
@[simp] theorem State.setLncAt_leases (s : State) (k : Nat) (l : Launch) : (s.setLncAt k l).leases = s.leases := rfl
@[simp] theorem State.setLncAt_evictions (s : State) (k : Nat) (l : Launch) : (s.setLncAt k l).evictions = s.evictions := rfl
@[simp] theorem State.setLncAt_arrivals (s : State) (k : Nat) (l : Launch) : (s.setLncAt k l).arrivals = s.arrivals := rfl
@[simp] theorem State.setLncAt_porch (s : State) (k : Nat) (l : Launch) : (s.setLncAt k l).porch = s.porch := rfl
@[simp] theorem State.setLncAt_deferLoads (s : State) (k : Nat) (l : Launch) : (s.setLncAt k l).deferLoads = s.deferLoads := rfl
@[simp] theorem State.setLncAt_deferStores (s : State) (k : Nat) (l : Launch) : (s.setLncAt k l).deferStores = s.deferStores := rfl
@[simp] theorem State.setLncAt_walkAsync (s : State) (k : Nat) (l : Launch) : (s.setLncAt k l).walkAsync = s.walkAsync := rfl
@[simp] theorem State.setLncAt_lastServed (s : State) (k : Nat) (l : Launch) : (s.setLncAt k l).lastServed = s.lastServed := rfl
@[simp] theorem State.setLncAt_unitsNext (s : State) (k : Nat) (l : Launch) : (s.setLncAt k l).unitsNext = s.unitsNext := rfl
@[simp] theorem State.setLncAt_next (s : State) (k : Nat) (l : Launch) : (s.setLncAt k l).next = s.next := rfl

@[simp] theorem State.setCtxAt_gid (s : State) (k : Nat) (c : Ctx) : (s.setCtxAt k c).gid = s.gid := rfl
@[simp] theorem State.setCtxAt_sel (s : State) (k : Nat) (c : Ctx) : (s.setCtxAt k c).sel = s.sel := rfl
@[simp] theorem State.setCtxAt_uni (s : State) (k : Nat) (c : Ctx) : (s.setCtxAt k c).uni = s.uni := rfl
@[simp] theorem State.setCtxAt_timebase (s : State) (k : Nat) (c : Ctx) : (s.setCtxAt k c).timebase = s.timebase := rfl
@[simp] theorem State.setCtxAt_tickNs (s : State) (k : Nat) (c : Ctx) : (s.setCtxAt k c).tickNs = s.tickNs := rfl
@[simp] theorem State.setCtxAt_free (s : State) (k : Nat) (c : Ctx) : (s.setCtxAt k c).free = s.free := rfl
@[simp] theorem State.setCtxAt_agenda (s : State) (k : Nat) (c : Ctx) : (s.setCtxAt k c).agenda = s.agenda := rfl
@[simp] theorem State.setCtxAt_pkgId (s : State) (k : Nat) (c : Ctx) : (s.setCtxAt k c).pkgId = s.pkgId := rfl
@[simp] theorem State.setCtxAt_groups (s : State) (k : Nat) (c : Ctx) : (s.setCtxAt k c).groups = s.groups := rfl
@[simp] theorem State.setCtxAt_blocks (s : State) (k : Nat) (c : Ctx) : (s.setCtxAt k c).blocks = s.blocks := rfl
@[simp] theorem State.setCtxAt_launches (s : State) (k : Nat) (c : Ctx) : (s.setCtxAt k c).launches = s.launches := rfl
@[simp] theorem State.setCtxAt_queues (s : State) (k : Nat) (c : Ctx) : (s.setCtxAt k c).queues = s.queues := rfl
@[simp] theorem State.setCtxAt_cores (s : State) (k : Nat) (c : Ctx) : (s.setCtxAt k c).cores = s.cores := rfl
@[simp] theorem State.setCtxAt_quads (s : State) (k : Nat) (c : Ctx) : (s.setCtxAt k c).quads = s.quads := rfl
@[simp] theorem State.setCtxAt_stations (s : State) (k : Nat) (c : Ctx) : (s.setCtxAt k c).stations = s.stations := rfl
@[simp] theorem State.setCtxAt_bars (s : State) (k : Nat) (c : Ctx) : (s.setCtxAt k c).bars = s.bars := rfl
@[simp] theorem State.setCtxAt_pods (s : State) (k : Nat) (c : Ctx) : (s.setCtxAt k c).pods = s.pods := rfl
@[simp] theorem State.setCtxAt_ages (s : State) (k : Nat) (c : Ctx) : (s.setCtxAt k c).ages = s.ages := rfl
@[simp] theorem State.setCtxAt_descs (s : State) (k : Nat) (c : Ctx) : (s.setCtxAt k c).descs = s.descs := rfl
@[simp] theorem State.setCtxAt_mem (s : State) (k : Nat) (c : Ctx) : (s.setCtxAt k c).mem = s.mem := rfl
@[simp] theorem State.setCtxAt_poison (s : State) (k : Nat) (c : Ctx) : (s.setCtxAt k c).poison = s.poison := rfl
@[simp] theorem State.setCtxAt_l2 (s : State) (k : Nat) (c : Ctx) : (s.setCtxAt k c).l2 = s.l2 := rfl
@[simp] theorem State.setCtxAt_msc (s : State) (k : Nat) (c : Ctx) : (s.setCtxAt k c).msc = s.msc := rfl
@[simp] theorem State.setCtxAt_outs (s : State) (k : Nat) (c : Ctx) : (s.setCtxAt k c).outs = s.outs := rfl
@[simp] theorem State.setCtxAt_stores (s : State) (k : Nat) (c : Ctx) : (s.setCtxAt k c).stores = s.stores := rfl
@[simp] theorem State.setCtxAt_walks (s : State) (k : Nat) (c : Ctx) : (s.setCtxAt k c).walks = s.walks := rfl
@[simp] theorem State.setCtxAt_packets (s : State) (k : Nat) (c : Ctx) : (s.setCtxAt k c).packets = s.packets := rfl
@[simp] theorem State.setCtxAt_ahead (s : State) (k : Nat) (c : Ctx) : (s.setCtxAt k c).ahead = s.ahead := rfl
@[simp] theorem State.setCtxAt_near (s : State) (k : Nat) (c : Ctx) : (s.setCtxAt k c).near = s.near := rfl
@[simp] theorem State.setCtxAt_leases (s : State) (k : Nat) (c : Ctx) : (s.setCtxAt k c).leases = s.leases := rfl
@[simp] theorem State.setCtxAt_evictions (s : State) (k : Nat) (c : Ctx) : (s.setCtxAt k c).evictions = s.evictions := rfl
@[simp] theorem State.setCtxAt_arrivals (s : State) (k : Nat) (c : Ctx) : (s.setCtxAt k c).arrivals = s.arrivals := rfl
@[simp] theorem State.setCtxAt_porch (s : State) (k : Nat) (c : Ctx) : (s.setCtxAt k c).porch = s.porch := rfl
@[simp] theorem State.setCtxAt_deferLoads (s : State) (k : Nat) (c : Ctx) : (s.setCtxAt k c).deferLoads = s.deferLoads := rfl
@[simp] theorem State.setCtxAt_deferStores (s : State) (k : Nat) (c : Ctx) : (s.setCtxAt k c).deferStores = s.deferStores := rfl
@[simp] theorem State.setCtxAt_walkAsync (s : State) (k : Nat) (c : Ctx) : (s.setCtxAt k c).walkAsync = s.walkAsync := rfl
@[simp] theorem State.setCtxAt_lastServed (s : State) (k : Nat) (c : Ctx) : (s.setCtxAt k c).lastServed = s.lastServed := rfl
@[simp] theorem State.setCtxAt_unitsNext (s : State) (k : Nat) (c : Ctx) : (s.setCtxAt k c).unitsNext = s.unitsNext := rfl
@[simp] theorem State.setCtxAt_next (s : State) (k : Nat) (c : Ctx) : (s.setCtxAt k c).next = s.next := rfl

@[simp] theorem State.setCoreAt_gid (s : State) (k : Nat) (c : Core) : (s.setCoreAt k c).gid = s.gid := rfl
@[simp] theorem State.setCoreAt_sel (s : State) (k : Nat) (c : Core) : (s.setCoreAt k c).sel = s.sel := rfl
@[simp] theorem State.setCoreAt_uni (s : State) (k : Nat) (c : Core) : (s.setCoreAt k c).uni = s.uni := rfl
@[simp] theorem State.setCoreAt_timebase (s : State) (k : Nat) (c : Core) : (s.setCoreAt k c).timebase = s.timebase := rfl
@[simp] theorem State.setCoreAt_tickNs (s : State) (k : Nat) (c : Core) : (s.setCoreAt k c).tickNs = s.tickNs := rfl
@[simp] theorem State.setCoreAt_free (s : State) (k : Nat) (c : Core) : (s.setCoreAt k c).free = s.free := rfl
@[simp] theorem State.setCoreAt_agenda (s : State) (k : Nat) (c : Core) : (s.setCoreAt k c).agenda = s.agenda := rfl
@[simp] theorem State.setCoreAt_pkgId (s : State) (k : Nat) (c : Core) : (s.setCoreAt k c).pkgId = s.pkgId := rfl
@[simp] theorem State.setCoreAt_groups (s : State) (k : Nat) (c : Core) : (s.setCoreAt k c).groups = s.groups := rfl
@[simp] theorem State.setCoreAt_blocks (s : State) (k : Nat) (c : Core) : (s.setCoreAt k c).blocks = s.blocks := rfl
@[simp] theorem State.setCoreAt_launches (s : State) (k : Nat) (c : Core) : (s.setCoreAt k c).launches = s.launches := rfl
@[simp] theorem State.setCoreAt_queues (s : State) (k : Nat) (c : Core) : (s.setCoreAt k c).queues = s.queues := rfl
@[simp] theorem State.setCoreAt_ctxs (s : State) (k : Nat) (c : Core) : (s.setCoreAt k c).ctxs = s.ctxs := rfl
@[simp] theorem State.setCoreAt_quads (s : State) (k : Nat) (c : Core) : (s.setCoreAt k c).quads = s.quads := rfl
@[simp] theorem State.setCoreAt_stations (s : State) (k : Nat) (c : Core) : (s.setCoreAt k c).stations = s.stations := rfl
@[simp] theorem State.setCoreAt_bars (s : State) (k : Nat) (c : Core) : (s.setCoreAt k c).bars = s.bars := rfl
@[simp] theorem State.setCoreAt_pods (s : State) (k : Nat) (c : Core) : (s.setCoreAt k c).pods = s.pods := rfl
@[simp] theorem State.setCoreAt_ages (s : State) (k : Nat) (c : Core) : (s.setCoreAt k c).ages = s.ages := rfl
@[simp] theorem State.setCoreAt_descs (s : State) (k : Nat) (c : Core) : (s.setCoreAt k c).descs = s.descs := rfl
@[simp] theorem State.setCoreAt_mem (s : State) (k : Nat) (c : Core) : (s.setCoreAt k c).mem = s.mem := rfl
@[simp] theorem State.setCoreAt_poison (s : State) (k : Nat) (c : Core) : (s.setCoreAt k c).poison = s.poison := rfl
@[simp] theorem State.setCoreAt_l2 (s : State) (k : Nat) (c : Core) : (s.setCoreAt k c).l2 = s.l2 := rfl
@[simp] theorem State.setCoreAt_msc (s : State) (k : Nat) (c : Core) : (s.setCoreAt k c).msc = s.msc := rfl
@[simp] theorem State.setCoreAt_outs (s : State) (k : Nat) (c : Core) : (s.setCoreAt k c).outs = s.outs := rfl
@[simp] theorem State.setCoreAt_stores (s : State) (k : Nat) (c : Core) : (s.setCoreAt k c).stores = s.stores := rfl
@[simp] theorem State.setCoreAt_walks (s : State) (k : Nat) (c : Core) : (s.setCoreAt k c).walks = s.walks := rfl
@[simp] theorem State.setCoreAt_packets (s : State) (k : Nat) (c : Core) : (s.setCoreAt k c).packets = s.packets := rfl
@[simp] theorem State.setCoreAt_ahead (s : State) (k : Nat) (c : Core) : (s.setCoreAt k c).ahead = s.ahead := rfl
@[simp] theorem State.setCoreAt_near (s : State) (k : Nat) (c : Core) : (s.setCoreAt k c).near = s.near := rfl
@[simp] theorem State.setCoreAt_leases (s : State) (k : Nat) (c : Core) : (s.setCoreAt k c).leases = s.leases := rfl
@[simp] theorem State.setCoreAt_evictions (s : State) (k : Nat) (c : Core) : (s.setCoreAt k c).evictions = s.evictions := rfl
@[simp] theorem State.setCoreAt_arrivals (s : State) (k : Nat) (c : Core) : (s.setCoreAt k c).arrivals = s.arrivals := rfl
@[simp] theorem State.setCoreAt_porch (s : State) (k : Nat) (c : Core) : (s.setCoreAt k c).porch = s.porch := rfl
@[simp] theorem State.setCoreAt_deferLoads (s : State) (k : Nat) (c : Core) : (s.setCoreAt k c).deferLoads = s.deferLoads := rfl
@[simp] theorem State.setCoreAt_deferStores (s : State) (k : Nat) (c : Core) : (s.setCoreAt k c).deferStores = s.deferStores := rfl
@[simp] theorem State.setCoreAt_walkAsync (s : State) (k : Nat) (c : Core) : (s.setCoreAt k c).walkAsync = s.walkAsync := rfl
@[simp] theorem State.setCoreAt_lastServed (s : State) (k : Nat) (c : Core) : (s.setCoreAt k c).lastServed = s.lastServed := rfl
@[simp] theorem State.setCoreAt_unitsNext (s : State) (k : Nat) (c : Core) : (s.setCoreAt k c).unitsNext = s.unitsNext := rfl
@[simp] theorem State.setCoreAt_next (s : State) (k : Nat) (c : Core) : (s.setCoreAt k c).next = s.next := rfl

@[simp] theorem State.setQueueAt_gid (s : State) (k : Nat) (q : Queue) : (s.setQueueAt k q).gid = s.gid := rfl
@[simp] theorem State.setQueueAt_sel (s : State) (k : Nat) (q : Queue) : (s.setQueueAt k q).sel = s.sel := rfl
@[simp] theorem State.setQueueAt_uni (s : State) (k : Nat) (q : Queue) : (s.setQueueAt k q).uni = s.uni := rfl
@[simp] theorem State.setQueueAt_timebase (s : State) (k : Nat) (q : Queue) : (s.setQueueAt k q).timebase = s.timebase := rfl
@[simp] theorem State.setQueueAt_tickNs (s : State) (k : Nat) (q : Queue) : (s.setQueueAt k q).tickNs = s.tickNs := rfl
@[simp] theorem State.setQueueAt_free (s : State) (k : Nat) (q : Queue) : (s.setQueueAt k q).free = s.free := rfl
@[simp] theorem State.setQueueAt_agenda (s : State) (k : Nat) (q : Queue) : (s.setQueueAt k q).agenda = s.agenda := rfl
@[simp] theorem State.setQueueAt_pkgId (s : State) (k : Nat) (q : Queue) : (s.setQueueAt k q).pkgId = s.pkgId := rfl
@[simp] theorem State.setQueueAt_groups (s : State) (k : Nat) (q : Queue) : (s.setQueueAt k q).groups = s.groups := rfl
@[simp] theorem State.setQueueAt_blocks (s : State) (k : Nat) (q : Queue) : (s.setQueueAt k q).blocks = s.blocks := rfl
@[simp] theorem State.setQueueAt_launches (s : State) (k : Nat) (q : Queue) : (s.setQueueAt k q).launches = s.launches := rfl
@[simp] theorem State.setQueueAt_ctxs (s : State) (k : Nat) (q : Queue) : (s.setQueueAt k q).ctxs = s.ctxs := rfl
@[simp] theorem State.setQueueAt_cores (s : State) (k : Nat) (q : Queue) : (s.setQueueAt k q).cores = s.cores := rfl
@[simp] theorem State.setQueueAt_quads (s : State) (k : Nat) (q : Queue) : (s.setQueueAt k q).quads = s.quads := rfl
@[simp] theorem State.setQueueAt_stations (s : State) (k : Nat) (q : Queue) : (s.setQueueAt k q).stations = s.stations := rfl
@[simp] theorem State.setQueueAt_bars (s : State) (k : Nat) (q : Queue) : (s.setQueueAt k q).bars = s.bars := rfl
@[simp] theorem State.setQueueAt_pods (s : State) (k : Nat) (q : Queue) : (s.setQueueAt k q).pods = s.pods := rfl
@[simp] theorem State.setQueueAt_ages (s : State) (k : Nat) (q : Queue) : (s.setQueueAt k q).ages = s.ages := rfl
@[simp] theorem State.setQueueAt_descs (s : State) (k : Nat) (q : Queue) : (s.setQueueAt k q).descs = s.descs := rfl
@[simp] theorem State.setQueueAt_mem (s : State) (k : Nat) (q : Queue) : (s.setQueueAt k q).mem = s.mem := rfl
@[simp] theorem State.setQueueAt_poison (s : State) (k : Nat) (q : Queue) : (s.setQueueAt k q).poison = s.poison := rfl
@[simp] theorem State.setQueueAt_l2 (s : State) (k : Nat) (q : Queue) : (s.setQueueAt k q).l2 = s.l2 := rfl
@[simp] theorem State.setQueueAt_msc (s : State) (k : Nat) (q : Queue) : (s.setQueueAt k q).msc = s.msc := rfl
@[simp] theorem State.setQueueAt_outs (s : State) (k : Nat) (q : Queue) : (s.setQueueAt k q).outs = s.outs := rfl
@[simp] theorem State.setQueueAt_stores (s : State) (k : Nat) (q : Queue) : (s.setQueueAt k q).stores = s.stores := rfl
@[simp] theorem State.setQueueAt_walks (s : State) (k : Nat) (q : Queue) : (s.setQueueAt k q).walks = s.walks := rfl
@[simp] theorem State.setQueueAt_packets (s : State) (k : Nat) (q : Queue) : (s.setQueueAt k q).packets = s.packets := rfl
@[simp] theorem State.setQueueAt_ahead (s : State) (k : Nat) (q : Queue) : (s.setQueueAt k q).ahead = s.ahead := rfl
@[simp] theorem State.setQueueAt_near (s : State) (k : Nat) (q : Queue) : (s.setQueueAt k q).near = s.near := rfl
@[simp] theorem State.setQueueAt_leases (s : State) (k : Nat) (q : Queue) : (s.setQueueAt k q).leases = s.leases := rfl
@[simp] theorem State.setQueueAt_evictions (s : State) (k : Nat) (q : Queue) : (s.setQueueAt k q).evictions = s.evictions := rfl
@[simp] theorem State.setQueueAt_arrivals (s : State) (k : Nat) (q : Queue) : (s.setQueueAt k q).arrivals = s.arrivals := rfl
@[simp] theorem State.setQueueAt_porch (s : State) (k : Nat) (q : Queue) : (s.setQueueAt k q).porch = s.porch := rfl
@[simp] theorem State.setQueueAt_deferLoads (s : State) (k : Nat) (q : Queue) : (s.setQueueAt k q).deferLoads = s.deferLoads := rfl
@[simp] theorem State.setQueueAt_deferStores (s : State) (k : Nat) (q : Queue) : (s.setQueueAt k q).deferStores = s.deferStores := rfl
@[simp] theorem State.setQueueAt_walkAsync (s : State) (k : Nat) (q : Queue) : (s.setQueueAt k q).walkAsync = s.walkAsync := rfl
@[simp] theorem State.setQueueAt_lastServed (s : State) (k : Nat) (q : Queue) : (s.setQueueAt k q).lastServed = s.lastServed := rfl
@[simp] theorem State.setQueueAt_unitsNext (s : State) (k : Nat) (q : Queue) : (s.setQueueAt k q).unitsNext = s.unitsNext := rfl
@[simp] theorem State.setQueueAt_next (s : State) (k : Nat) (q : Queue) : (s.setQueueAt k q).next = s.next := rfl

@[simp] theorem State.setStationAt_gid (s : State) (k : Nat) (x : Station) : (s.setStationAt k x).gid = s.gid := rfl
@[simp] theorem State.setStationAt_sel (s : State) (k : Nat) (x : Station) : (s.setStationAt k x).sel = s.sel := rfl
@[simp] theorem State.setStationAt_uni (s : State) (k : Nat) (x : Station) : (s.setStationAt k x).uni = s.uni := rfl
@[simp] theorem State.setStationAt_timebase (s : State) (k : Nat) (x : Station) : (s.setStationAt k x).timebase = s.timebase := rfl
@[simp] theorem State.setStationAt_tickNs (s : State) (k : Nat) (x : Station) : (s.setStationAt k x).tickNs = s.tickNs := rfl
@[simp] theorem State.setStationAt_free (s : State) (k : Nat) (x : Station) : (s.setStationAt k x).free = s.free := rfl
@[simp] theorem State.setStationAt_agenda (s : State) (k : Nat) (x : Station) : (s.setStationAt k x).agenda = s.agenda := rfl
@[simp] theorem State.setStationAt_pkgId (s : State) (k : Nat) (x : Station) : (s.setStationAt k x).pkgId = s.pkgId := rfl
@[simp] theorem State.setStationAt_groups (s : State) (k : Nat) (x : Station) : (s.setStationAt k x).groups = s.groups := rfl
@[simp] theorem State.setStationAt_blocks (s : State) (k : Nat) (x : Station) : (s.setStationAt k x).blocks = s.blocks := rfl
@[simp] theorem State.setStationAt_launches (s : State) (k : Nat) (x : Station) : (s.setStationAt k x).launches = s.launches := rfl
@[simp] theorem State.setStationAt_queues (s : State) (k : Nat) (x : Station) : (s.setStationAt k x).queues = s.queues := rfl
@[simp] theorem State.setStationAt_ctxs (s : State) (k : Nat) (x : Station) : (s.setStationAt k x).ctxs = s.ctxs := rfl
@[simp] theorem State.setStationAt_cores (s : State) (k : Nat) (x : Station) : (s.setStationAt k x).cores = s.cores := rfl
@[simp] theorem State.setStationAt_quads (s : State) (k : Nat) (x : Station) : (s.setStationAt k x).quads = s.quads := rfl
@[simp] theorem State.setStationAt_bars (s : State) (k : Nat) (x : Station) : (s.setStationAt k x).bars = s.bars := rfl
@[simp] theorem State.setStationAt_pods (s : State) (k : Nat) (x : Station) : (s.setStationAt k x).pods = s.pods := rfl
@[simp] theorem State.setStationAt_ages (s : State) (k : Nat) (x : Station) : (s.setStationAt k x).ages = s.ages := rfl
@[simp] theorem State.setStationAt_descs (s : State) (k : Nat) (x : Station) : (s.setStationAt k x).descs = s.descs := rfl
@[simp] theorem State.setStationAt_mem (s : State) (k : Nat) (x : Station) : (s.setStationAt k x).mem = s.mem := rfl
@[simp] theorem State.setStationAt_poison (s : State) (k : Nat) (x : Station) : (s.setStationAt k x).poison = s.poison := rfl
@[simp] theorem State.setStationAt_l2 (s : State) (k : Nat) (x : Station) : (s.setStationAt k x).l2 = s.l2 := rfl
@[simp] theorem State.setStationAt_msc (s : State) (k : Nat) (x : Station) : (s.setStationAt k x).msc = s.msc := rfl
@[simp] theorem State.setStationAt_outs (s : State) (k : Nat) (x : Station) : (s.setStationAt k x).outs = s.outs := rfl
@[simp] theorem State.setStationAt_stores (s : State) (k : Nat) (x : Station) : (s.setStationAt k x).stores = s.stores := rfl
@[simp] theorem State.setStationAt_walks (s : State) (k : Nat) (x : Station) : (s.setStationAt k x).walks = s.walks := rfl
@[simp] theorem State.setStationAt_packets (s : State) (k : Nat) (x : Station) : (s.setStationAt k x).packets = s.packets := rfl
@[simp] theorem State.setStationAt_ahead (s : State) (k : Nat) (x : Station) : (s.setStationAt k x).ahead = s.ahead := rfl
@[simp] theorem State.setStationAt_near (s : State) (k : Nat) (x : Station) : (s.setStationAt k x).near = s.near := rfl
@[simp] theorem State.setStationAt_leases (s : State) (k : Nat) (x : Station) : (s.setStationAt k x).leases = s.leases := rfl
@[simp] theorem State.setStationAt_evictions (s : State) (k : Nat) (x : Station) : (s.setStationAt k x).evictions = s.evictions := rfl
@[simp] theorem State.setStationAt_arrivals (s : State) (k : Nat) (x : Station) : (s.setStationAt k x).arrivals = s.arrivals := rfl
@[simp] theorem State.setStationAt_porch (s : State) (k : Nat) (x : Station) : (s.setStationAt k x).porch = s.porch := rfl
@[simp] theorem State.setStationAt_deferLoads (s : State) (k : Nat) (x : Station) : (s.setStationAt k x).deferLoads = s.deferLoads := rfl
@[simp] theorem State.setStationAt_deferStores (s : State) (k : Nat) (x : Station) : (s.setStationAt k x).deferStores = s.deferStores := rfl
@[simp] theorem State.setStationAt_walkAsync (s : State) (k : Nat) (x : Station) : (s.setStationAt k x).walkAsync = s.walkAsync := rfl
@[simp] theorem State.setStationAt_lastServed (s : State) (k : Nat) (x : Station) : (s.setStationAt k x).lastServed = s.lastServed := rfl
@[simp] theorem State.setStationAt_unitsNext (s : State) (k : Nat) (x : Station) : (s.setStationAt k x).unitsNext = s.unitsNext := rfl
@[simp] theorem State.setStationAt_next (s : State) (k : Nat) (x : Station) : (s.setStationAt k x).next = s.next := rfl

@[simp] theorem State.setQuadAt_gid (s : State) (k : Nat) (x : Quad) : (s.setQuadAt k x).gid = s.gid := rfl
@[simp] theorem State.setQuadAt_sel (s : State) (k : Nat) (x : Quad) : (s.setQuadAt k x).sel = s.sel := rfl
@[simp] theorem State.setQuadAt_uni (s : State) (k : Nat) (x : Quad) : (s.setQuadAt k x).uni = s.uni := rfl
@[simp] theorem State.setQuadAt_timebase (s : State) (k : Nat) (x : Quad) : (s.setQuadAt k x).timebase = s.timebase := rfl
@[simp] theorem State.setQuadAt_tickNs (s : State) (k : Nat) (x : Quad) : (s.setQuadAt k x).tickNs = s.tickNs := rfl
@[simp] theorem State.setQuadAt_free (s : State) (k : Nat) (x : Quad) : (s.setQuadAt k x).free = s.free := rfl
@[simp] theorem State.setQuadAt_agenda (s : State) (k : Nat) (x : Quad) : (s.setQuadAt k x).agenda = s.agenda := rfl
@[simp] theorem State.setQuadAt_pkgId (s : State) (k : Nat) (x : Quad) : (s.setQuadAt k x).pkgId = s.pkgId := rfl
@[simp] theorem State.setQuadAt_groups (s : State) (k : Nat) (x : Quad) : (s.setQuadAt k x).groups = s.groups := rfl
@[simp] theorem State.setQuadAt_blocks (s : State) (k : Nat) (x : Quad) : (s.setQuadAt k x).blocks = s.blocks := rfl
@[simp] theorem State.setQuadAt_launches (s : State) (k : Nat) (x : Quad) : (s.setQuadAt k x).launches = s.launches := rfl
@[simp] theorem State.setQuadAt_queues (s : State) (k : Nat) (x : Quad) : (s.setQuadAt k x).queues = s.queues := rfl
@[simp] theorem State.setQuadAt_ctxs (s : State) (k : Nat) (x : Quad) : (s.setQuadAt k x).ctxs = s.ctxs := rfl
@[simp] theorem State.setQuadAt_cores (s : State) (k : Nat) (x : Quad) : (s.setQuadAt k x).cores = s.cores := rfl
@[simp] theorem State.setQuadAt_stations (s : State) (k : Nat) (x : Quad) : (s.setQuadAt k x).stations = s.stations := rfl
@[simp] theorem State.setQuadAt_bars (s : State) (k : Nat) (x : Quad) : (s.setQuadAt k x).bars = s.bars := rfl
@[simp] theorem State.setQuadAt_pods (s : State) (k : Nat) (x : Quad) : (s.setQuadAt k x).pods = s.pods := rfl
@[simp] theorem State.setQuadAt_ages (s : State) (k : Nat) (x : Quad) : (s.setQuadAt k x).ages = s.ages := rfl
@[simp] theorem State.setQuadAt_descs (s : State) (k : Nat) (x : Quad) : (s.setQuadAt k x).descs = s.descs := rfl
@[simp] theorem State.setQuadAt_mem (s : State) (k : Nat) (x : Quad) : (s.setQuadAt k x).mem = s.mem := rfl
@[simp] theorem State.setQuadAt_poison (s : State) (k : Nat) (x : Quad) : (s.setQuadAt k x).poison = s.poison := rfl
@[simp] theorem State.setQuadAt_l2 (s : State) (k : Nat) (x : Quad) : (s.setQuadAt k x).l2 = s.l2 := rfl
@[simp] theorem State.setQuadAt_msc (s : State) (k : Nat) (x : Quad) : (s.setQuadAt k x).msc = s.msc := rfl
@[simp] theorem State.setQuadAt_outs (s : State) (k : Nat) (x : Quad) : (s.setQuadAt k x).outs = s.outs := rfl
@[simp] theorem State.setQuadAt_stores (s : State) (k : Nat) (x : Quad) : (s.setQuadAt k x).stores = s.stores := rfl
@[simp] theorem State.setQuadAt_walks (s : State) (k : Nat) (x : Quad) : (s.setQuadAt k x).walks = s.walks := rfl
@[simp] theorem State.setQuadAt_packets (s : State) (k : Nat) (x : Quad) : (s.setQuadAt k x).packets = s.packets := rfl
@[simp] theorem State.setQuadAt_ahead (s : State) (k : Nat) (x : Quad) : (s.setQuadAt k x).ahead = s.ahead := rfl
@[simp] theorem State.setQuadAt_near (s : State) (k : Nat) (x : Quad) : (s.setQuadAt k x).near = s.near := rfl
@[simp] theorem State.setQuadAt_leases (s : State) (k : Nat) (x : Quad) : (s.setQuadAt k x).leases = s.leases := rfl
@[simp] theorem State.setQuadAt_evictions (s : State) (k : Nat) (x : Quad) : (s.setQuadAt k x).evictions = s.evictions := rfl
@[simp] theorem State.setQuadAt_arrivals (s : State) (k : Nat) (x : Quad) : (s.setQuadAt k x).arrivals = s.arrivals := rfl
@[simp] theorem State.setQuadAt_porch (s : State) (k : Nat) (x : Quad) : (s.setQuadAt k x).porch = s.porch := rfl
@[simp] theorem State.setQuadAt_deferLoads (s : State) (k : Nat) (x : Quad) : (s.setQuadAt k x).deferLoads = s.deferLoads := rfl
@[simp] theorem State.setQuadAt_deferStores (s : State) (k : Nat) (x : Quad) : (s.setQuadAt k x).deferStores = s.deferStores := rfl
@[simp] theorem State.setQuadAt_walkAsync (s : State) (k : Nat) (x : Quad) : (s.setQuadAt k x).walkAsync = s.walkAsync := rfl
@[simp] theorem State.setQuadAt_lastServed (s : State) (k : Nat) (x : Quad) : (s.setQuadAt k x).lastServed = s.lastServed := rfl
@[simp] theorem State.setQuadAt_unitsNext (s : State) (k : Nat) (x : Quad) : (s.setQuadAt k x).unitsNext = s.unitsNext := rfl
@[simp] theorem State.setQuadAt_next (s : State) (k : Nat) (x : Quad) : (s.setQuadAt k x).next = s.next := rfl

@[simp] theorem State.push_gid (s : State) (e : Instr) : (s.push e).gid = s.gid := rfl
@[simp] theorem State.push_sel (s : State) (e : Instr) : (s.push e).sel = s.sel := rfl
@[simp] theorem State.push_uni (s : State) (e : Instr) : (s.push e).uni = s.uni := rfl
@[simp] theorem State.push_timebase (s : State) (e : Instr) : (s.push e).timebase = s.timebase := rfl
@[simp] theorem State.push_tickNs (s : State) (e : Instr) : (s.push e).tickNs = s.tickNs := rfl
@[simp] theorem State.push_free (s : State) (e : Instr) : (s.push e).free = s.free := rfl
@[simp] theorem State.push_pkgId (s : State) (e : Instr) : (s.push e).pkgId = s.pkgId := rfl
@[simp] theorem State.push_groups (s : State) (e : Instr) : (s.push e).groups = s.groups := rfl
@[simp] theorem State.push_blocks (s : State) (e : Instr) : (s.push e).blocks = s.blocks := rfl
@[simp] theorem State.push_launches (s : State) (e : Instr) : (s.push e).launches = s.launches := rfl
@[simp] theorem State.push_queues (s : State) (e : Instr) : (s.push e).queues = s.queues := rfl
@[simp] theorem State.push_ctxs (s : State) (e : Instr) : (s.push e).ctxs = s.ctxs := rfl
@[simp] theorem State.push_cores (s : State) (e : Instr) : (s.push e).cores = s.cores := rfl
@[simp] theorem State.push_quads (s : State) (e : Instr) : (s.push e).quads = s.quads := rfl
@[simp] theorem State.push_stations (s : State) (e : Instr) : (s.push e).stations = s.stations := rfl
@[simp] theorem State.push_bars (s : State) (e : Instr) : (s.push e).bars = s.bars := rfl
@[simp] theorem State.push_pods (s : State) (e : Instr) : (s.push e).pods = s.pods := rfl
@[simp] theorem State.push_ages (s : State) (e : Instr) : (s.push e).ages = s.ages := rfl
@[simp] theorem State.push_descs (s : State) (e : Instr) : (s.push e).descs = s.descs := rfl
@[simp] theorem State.push_mem (s : State) (e : Instr) : (s.push e).mem = s.mem := rfl
@[simp] theorem State.push_poison (s : State) (e : Instr) : (s.push e).poison = s.poison := rfl
@[simp] theorem State.push_l2 (s : State) (e : Instr) : (s.push e).l2 = s.l2 := rfl
@[simp] theorem State.push_msc (s : State) (e : Instr) : (s.push e).msc = s.msc := rfl
@[simp] theorem State.push_outs (s : State) (e : Instr) : (s.push e).outs = s.outs := rfl
@[simp] theorem State.push_stores (s : State) (e : Instr) : (s.push e).stores = s.stores := rfl
@[simp] theorem State.push_walks (s : State) (e : Instr) : (s.push e).walks = s.walks := rfl
@[simp] theorem State.push_packets (s : State) (e : Instr) : (s.push e).packets = s.packets := rfl
@[simp] theorem State.push_ahead (s : State) (e : Instr) : (s.push e).ahead = s.ahead := rfl
@[simp] theorem State.push_near (s : State) (e : Instr) : (s.push e).near = s.near := rfl
@[simp] theorem State.push_leases (s : State) (e : Instr) : (s.push e).leases = s.leases := rfl
@[simp] theorem State.push_evictions (s : State) (e : Instr) : (s.push e).evictions = s.evictions := rfl
@[simp] theorem State.push_arrivals (s : State) (e : Instr) : (s.push e).arrivals = s.arrivals := rfl
@[simp] theorem State.push_porch (s : State) (e : Instr) : (s.push e).porch = s.porch := rfl
@[simp] theorem State.push_deferLoads (s : State) (e : Instr) : (s.push e).deferLoads = s.deferLoads := rfl
@[simp] theorem State.push_deferStores (s : State) (e : Instr) : (s.push e).deferStores = s.deferStores := rfl
@[simp] theorem State.push_walkAsync (s : State) (e : Instr) : (s.push e).walkAsync = s.walkAsync := rfl
@[simp] theorem State.push_lastServed (s : State) (e : Instr) : (s.push e).lastServed = s.lastServed := rfl
@[simp] theorem State.push_unitsNext (s : State) (e : Instr) : (s.push e).unitsNext = s.unitsNext := rfl
@[simp] theorem State.push_next (s : State) (e : Instr) : (s.push e).next = s.next := rfl

@[simp] theorem State.grpAt_setGrpAt (s : State) (k : Nat) (x : Group) : (s.setGrpAt k x).grpAt k = x := by
  simp [State.grpAt, State.setGrpAt, tget?_tput_same]
theorem State.grpAt_setGrpAt_ne (s : State) (k j : Nat) (x : Group) (h : j ≠ k) : (s.setGrpAt k x).grpAt j = s.grpAt j := by
  simp [State.grpAt, State.setGrpAt, tget?_tput_ne _ _ _ _ h]
@[simp] theorem State.grpAt_setBlkAt (s : State) (j k : Nat) (x : Block) : (s.setBlkAt k x).grpAt j = s.grpAt j := rfl
@[simp] theorem State.grpAt_setLncAt (s : State) (j k : Nat) (x : Launch) : (s.setLncAt k x).grpAt j = s.grpAt j := rfl
@[simp] theorem State.grpAt_setCtxAt (s : State) (j k : Nat) (x : Ctx) : (s.setCtxAt k x).grpAt j = s.grpAt j := rfl
@[simp] theorem State.grpAt_setCoreAt (s : State) (j k : Nat) (x : Core) : (s.setCoreAt k x).grpAt j = s.grpAt j := rfl
@[simp] theorem State.grpAt_setQueueAt (s : State) (j k : Nat) (x : Queue) : (s.setQueueAt k x).grpAt j = s.grpAt j := rfl
@[simp] theorem State.grpAt_setStationAt (s : State) (j k : Nat) (x : Station) : (s.setStationAt k x).grpAt j = s.grpAt j := rfl
@[simp] theorem State.grpAt_setQuadAt (s : State) (j k : Nat) (x : Quad) : (s.setQuadAt k x).grpAt j = s.grpAt j := rfl
@[simp] theorem State.blkAt_setBlkAt (s : State) (k : Nat) (x : Block) : (s.setBlkAt k x).blkAt k = x := by
  simp [State.blkAt, State.setBlkAt, tget?_tput_same]
theorem State.blkAt_setBlkAt_ne (s : State) (k j : Nat) (x : Block) (h : j ≠ k) : (s.setBlkAt k x).blkAt j = s.blkAt j := by
  simp [State.blkAt, State.setBlkAt, tget?_tput_ne _ _ _ _ h]
@[simp] theorem State.blkAt_setGrpAt (s : State) (j k : Nat) (x : Group) : (s.setGrpAt k x).blkAt j = s.blkAt j := rfl
@[simp] theorem State.blkAt_setLncAt (s : State) (j k : Nat) (x : Launch) : (s.setLncAt k x).blkAt j = s.blkAt j := rfl
@[simp] theorem State.blkAt_setCtxAt (s : State) (j k : Nat) (x : Ctx) : (s.setCtxAt k x).blkAt j = s.blkAt j := rfl
@[simp] theorem State.blkAt_setCoreAt (s : State) (j k : Nat) (x : Core) : (s.setCoreAt k x).blkAt j = s.blkAt j := rfl
@[simp] theorem State.blkAt_setQueueAt (s : State) (j k : Nat) (x : Queue) : (s.setQueueAt k x).blkAt j = s.blkAt j := rfl
@[simp] theorem State.blkAt_setStationAt (s : State) (j k : Nat) (x : Station) : (s.setStationAt k x).blkAt j = s.blkAt j := rfl
@[simp] theorem State.blkAt_setQuadAt (s : State) (j k : Nat) (x : Quad) : (s.setQuadAt k x).blkAt j = s.blkAt j := rfl
@[simp] theorem State.lncAt_setLncAt (s : State) (k : Nat) (x : Launch) : (s.setLncAt k x).lncAt k = x := by
  simp [State.lncAt, State.setLncAt, tget?_tput_same]
theorem State.lncAt_setLncAt_ne (s : State) (k j : Nat) (x : Launch) (h : j ≠ k) : (s.setLncAt k x).lncAt j = s.lncAt j := by
  simp [State.lncAt, State.setLncAt, tget?_tput_ne _ _ _ _ h]
@[simp] theorem State.lncAt_setGrpAt (s : State) (j k : Nat) (x : Group) : (s.setGrpAt k x).lncAt j = s.lncAt j := rfl
@[simp] theorem State.lncAt_setBlkAt (s : State) (j k : Nat) (x : Block) : (s.setBlkAt k x).lncAt j = s.lncAt j := rfl
@[simp] theorem State.lncAt_setCtxAt (s : State) (j k : Nat) (x : Ctx) : (s.setCtxAt k x).lncAt j = s.lncAt j := rfl
@[simp] theorem State.lncAt_setCoreAt (s : State) (j k : Nat) (x : Core) : (s.setCoreAt k x).lncAt j = s.lncAt j := rfl
@[simp] theorem State.lncAt_setQueueAt (s : State) (j k : Nat) (x : Queue) : (s.setQueueAt k x).lncAt j = s.lncAt j := rfl
@[simp] theorem State.lncAt_setStationAt (s : State) (j k : Nat) (x : Station) : (s.setStationAt k x).lncAt j = s.lncAt j := rfl
@[simp] theorem State.lncAt_setQuadAt (s : State) (j k : Nat) (x : Quad) : (s.setQuadAt k x).lncAt j = s.lncAt j := rfl
@[simp] theorem State.ctxAt_setCtxAt (s : State) (k : Nat) (x : Ctx) : (s.setCtxAt k x).ctxAt k = x := by
  simp [State.ctxAt, State.setCtxAt, tget?_tput_same]
theorem State.ctxAt_setCtxAt_ne (s : State) (k j : Nat) (x : Ctx) (h : j ≠ k) : (s.setCtxAt k x).ctxAt j = s.ctxAt j := by
  simp [State.ctxAt, State.setCtxAt, tget?_tput_ne _ _ _ _ h]
@[simp] theorem State.ctxAt_setGrpAt (s : State) (j k : Nat) (x : Group) : (s.setGrpAt k x).ctxAt j = s.ctxAt j := rfl
@[simp] theorem State.ctxAt_setBlkAt (s : State) (j k : Nat) (x : Block) : (s.setBlkAt k x).ctxAt j = s.ctxAt j := rfl
@[simp] theorem State.ctxAt_setLncAt (s : State) (j k : Nat) (x : Launch) : (s.setLncAt k x).ctxAt j = s.ctxAt j := rfl
@[simp] theorem State.ctxAt_setCoreAt (s : State) (j k : Nat) (x : Core) : (s.setCoreAt k x).ctxAt j = s.ctxAt j := rfl
@[simp] theorem State.ctxAt_setQueueAt (s : State) (j k : Nat) (x : Queue) : (s.setQueueAt k x).ctxAt j = s.ctxAt j := rfl
@[simp] theorem State.ctxAt_setStationAt (s : State) (j k : Nat) (x : Station) : (s.setStationAt k x).ctxAt j = s.ctxAt j := rfl
@[simp] theorem State.ctxAt_setQuadAt (s : State) (j k : Nat) (x : Quad) : (s.setQuadAt k x).ctxAt j = s.ctxAt j := rfl
@[simp] theorem State.coreAt_setCoreAt (s : State) (k : Nat) (x : Core) : (s.setCoreAt k x).coreAt k = x := by
  simp [State.coreAt, State.setCoreAt, tget?_tput_same]
theorem State.coreAt_setCoreAt_ne (s : State) (k j : Nat) (x : Core) (h : j ≠ k) : (s.setCoreAt k x).coreAt j = s.coreAt j := by
  simp [State.coreAt, State.setCoreAt, tget?_tput_ne _ _ _ _ h]
@[simp] theorem State.coreAt_setGrpAt (s : State) (j k : Nat) (x : Group) : (s.setGrpAt k x).coreAt j = s.coreAt j := rfl
@[simp] theorem State.coreAt_setBlkAt (s : State) (j k : Nat) (x : Block) : (s.setBlkAt k x).coreAt j = s.coreAt j := rfl
@[simp] theorem State.coreAt_setLncAt (s : State) (j k : Nat) (x : Launch) : (s.setLncAt k x).coreAt j = s.coreAt j := rfl
@[simp] theorem State.coreAt_setCtxAt (s : State) (j k : Nat) (x : Ctx) : (s.setCtxAt k x).coreAt j = s.coreAt j := rfl
@[simp] theorem State.coreAt_setQueueAt (s : State) (j k : Nat) (x : Queue) : (s.setQueueAt k x).coreAt j = s.coreAt j := rfl
@[simp] theorem State.coreAt_setStationAt (s : State) (j k : Nat) (x : Station) : (s.setStationAt k x).coreAt j = s.coreAt j := rfl
@[simp] theorem State.coreAt_setQuadAt (s : State) (j k : Nat) (x : Quad) : (s.setQuadAt k x).coreAt j = s.coreAt j := rfl
@[simp] theorem State.queueAt_setQueueAt (s : State) (k : Nat) (x : Queue) : (s.setQueueAt k x).queueAt k = x := by
  simp [State.queueAt, State.setQueueAt, tget?_tput_same]
theorem State.queueAt_setQueueAt_ne (s : State) (k j : Nat) (x : Queue) (h : j ≠ k) : (s.setQueueAt k x).queueAt j = s.queueAt j := by
  simp [State.queueAt, State.setQueueAt, tget?_tput_ne _ _ _ _ h]
@[simp] theorem State.queueAt_setGrpAt (s : State) (j k : Nat) (x : Group) : (s.setGrpAt k x).queueAt j = s.queueAt j := rfl
@[simp] theorem State.queueAt_setBlkAt (s : State) (j k : Nat) (x : Block) : (s.setBlkAt k x).queueAt j = s.queueAt j := rfl
@[simp] theorem State.queueAt_setLncAt (s : State) (j k : Nat) (x : Launch) : (s.setLncAt k x).queueAt j = s.queueAt j := rfl
@[simp] theorem State.queueAt_setCtxAt (s : State) (j k : Nat) (x : Ctx) : (s.setCtxAt k x).queueAt j = s.queueAt j := rfl
@[simp] theorem State.queueAt_setCoreAt (s : State) (j k : Nat) (x : Core) : (s.setCoreAt k x).queueAt j = s.queueAt j := rfl
@[simp] theorem State.queueAt_setStationAt (s : State) (j k : Nat) (x : Station) : (s.setStationAt k x).queueAt j = s.queueAt j := rfl
@[simp] theorem State.queueAt_setQuadAt (s : State) (j k : Nat) (x : Quad) : (s.setQuadAt k x).queueAt j = s.queueAt j := rfl
@[simp] theorem State.stationAt_setStationAt (s : State) (k : Nat) (x : Station) : (s.setStationAt k x).stationAt k = x := by
  simp [State.stationAt, State.setStationAt, tget?_tput_same]
theorem State.stationAt_setStationAt_ne (s : State) (k j : Nat) (x : Station) (h : j ≠ k) : (s.setStationAt k x).stationAt j = s.stationAt j := by
  simp [State.stationAt, State.setStationAt, tget?_tput_ne _ _ _ _ h]
@[simp] theorem State.stationAt_setGrpAt (s : State) (j k : Nat) (x : Group) : (s.setGrpAt k x).stationAt j = s.stationAt j := rfl
@[simp] theorem State.stationAt_setBlkAt (s : State) (j k : Nat) (x : Block) : (s.setBlkAt k x).stationAt j = s.stationAt j := rfl
@[simp] theorem State.stationAt_setLncAt (s : State) (j k : Nat) (x : Launch) : (s.setLncAt k x).stationAt j = s.stationAt j := rfl
@[simp] theorem State.stationAt_setCtxAt (s : State) (j k : Nat) (x : Ctx) : (s.setCtxAt k x).stationAt j = s.stationAt j := rfl
@[simp] theorem State.stationAt_setCoreAt (s : State) (j k : Nat) (x : Core) : (s.setCoreAt k x).stationAt j = s.stationAt j := rfl
@[simp] theorem State.stationAt_setQueueAt (s : State) (j k : Nat) (x : Queue) : (s.setQueueAt k x).stationAt j = s.stationAt j := rfl
@[simp] theorem State.stationAt_setQuadAt (s : State) (j k : Nat) (x : Quad) : (s.setQuadAt k x).stationAt j = s.stationAt j := rfl
@[simp] theorem State.quadAt_setQuadAt (s : State) (k : Nat) (x : Quad) : (s.setQuadAt k x).quadAt k = x := by
  simp [State.quadAt, State.setQuadAt, tget?_tput_same]
theorem State.quadAt_setQuadAt_ne (s : State) (k j : Nat) (x : Quad) (h : j ≠ k) : (s.setQuadAt k x).quadAt j = s.quadAt j := by
  simp [State.quadAt, State.setQuadAt, tget?_tput_ne _ _ _ _ h]
@[simp] theorem State.quadAt_setGrpAt (s : State) (j k : Nat) (x : Group) : (s.setGrpAt k x).quadAt j = s.quadAt j := rfl
@[simp] theorem State.quadAt_setBlkAt (s : State) (j k : Nat) (x : Block) : (s.setBlkAt k x).quadAt j = s.quadAt j := rfl
@[simp] theorem State.quadAt_setLncAt (s : State) (j k : Nat) (x : Launch) : (s.setLncAt k x).quadAt j = s.quadAt j := rfl
@[simp] theorem State.quadAt_setCtxAt (s : State) (j k : Nat) (x : Ctx) : (s.setCtxAt k x).quadAt j = s.quadAt j := rfl
@[simp] theorem State.quadAt_setCoreAt (s : State) (j k : Nat) (x : Core) : (s.setCoreAt k x).quadAt j = s.quadAt j := rfl
@[simp] theorem State.quadAt_setQueueAt (s : State) (j k : Nat) (x : Queue) : (s.setQueueAt k x).quadAt j = s.quadAt j := rfl
@[simp] theorem State.quadAt_setStationAt (s : State) (j k : Nat) (x : Station) : (s.setStationAt k x).quadAt j = s.quadAt j := rfl

@[simp] theorem State.grp_setGrp (s : State) (g : Group) : (s.setGrp g).grp = g := State.grpAt_setGrpAt s s.gid g
theorem State.grpAt_setGrp_ne (s : State) (g : Group) (k : Nat) (h : k ≠ s.gid) : (s.setGrp g).grpAt k = s.grpAt k :=
  State.grpAt_setGrpAt_ne s s.gid k g h
@[simp] theorem Group.slot_setSlot (g : Group) (x : SlotId) (t : Slot) : (g.setSlot x t).slot x = t := by cases x <;> rfl
@[simp] theorem Group.slot_setSlot_other (g : Group) (x : SlotId) (t : Slot) :
    (g.setSlot x t).slot (otherSlot x) = g.slot (otherSlot x) := by cases x <;> rfl
@[simp] theorem State.slot_setSlot (s : State) (x : Slot) : (s.setSlot x).slot = x := by
  simp only [State.slot, State.setSlot, State.grp_setGrp, State.setGrp_sel, Group.slot_setSlot]

@[simp] theorem Group.setSlot_ctx (g : Group) (x : SlotId) (t : Slot) : (g.setSlot x t).ctx = g.ctx := by cases x <;> rfl
@[simp] theorem Group.setSlot_launch (g : Group) (x : SlotId) (t : Slot) : (g.setSlot x t).launch = g.launch := by cases x <;> rfl
@[simp] theorem Group.setSlot_block (g : Group) (x : SlotId) (t : Slot) : (g.setSlot x t).block = g.block := by cases x <;> rfl
@[simp] theorem Group.setSlot_num (g : Group) (x : SlotId) (t : Slot) : (g.setSlot x t).num = g.num := by cases x <;> rfl
@[simp] theorem Group.setSlot_core (g : Group) (x : SlotId) (t : Slot) : (g.setSlot x t).core = g.core := by cases x <;> rfl
@[simp] theorem Group.setSlot_port (g : Group) (x : SlotId) (t : Slot) : (g.setSlot x t).port = g.port := by cases x <;> rfl
@[simp] theorem Group.setSlot_base (g : Group) (x : SlotId) (t : Slot) : (g.setSlot x t).base = g.base := by cases x <;> rfl
@[simp] theorem Group.setSlot_alloc (g : Group) (x : SlotId) (t : Slot) : (g.setSlot x t).alloc = g.alloc := by cases x <;> rfl
@[simp] theorem Group.setSlot_annexBase (g : Group) (x : SlotId) (t : Slot) : (g.setSlot x t).annexBase = g.annexBase := by cases x <;> rfl
@[simp] theorem Group.setSlot_annexAlloc (g : Group) (x : SlotId) (t : Slot) : (g.setSlot x t).annexAlloc = g.annexAlloc := by cases x <;> rfl
@[simp] theorem Group.setSlot_gtag (g : Group) (x : SlotId) (t : Slot) : (g.setSlot x t).gtag = g.gtag := by cases x <;> rfl
@[simp] theorem Group.setSlot_stage (g : Group) (x : SlotId) (t : Slot) : (g.setSlot x t).stage = g.stage := by cases x <;> rfl
@[simp] theorem Group.setSlot_v (g : Group) (x : SlotId) (t : Slot) : (g.setSlot x t).v = g.v := by cases x <;> rfl
@[simp] theorem Group.setSlot_annex (g : Group) (x : SlotId) (t : Slot) : (g.setSlot x t).annex = g.annex := by cases x <;> rfl
@[simp] theorem Group.setSlot_s (g : Group) (x : SlotId) (t : Slot) : (g.setSlot x t).s = g.s := by cases x <;> rfl
@[simp] theorem Group.setSlot_m (g : Group) (x : SlotId) (t : Slot) : (g.setSlot x t).m = g.m := by cases x <;> rfl
@[simp] theorem Group.setSlot_xbase (g : Group) (x : SlotId) (t : Slot) : (g.setSlot x t).xbase = g.xbase := by cases x <;> rfl
@[simp] theorem Group.setSlot_xlimit (g : Group) (x : SlotId) (t : Slot) : (g.setSlot x t).xlimit = g.xlimit := by cases x <;> rfl
@[simp] theorem Group.setSlot_xindex (g : Group) (x : SlotId) (t : Slot) : (g.setSlot x t).xindex = g.xindex := by cases x <;> rfl
@[simp] theorem Group.setSlot_planes (g : Group) (x : SlotId) (t : Slot) : (g.setSlot x t).planes = g.planes := by cases x <;> rfl
@[simp] theorem Group.setSlot_laneFlags (g : Group) (x : SlotId) (t : Slot) : (g.setSlot x t).laneFlags = g.laneFlags := by cases x <;> rfl
@[simp] theorem Group.setSlot_landing (g : Group) (x : SlotId) (t : Slot) : (g.setSlot x t).landing = g.landing := by cases x <;> rfl
@[simp] theorem Group.setSlot_trapEn (g : Group) (x : SlotId) (t : Slot) : (g.setSlot x t).trapEn = g.trapEn := by cases x <;> rfl
@[simp] theorem Group.setSlot_fpMode (g : Group) (x : SlotId) (t : Slot) : (g.setSlot x t).fpMode = g.fpMode := by cases x <;> rfl
@[simp] theorem Group.setSlot_splitJoin (g : Group) (x : SlotId) (t : Slot) : (g.setSlot x t).splitJoin = g.splitJoin := by cases x <;> rfl
@[simp] theorem Group.setSlot_outerJoin (g : Group) (x : SlotId) (t : Slot) : (g.setSlot x t).outerJoin = g.outerJoin := by cases x <;> rfl
@[simp] theorem Group.setSlot_fusion (g : Group) (x : SlotId) (t : Slot) : (g.setSlot x t).fusion = g.fusion := by cases x <;> rfl
@[simp] theorem Group.setSlot_stack (g : Group) (x : SlotId) (t : Slot) : (g.setSlot x t).stack = g.stack := by cases x <;> rfl
@[simp] theorem Group.setSlot_alive (g : Group) (x : SlotId) (t : Slot) : (g.setSlot x t).alive = g.alive := by cases x <;> rfl
@[simp] theorem Group.setSlot_halted (g : Group) (x : SlotId) (t : Slot) : (g.setSlot x t).halted = g.halted := by cases x <;> rfl
@[simp] theorem Group.setSlot_step (g : Group) (x : SlotId) (t : Slot) : (g.setSlot x t).step = g.step := by cases x <;> rfl

end Sys2Proof.Machine
end

