-- ==== Sys2Proof/Laws/Issue.lean ====
section
/-! SUPPORT. What the shared frame of an issue can do, and when it does which. -/

namespace Sys2Proof.Machine

theorem issue_done {ahead : Bool} {frm : State → Form} {eff : State → Issue} {s t : State}
    (h : s.goesOn ahead (frm s) = true) (he : eff s = .done t) : issue ahead frm eff s = .next t.advance := by
  simp only [State.goesOn, State.issues, Bool.and_eq_true, Bool.not_eq_true', Option.isNone_iff_eq_none] at h
  obtain ⟨⟨⟨h1, h2⟩, h3⟩, h4⟩ := h
  simp [issue, h1, h2, h3, he, h4]

theorem issue_wait {ahead : Bool} {frm : State → Form} {eff : State → Issue} {s t : State}
    (h : s.goesOn ahead (frm s) = true) (he : eff s = .wait t) : issue ahead frm eff s = .next t := by
  simp only [State.goesOn, State.issues, Bool.and_eq_true, Bool.not_eq_true', Option.isNone_iff_eq_none] at h
  obtain ⟨⟨⟨h1, h2⟩, h3⟩, h4⟩ := h
  simp [issue, h1, h2, h3, he, h4]

theorem issue_trap {ahead : Bool} {frm : State → Form} {eff : State → Issue} {s : State} {t : Trap}
    (h : s.issues ahead (frm s) = true) (he : eff s = .trap t) : issue ahead frm eff s = .next (s.takeTrap t) := by
  simp only [State.issues, Bool.and_eq_true, Bool.not_eq_true', Option.isNone_iff_eq_none] at h
  obtain ⟨⟨h1, h2⟩, h3⟩ := h
  simp [issue, h1, h2, h3, he]

theorem issue_stay {ahead : Bool} {frm : State → Form} {eff : State → Issue} {s t : State}
    (h : s.issues ahead (frm s) = true) (he : eff s = .stay t) : issue ahead frm eff s = .next t := by
  simp only [State.issues, Bool.and_eq_true, Bool.not_eq_true', Option.isNone_iff_eq_none] at h
  obtain ⟨⟨h1, h2⟩, h3⟩ := h
  simp [issue, h1, h2, h3, he]

theorem State.issues_of_goesOn {s : State} {ahead : Bool} {f : Form} (h : s.goesOn ahead f = true) : s.issues ahead f = true := by
  simp only [State.goesOn, Bool.and_eq_true] at h
  exact h.1

/-- Everything an issue can do: nothing, a trap, or what the instruction's effect says. -/
theorem issue_cases {ahead : Bool} {frm : State → Form} {eff : State → Issue} {s t : State}
    (h : issue ahead frm eff s = .next t) :
    t = s ∨ (∃ r, t = s.takeTrap r) ∨ eff s = .stay t ∨ eff s = .wait t ∨ ∃ u, eff s = .done u ∧ t = u.advance := by
  simp only [issue] at h
  split at h
  · cases h; exact .inl rfl
  · split at h
    · cases h; exact .inr (.inl ⟨_, rfl⟩)
    · split at h
      · cases h; exact .inr (.inl ⟨_, rfl⟩)
      · next he => cases h; exact .inr (.inr (.inl he))
      · next he =>
        split at h
        · cases h; exact .inr (.inl ⟨_, rfl⟩)
        · cases h; exact .inr (.inr (.inr (.inl he)))
      · next he =>
        split at h
        · cases h; exact .inr (.inl ⟨_, rfl⟩)
        · cases h; exact .inr (.inr (.inr (.inr ⟨_, he, rfl⟩)))

/-- An issue always answers a next state. -/
theorem issue_next (ahead : Bool) (frm : State → Form) (eff : State → Issue) (s : State) : ∃ t, issue ahead frm eff s = .next t := by
  simp only [issue]
  split
  · exact ⟨_, rfl⟩
  · split
    · exact ⟨_, rfl⟩
    · split
      · exact ⟨_, rfl⟩
      · exact ⟨_, rfl⟩
      · split <;> exact ⟨_, rfl⟩
      · split <;> exact ⟨_, rfl⟩

/-- Results with events are written where no enabled event is raised. -/
theorem writeEv_done {s : State} {o : Opd} {E : Lanes} {f : Lane → List Word × Events}
    (h : trapLanes s.grp.trapEn E (fun L => (f L).2) = 0#32) :
    s.writeEv o E f
      = .done (s.setGrp ((s.grp.wrLanes o (fun L => (f L).1) (lanesOf E)).orFlags (fun L => (f L).2) (lanesOf E))) := by
  simp [State.writeEv, h]

/-- Otherwise the precise trap of R53 is taken. -/
theorem writeEv_trap {s : State} {o : Opd} {E : Lanes} {f : Lane → List Word × Events}
    (h : trapLanes s.grp.trapEn E (fun L => (f L).2) ≠ 0#32) :
    s.writeEv o E f = .trap
      { cause := trapCause s.grp.trapEn (trapLanes s.grp.trapEn E fun L => (f L).2) fun L => (f L).2
        mask := trapLanes s.grp.trapEn E fun L => (f L).2 } := by
  simp [State.writeEv, h]

end Sys2Proof.Machine
end

