-- ==== Sys2Proof/Laws/Registers.lean ====
section
/-! SUPPORT. What writing a destination can change in a group, and that the register files keep their canonical form. -/

namespace Sys2Proof.Machine

/-- A write of an operand reaches the v, annex and s files only. -/
theorem Group.wr_frame (g : Group) (o : Opd) (j : Nat) (L : Lane) (w : Word) :
    { g.wr o j L w with v := g.v, annex := g.annex, s := g.s } = g := by
  cases o <;> try rfl
  simp only [Group.wr, Group.setEntry]
  split <;> rfl

theorem Group.wrList_frame (g : Group) (o : Opd) (j : Nat) (L : Lane) (ws : List Word) :
    { g.wrList o j L ws with v := g.v, annex := g.annex, s := g.s } = g := by
  induction ws generalizing g j with
  | nil => rfl
  | cons w ws ih =>
    have h := ih (g.wr o j L w) (j + 1)
    have h2 := g.wr_frame o j L w
    simp only [Group.wrList]
    conv => rhs; rw [← h2]
    conv => rhs; rw [← h]

theorem Group.wrLanes_frame (g : Group) (o : Opd) (f : Lane → List Word) (Ls : List Lane) :
    { g.wrLanes o f Ls with v := g.v, annex := g.annex, s := g.s } = g := by
  induction Ls generalizing g with
  | nil => rfl
  | cons L Ls ih =>
    have h := ih (g.wrList o 0 L (f L))
    have h2 := g.wrList_frame o 0 L (f L)
    simp only [Group.wrLanes]
    conv => rhs; rw [← h2]
    conv => rhs; rw [← h]

theorem Group.orFlags_frame (g : Group) (ev : Lane → Events) (Ls : List Lane) :
    { g.orFlags ev Ls with laneFlags := g.laneFlags } = g := by
  induction Ls generalizing g with
  | nil => rfl
  | cons L Ls ih =>
    exact congrArg (fun (x : Group) => { x with laneFlags := g.laneFlags })
      (ih { g with laneFlags := sput g.laneFlags L (sget g.laneFlags L ||| (ev L).setWidth 32) })

theorem Group.wr_canon {g : Group} (o : Opd) (j : Nat) (L : Lane) (w : Word) (h : g.canon) : (g.wr o j L w).canon := by
  obtain ⟨h1, h2, h3, h4⟩ := h
  cases o with
  | v n => exact ⟨swf_sput _ _ h1, h2, h3, h4⟩
  | s n => exact ⟨h1, h2, swf_sput _ _ h3, h4⟩
  | vx k =>
    simp only [Group.wr, Group.setEntry]
    split
    · exact ⟨swf_sput _ _ h1, h2, h3, h4⟩
    · exact ⟨h1, swf_sput _ _ h2, h3, h4⟩
  | _ => exact ⟨h1, h2, h3, h4⟩

theorem Group.wrList_canon {g : Group} (o : Opd) (j : Nat) (L : Lane) (ws : List Word) (h : g.canon) : (g.wrList o j L ws).canon := by
  induction ws generalizing g j with
  | nil => exact h
  | cons w ws ih => exact ih (j + 1) (Group.wr_canon o j L w h)

theorem Group.wrLanes_canon {g : Group} (o : Opd) (f : Lane → List Word) (Ls : List Lane) (h : g.canon) :
    (g.wrLanes o f Ls).canon := by
  induction Ls generalizing g with
  | nil => exact h
  | cons L Ls ih => exact ih (Group.wrList_canon o 0 L (f L) h)

theorem Group.orFlags_canon {g : Group} (ev : Lane → Events) (Ls : List Lane) (h : g.canon) : (g.orFlags ev Ls).canon := by
  induction Ls generalizing g with
  | nil => exact h
  | cons L Ls ih =>
    obtain ⟨h1, h2, h3, h4, h5, h6, h7, h8, h9, h10⟩ := h
    exact ih ⟨h1, h2, h3, h4, h5, h6, h7, h8, swf_sput _ _ h9, h10⟩

theorem Group.setSlot_canon {g : Group} (x : SlotId) (t : Slot) (h : g.canon) : (g.setSlot x t).canon := by
  cases x <;> exact h

theorem State.grp_canon {s : State} (h : s.regsWf) : s.grp.canon := by
  simp only [State.grp, State.grpAt]
  cases e : tget? s.groups s.gid with
  | none => exact ⟨rfl, rfl, rfl, rfl, rfl, rfl, rfl, rfl, rfl, rfl⟩
  | some g => exact h _ (tget?_mem e)

theorem State.setGrpAt_regsWf {s : State} (k : Nat) (g : Group) (h : s.regsWf) (hg : g.canon) : (s.setGrpAt k g).regsWf := by
  intro p hp
  rcases mem_tput hp with e | e
  · subst e; exact hg
  · exact h p e

theorem State.setSlot_regsWf {s : State} (x : Slot) (h : s.regsWf) : (s.setSlot x).regsWf :=
  State.setGrpAt_regsWf s.gid _ h (Group.setSlot_canon s.sel x (State.grp_canon h))

/-! ## Going on -/

theorem Group.fuseParked_regs (g : Group) : g.fuseParked.regs = g.regs := by
  simp only [Group.fuseParked]
  split <;> rfl

theorem Group.setSlot_regs (g : Group) (x : SlotId) (t : Slot) : (g.setSlot x t).regs = g.regs := by cases x <;> rfl

/-- Going to an offset changes only the slots of the group that issues. -/
theorem State.moveTo_frame (s : State) (o : Offset) :
    { s.moveTo o with groups := s.groups } = s ∧ (s.moveTo o).grp.regs = s.grp.regs
      ∧ ∀ k, k ≠ s.gid → (s.moveTo o).grpAt k = s.grpAt k := by
  refine ⟨rfl, ?_, fun k h => State.grpAt_setGrp_ne s _ k h⟩
  simp only [State.moveTo, State.grp_setGrp, Group.fuseParked_regs, Group.setSlot_regs]

/-- Going on after a pass changes only the slots of the group that issues. -/
theorem State.advance_frame (s : State) :
    { s.advance with groups := s.groups } = s ∧ s.advance.grp.regs = s.grp.regs
      ∧ ∀ k, k ≠ s.gid → s.advance.grpAt k = s.grpAt k := by
  simp only [State.advance, State.advanceFrom]
  split
  · refine ⟨rfl, ?_, fun k h => State.grpAt_setGrp_ne s _ k h⟩
    simp only [State.setSlot, State.grp_setGrp, Group.setSlot_regs]
  · exact State.moveTo_frame s _

theorem State.advance_mem (s : State) : s.advance.mem = s.mem := by
  have h := congrArg State.mem (State.advance_frame s).1
  exact h

end Sys2Proof.Machine
end

