-- ==== Sys2Proof/Tests/Slice0.lean ====
section
/-! SUPPORT. Tests on single words and single steps, and for every obligation with hypotheses a state that meets them. -/

namespace Sys2Proof.Tests

open Sys2Proof.Machine

set_option Elab.async false

/-! ## Small states -/

/-- One group of 32 lanes in one block, its code at address 0; the first 64 KiB of virtual space map to memory. -/
def tiny : State := { State.reset.placeWord 0#96 with gid := 0, sel := .A, uni := true }

/-- The launch's packet with some bits set. -/
def withPkt (s : State) (n : Nat) : State :=
  { s with launches := s.launches.map fun p => (p.1, { p.2 with pkt := p.2.pkt ||| BitVec.ofNat 1024 n }) }

/-- The group changed. -/
def withGrp (s : State) (f : Group → Group) : State := s.setGrp (f s.grp)

/-- The slot changed. -/
def withSlot (s : State) (f : Slot → Slot) : State := s.setSlot (f s.slot)

/-- A group with scalar registers set. -/
def withS (s : State) (ws : List (Nat × Word)) : State :=
  ws.foldl (fun (t : State) p => withGrp t fun (g : Group) => { g with s := sput g.s p.1 p.2 }) s

def rg (d a b c : Opd) : RegF := ⟨0#3, false, d, a, b, c, false, false, false, false, false, false, 0#2, 0#5, 0#2⟩
def im (d a : Opd) (w : Word) : ImmF := ⟨0#3, false, d, a, w⟩
def me (d a s t : Opd) (z : Size) (off : BitVec 20) : MemF := ⟨0#3, false, d, a, s, t, z, .plain, .core, .default, off⟩
def br (jslot : BitVec 3) (jdisp : BitVec 20) (slot : BitVec 3) (disp : BitVec 20) : BrF :=
  ⟨0#3, false, opdZero, opdZero, jslot, jdisp, 0#3, false, slot, disp⟩
def en (d a b c : Opd) : EngF := ⟨0#3, false, d, a, b, c, 0#6, 0#2, 0#4, .core⟩
def sy (d b : Opd) (csr : BitVec 12) (i : BitVec 16) : SysF := ⟨0#3, false, d, opdZero, csr, b, i⟩
abbrev o0 : Opd := opdZero


/-! ## Decoding: the spec's worked encodings -/

/-- Each word decodes to its instruction, the instruction is well-formed, and its word encodes back. -/
noncomputable def spelled (l : List (IWord × Instr)) : Bool :=
  l.all fun p => (decode p.1 == .ok p.2) && p.2.wf && (encode p.2 == some p.1)

/-- Each word is refused with its cause. -/
noncomputable def refused (l : List (IWord × Cause)) : Bool := l.all fun p => decode p.1 == .error p.2

/-- chapters 3 and 4 -/
theorem test_decode_formats : spelled
    [(0x4004508090A0800000000000#96, .vfmaF32 { rg (.v 8) (.v 9) (.v 10) (.v 8) with guard := 2#3, ginv := true }),
     (0x4004014090D1480820000000#96, .vfmaF32 { rg (.v 20) (.v 9) (.v 13) (.v 20) with nega := true, clamp := 1#2, hold := 2#2 }),
     (0x2100A2829FFFFFFF00000000#96, .vaddI32Imm { im (.v 40) (.v 41) 0xFFFFFFF0#32 with guard := 5#3 }),
     (0x700000CC4000045000040000#96, .ldG { me (.v 12) (.s 4) o0 o0 .b32 0x40#20 with order := .acq, scope := .die } false),
     (0x7000010020000600FFFF8000#96, .ldG (me (.v 16) (.v 2) o0 o0 .b64 0xFFFF8#20) false),
     (0xA0000C500000000040000000#96, .barArrive { en (.s 5) o0 o0 o0 with scope := .die } 0#4),
     (0xE0000C200010000000000000#96, .csrr (sy (.s 2) o0 0x010#12 0#16)),
     (0x930000006CACB00004000000#96, .xset (rg o0 (.v 6) (.s 10) (.s 11)) 1#2),
     (0x930301E00000000004000000#96, .xget (rg (.v 30) o0 o0 o0) 1#2)] = true := by decide +kernel

/-- chapter 5 -/
theorem test_decode_scalar_control : spelled
    [(0x01000C3C4C50000000000000#96, .saddI32 (rg (.s 3) (.s 4) (.s 5) o0)),
     (0x02060D0D0000000030000000#96, .sorB32Imm (im (.s 16) (.s 16) 3#32)),
     (0x050000000000000005FFFFA0#96, .bra (br 0#3 0#20 2#3 0xFFFFD#20)),
     (0x0503000CD000000008000020#96, .braNz { br 0#3 0#20 4#3 1#20 with a := .s 13 }),
     (0x06000000020000AC00000040#96, .dbra { br 1#3 5#20 0#3 2#20 with cmask := 3#3 }),
     (0x070000000000000000000000#96, .join (br 0#3 0#20 0#3 0#20)),
     (0x070100000000000400000000#96, .exit { br 0#3 0#20 0#3 0#20 with cmask := 1#3 }),
     (0x910000005000000000000000#96, .pset (rg o0 (.v 5) o0 o0)),
     (0xA001000C5000000040000000#96, .barWait { en o0 (.s 5) o0 o0 with scope := .die } 0#4),
     (0xE00100000002C70000000000#96, .csrw (sy o0 (.s 7) 0x002#12 0#16)),
     (0xE2000C300000C601F4000000#96,
       .lease (sy (.s 3) (.s 6) 0#12 500#16))] = true := by decide +kernel

/-- chapters 5, 9, 10, 12 and 14: vector words -/
theorem test_decode_vector : spelled
    [(0x200000808060000000000000#96, .vaddI32 (rg (.v 8) (.v 8) (.v 6) o0)),
     (0x2119000F4000000010000000#96, .vshlB32Imm (im (.v 0) .lane 1#32)),
     (0x2209001F4CC0000000000000#96, .vcmpGeB32 (rg (.v 1) .lane (.s 12) o0) 0#2),
     (0x230000302010000000000000#96, .vxtrB32 (rg (.v 3) (.v 2) (.v 1) o0)),
     (0x240000A0B0C0000000000000#96, .vdivI32 (rg (.v 10) (.v 11) (.v 12) o0)),
     (0x240400A14150000000000000#96, .vdivremI32 (rg (.v 10) (.v 20) (.v 21) o0)),
     (0x250300404000000008400000#96, .vxlnMirror (rg (.v 4) (.v 4) o0 o0) ⟨16#5, true, false, 0#2⟩),
     (0x250400E08000000000080000#96, .vswapp (rg (.v 14) (.v 8) o0 o0) ⟨0#5, false, false, 1#2⟩),
     (0x26124D50F000000000000000#96, .vredMaxF32 { rg (.s 21) (.v 15) o0 o0 with guard := 2#3 }),
     (0x400200405060000740000000#96, .vmulF32 { rg (.v 4) (.v 5) (.v 6) o0 with scale := 29#5 }),
     (0x4702003033F0000000000000#96, .vmulF32Imm (im (.v 3) (.v 3) 0x3F000000#32)),
     (0x410400C0D0E0C00008000000#96, .vfmaF16x2 (rg (.v 12) (.v 13) (.v 14) (.v 12)) true),
     (0x420200307080020008000000#96, .vfcmpLtF32 { rg (.v 3) (.v 7) (.v 8) o0 with negb := true } 2#2),
     (0x430000203040000000000000#96, .vfdiv (rg (.v 2) (.v 3) (.v 4) o0)),
     (0x440000504000000000000000#96, .vsinr (rg (.v 5) (.v 4) o0 o0)),
     (0x450800A0B000A01800800000#96, .vcvtFmtF32 { rg (.v 10) (.v 11) o0 (.v 10) with clamp := 3#2 } ⟨0#3, 2#3, false, 0#4⟩),
     (0x460100808000000000000000#96, .vhad32N (rg (.v 8) (.v 8) o0 o0)),
     (0x46020140800000000C658000#96, .vquant (rg (.v 20) (.v 8) o0 o0) ⟨0xC6#8, 5#4, true⟩)] = true := by decide +kernel

/-- chapters 7, 11 to 15 and 17: memory, sinking, tiles, copy and matrix, near -/
theorem test_decode_memory_engines : spelled
    [(0x700000502000000000003001#96, .ldG (me (.v 5) (.v 2) o0 o0 .b8 3#20) true),
     (0x710000002070049800010000#96, .stG { me o0 (.v 2) (.v 7) o0 .b32 0x10#20 with order := .rel, scope := .pkg }),
     (0x7200014C6150041800000000#96, .atomAddI32 { me (.v 20) (.s 6) (.v 21) o0 .b32 0#20 with scope := .pkg } ⟨0#2, 0#4⟩),
     (0x73020090400C340000100000#96, .ldRs (me (.v 9) (.v 4) o0 (.s 3) .b32 0x100#20) false),
     (0x750000000000009800000000#96, .fenceRel { me o0 o0 o0 o0 .b8 0#20 with order := .rel, scope := .pkg }),
     (0x7700000C8CA0000000000160#96, .resSet (me o0 (.s 8) (.s 10) o0 .b8 0#20) 5#6 2#2),
     (0x900001E08040506000036800#96, .sink ⟨0#3, false, 0x1E#8, 8#8, 4#8, 5#8, 6#8, 0#8, 0#8, 3#4, 3#3, 1#2, false, false⟩),
     (0x920000008000001400500000#96, .fbp (im o0 (.v 8) 0x140#32) 5#8),
     (0xA1000C200D00000000000000#96, .launch (en (.s 2) o0 (.s 16) o0)),
     (0xA2000C300D00000000000000#96, .nqpost (en (.s 3) o0 (.s 16) o0)),
     (0xA2010C5C3000000000000000#96, .nqpoll (en (.s 5) (.s 3) o0 o0)),
     (0xB00000000C8C914000001010#96, .tdef { en o0 o0 (.s 8) (.s 9) with tile := 5#6 } 16#12 1#3),
     (0xB00100000000000100000000#96, .trelPub { en o0 o0 o0 o0 with flags := 1#4 }),
     (0xB10000000CC0000000000000#96, .cpy (en o0 o0 (.s 12) o0)),
     (0xB10400000CCD001500000000#96, .cpyMx { en o0 o0 (.s 12) (.s 16) with acc := 1#2, flags := 5#4 }),
     (0xB2000000000D008000000000#96, .mldw { en o0 o0 o0 (.s 16) with tile := 2#6 }),
     (0xB201000C700D00D500000000#96, .mma { en o0 (.s 7) o0 (.s 16) with tile := 3#6, acc := 1#2, flags := 5#4 }),
     (0xB30000000000002100000000#96, .accz { en o0 o0 o0 o0 with acc := 2#2, flags := 1#4 }),
     (0xB301000000000180007F0001#96, .accrd { en o0 o0 o0 o0 with tile := 6#6 } ⟨1#4, false, 0#8, 127#7⟩),
     (0xB30101000000000100000500#96, .accrdReg { en (.v 16) o0 o0 o0 with flags := 1#4 } ⟨0#4, false, 5#8, 0#7⟩),
     (0xB30200000C50000100000000#96, .accstW { en o0 o0 (.s 5) o0 with flags := 1#4 })] = true := by decide +kernel

/-- R36, R37: the order of the encoding traps. -/
theorem test_decode_refused : refused
    [(0x7F0000000000000000000000#96, .illegalOpcode), (0x011600000000000000000000#96, .illegalFunction),
     (0x000000000000000000000001#96, .reservedField), (0x01000C3C4C50000000000001#96, .reservedField),
     (0x01000C304C50000000000000#96, .illegalOperand), (0x040000001000000000000000#96, .illegalOperand),
     (0xE0000C200FFF000000000000#96, .csrNumber), (0x220900104CC000000C000000#96, .reservedField)] = true := by
  decide +kernel


/-! ## Well-formedness: one ill-formed term a check -/

theorem test_wf_operands : ([Instr.saddI32 (rg (.v 3) (.s 4) (.s 5) o0), .saddI32 (rg (.s 3) (.v 4) (.s 5) o0),
    .saddI32 (rg (.s 3) (.s 4) (.v 5) o0), .saddI32 (rg (.s 3) (.s 4) (.s 5) (.v 1)), .saddI32Imm (im (.v 3) (.s 4) 1#32),
    .saddI32Imm (im (.s 3) (.v 4) 1#32), .mand (rg (.v 0) (.v 1) (.v 2) o0), .braNz { br 0#3 0#20 0#3 0#20 with a := .v 1 },
    .trap (sy (.s 1) o0 0#12 0#16), .lease (sy (.s 3) (.v 6) 0#12 500#16)].any fun i => i.wf) = false := by decide

theorem test_wf_memory_fields : ([Instr.ldG { me (.v 1) (.s 4) o0 o0 .b32 0#20 with scope := .die } false,
    .stG { me o0 (.s 4) (.v 1) o0 .b32 0#20 with order := .acq }, .ldG (me (.v 1) (.s 4) o0 o0 .b32 0#20) true,
    .resDemote (me o0 o0 o0 o0 .b8 4#20) 0#6, .fenceAcq (me o0 o0 o0 o0 .b8 0#20), .pfG (me o0 (.s 4) o0 o0 .b8 0#20) 3#2,
    .fenceRel { me o0 o0 o0 o0 .b8 0#20 with order := .rel, hint := .keepL1 },
    .atomAddI32 (me (.v 1) (.s 4) (.v 2) o0 .b64 0#20) ⟨0#2, 0#4⟩,
    .atomAddI32 (me (.v 1) (.s 4) (.v 2) o0 .b32 0#20) ⟨3#2, 0#4⟩].any fun i => i.wf) = false := by decide

theorem test_wf_branch_engine_fields : ([Instr.bra (br 0#3 0#20 5#3 0#20), .dbra (br 5#3 0#20 0#3 0#20), .bra (br 1#3 0#20 0#3 0#20),
    .exit (br 0#3 0#20 1#3 0#20), .braNz { br 0#3 0#20 0#3 0#20 with a := .s 1, cmask := 1#3 },
    .cpy { en o0 o0 (.s 12) o0 with tile := 1#6 }, .trel { en o0 o0 o0 o0 with acc := 1#2 },
    .trel { en o0 o0 o0 o0 with scope := .die }, .trel { en o0 o0 o0 o0 with flags := 1#4 }, .trelPub (en o0 o0 o0 o0),
    .accz { en o0 o0 o0 o0 with flags := 4#4 }, .barArrive { en (.s 5) o0 o0 o0 with scope := .die } 1#4].any fun i => i.wf)
    = false := by decide

theorem test_wf_special_fields : ([Instr.csrr (sy (.s 2) o0 0xFFF#12 0#16), .csrr (sy (.s 2) o0 0x010#12 1#16),
    .trap (sy o0 o0 1#12 0#16), .vcmpEqB32 (rg (.v 1) (.v 2) (.v 3) o0) 3#2, .vrndF32 (rg (.v 1) (.v 2) o0 o0) 7#3,
    .vxlnPick (rg (.v 4) (.v 4) o0 o0) ⟨1#5, false, false, 0#2⟩, .vcvtFmtF32 (rg (.v 10) (.v 11) o0 (.v 10)) ⟨0#3, 7#3, false, 15#4⟩,
    .vquant (rg (.v 20) (.v 8) o0 o0) ⟨0xC6#8, 15#4, true⟩, .accrdReg { en (.v 16) o0 o0 o0 with flags := 1#4 } ⟨0#4, false, 5#8, 1#7⟩,
    .sink ⟨0#3, false, 0xF9#8, 8#8, 4#8, 5#8, 6#8, 0#8, 0#8, 3#4, 3#3, 1#2, false, false⟩,
    .cpyMx { en o0 o0 (.s 12) (.s 16) with acc := 1#2, flags := 8#4 }].any fun i => i.wf) = false := by decide

/-! ## A word placed for the next step -/

theorem test_placed_word_decodes : decodeTableWord 96 0x01000C3C4C50000000000000
    = some (.saddI32 (rg (.s 3) (.s 4) (.s 5) o0)) := by decide +kernel

/-- SMOV s3, 7 placed after reset: the step writes s3 and goes on to slot 1. -/
theorem test_placed_word_runs :
    (match step (State.reset.withFetchWord 96 0x02100C300000000070000000) with
     | .next t => (sget t.grp.s 3, t.slot.offset)
     | _ => (0#32, 0#30)) = (7#32, 1#30) := by decide +kernel


/-! ## States that meet the hypotheses of the obligations, a clause a line -/

/-! ## States that meet the hypotheses of the obligations, clause by clause -/

/-- A register of lanes 0 and 1 holds a value. -/
def vals (s : State) (n : Nat) (w : Word) : State :=
  withGrp s fun (g : Group) => { g with v := sput (sput g.v (n * 32) w) (n * 32 + 1) w }

/-- Operands of two and of three sources. -/
abbrev S2 : RegF := rg (.s 2) (.s 4) (.s 6) o0
abbrev V2 : RegF := rg (.v 2) (.v 4) (.v 6) o0
abbrev V3 : RegF := rg (.v 2) (.v 4) (.v 6) (.v 8)
abbrev M2 : RegF := rg (.v 1) (.v 2) (.v 3) o0
abbrev NaN : Word := 0x7FC00000#32

/-- With every event enabled. -/
def trapping (s : State) : State := withGrp s fun (g : Group) => { g with trapEn := 0xFF#8 }

theorem witness_ScalarFunctionResults : ([tiny.goesOn false (regForm rSSS S2 true tiny),
    tiny.goesOn false (regForm rSSS (rg .zero (.s 47) .lane o0) true tiny),
    tiny.goesOn false (immForm iSS (im (.s 47) (.s 0) 7#32) tiny),
    tiny.goesOn false (immForm iS (im (.s 3) o0 7#32) tiny)].all id) = true := by decide +kernel

theorem witness_ScalarUnaryAndPairResults : ([tiny.goesOn false (regForm rSS (rg (.s 2) (.s 4) o0 o0) true tiny),
    tiny.goesOn false (regForm rSS64 (rg (.s 46) (.s 4) (.s 6) o0) true tiny),
    tiny.goesOn false (regForm rSSSS (rg (.s 2) (.s 4) (.s 6) (.s 8)) true tiny)].all id) = true := by decide +kernel

theorem witness_ScalarCompareResults : ([tiny.goesOn false (regForm rSSS S2 true tiny),
    tiny.goesOn false (regForm rSSSS (rg (.s 2) (.s 4) (.s 6) (.s 8)) true tiny),
    [Instr.sselB32 (rg (.s 2) (.s 4) (.s 6) (.s 8)), .scmpEqB32 S2].all fun i => match encode i with | some w => decode w == .ok i | none => false].all id) = true := by decide +kernel

theorem witness_MaskInstructionResults : ([tiny.goesOn false (regForm rMMM M2 true tiny),
    tiny.goesOn false (regForm rMM (rg (.v 7) (.v 0) o0 o0) true tiny),
    tiny.goesOn false (regForm rSM (rg (.s 3) (.v 7) o0 o0) true tiny),
    tiny.goesOn false (regForm rSMM (rg (.s 3) (.v 1) (.v 2) o0) true tiny),
    tiny.goesOn false (regForm rMS (rg (.v 1) (.s 3) o0 o0) true tiny)].all id) = true := by decide +kernel

theorem witness_VectorFunctionResults : ([tiny.goesOn true (regForm rVVV V2 true tiny),
    tiny.goesOn true (regForm rVVV { rg (.v 191) (.s 3) .lane o0 with guard := 1#3, ginv := true } true tiny),
    tiny.goesOn true (immForm iVV (im (.v 2) (.v 4) 7#32) tiny),
    tiny.goesOn true (immForm iV (im (.v 2) o0 7#32) tiny)].all id) = true := by decide +kernel

theorem witness_VectorUnaryTernaryPairResults : ([tiny.goesOn true (regForm rVV (rg (.v 2) (.v 4) o0 o0) true tiny),
    tiny.goesOn true (regForm rVVVV V3 true tiny),
    tiny.goesOn true (regForm rV64 V2 true tiny),
    tiny.goesOn true (regForm rMadw V3 true tiny),
    tiny.goesOn true (regForm rVVV V2 true tiny)].all id) = true := by decide +kernel

theorem witness_VectorCompareResults : ([tiny.goesOn true (regForm rCmp (rg (.v 1) (.v 4) (.v 6) o0) true tiny)].all id) = true := by decide +kernel

theorem witness_DivisionResults : ([tiny.goesOn true (regForm rVVV V2 true tiny),
    tiny.goesOn true (regForm rDivrem V2 true tiny),
    trapLanes tiny.grp.trapEn (tiny.execLanes 0#3 false) (fun L => (divU (tiny.laneVal (.v 4) L) (tiny.laneVal (.v 6) L)).2.2) == 0#32,
    (let s := trapping tiny; s.goesOn true (regForm rVVV V2 true s)
    && trapLanes s.grp.trapEn (s.execLanes 0#3 false) (fun L => (divU (s.laneVal (.v 4) L) (s.laneVal (.v 6) L)).2.2) != 0#32)].all id) = true := by decide +kernel

theorem witness_FloatInstructionResults : ([[rF2, rF1, rF3, rFldexp, rFminmax, rFrnd, rCvtP, rCvtNP, rCvtN].all fun r => tiny.goesOn true (regForm r
    (rg (.v 2) (.v 4) (if r.b.cls == .none then o0 else .v 6) (if r.c.cls == .none then o0 else .v 8)) true tiny),
    tiny.goesOn true (regForm (rFromElem ⟨0#3, 0#3, false, 0#4⟩) (rg (.v 2) (.v 4) o0 o0) true tiny),
    tiny.goesOn true (regForm rCvtE { V3 with clamp := 3#2 } true tiny),
    tiny.goesOn true (immForm iVV (im (.v 2) (.v 4) 0x3F800000#32) tiny),
    trapLanes tiny.grp.trapEn (tiny.execLanes 0#3 false) (fun L => (tiny.over (laneFp2 exAdd V2) L).2) == 0#32,
    (let s := trapping (vals tiny 4 0x7F800001#32); s.goesOn true (regForm rF2 V2 true s)
    && trapLanes s.grp.trapEn (s.execLanes 0#3 false) (fun L => (s.over (laneFp2 exAdd V2) L).2) == 3#32),
    (let s := trapping (vals tiny 4 0x7F800001#32); let x := { V3 with clamp := 3#2 }; s.goesOn true (regForm rCvtE x true s)
    && trapLanes s.grp.trapEn (s.execLanes 0#3 false) (fun L => (s.over (laneToElem ⟨0#3, 2#3, false, 0#4⟩ x) L).2) != 0#32)].all id) = true := by decide +kernel

theorem witness_FloatCompareResults : ([tiny.goesOn true (regForm rFcmp (rg (.v 1) (.v 4) (.v 6) o0) true tiny),
    (vals tiny 4 NaN).goesOn true (regForm rFcmp (rg (.v 1) (.v 4) (.v 6) o0) true (vals tiny 4 NaN)),
    (let s := trapping (vals tiny 4 0x7F800001#32); s.goesOn true (regForm rFcmp (rg (.v 1) (.v 4) (.v 6) o0) true s)
    && ((s.env 0).fa (rg (.v 1) (.v 4) (.v 6) o0)).sn && trapLanes s.grp.trapEn (s.execLanes 0#3 false) (fun L => if L < 2 then evNV else 0#8) == 3#32)].all id) = true := by decide +kernel

theorem witness_NanResultsAreCanonical : ([(((vals tiny 4 NaN).env 0).fa V3).v.isNan && (((vals tiny 6 0x7F800001#32).env 1).fb V3).sn,
    (((vals tiny 8 NaN).env 0).fc V3).v.isNan && V3.clamp == 0#2].all id) = true := by decide +kernel

theorem witness_ShuffleResults : ([[0, 1, 2, 3, 5].all fun k => tiny.goesOn false (regForm (rLane k ⟨31#5, true, true, 0#2⟩) (rg (.v 2) (.v 4) o0 o0) true tiny),
    tiny.goesOn false (regForm (rLane 0 ⟨0#5, false, false, 0#2⟩) (rg (.v 2) (.v 4) (.v 6) o0) true tiny),
    tiny.goesOn false (regForm (rLane 4 ⟨0#5, false, true, 2#2⟩) (rg (.v 2) (.v 4) o0 o0) true tiny),
    tiny.goesOn false (regForm (rLane 6 ⟨31#5, true, false, 0#2⟩) (rg (.s 2) (.v 4) o0 o0) true tiny),
    tiny.goesOn false (regForm (rLane 7 ⟨0#5, true, false, 0#2⟩) (rg (.v 2) (.s 4) o0 o0) true tiny)].all id) = true := by decide +kernel

theorem witness_PollReductionScanResults : ([tiny.goesOn false (regForm rPoll (rg (.s 2) (.v 4) o0 o0) true tiny),
    tiny.goesOn false (regForm rRed (rg (.s 2) (.v 4) o0 o0) true tiny),
    tiny.goesOn false (regForm rPeers (rg (.v 2) (.v 4) o0 o0) true tiny),
    tiny.crossLanes (rg (.s 2) (.v 4) o0 o0) != 0#32 && tiny.crossLanes { rg (.s 2) (.v 4) o0 o0 with guard := 1#3 } == 0#32].all id) = true := by decide +kernel

theorem witness_GroupFloatResults : ([tiny.goesOn false (regForm rRed (rg (.s 2) (.v 4) o0 o0) true tiny),
    (redTree (fAdd 0) 5 (allLanes.map fun L => some (tiny.laneVal (.v 4) L))) == (some 0#32, 0#8),
    (let s := trapping (vals tiny 4 0x7F800001#32)
    s.goesOn false (regForm rRed (rg (.s 2) (.v 4) o0 o0) true s)
    && (redTree (fAdd 0) 5 (allLanes.map fun L => some (s.laneVal (.v 4) L))).2 &&& s.grp.trapEn != 0#8),
    tiny.goesOn false (regForm rHad (rg (.v 2) (.v 4) o0 o0) true tiny) && (had32 true (allLanes.map (tiny.laneVal (.v 4)))).2 == 0#8,
    (let s := trapping (vals tiny 4 0x7F800001#32); s.goesOn false (regForm rHad (rg (.v 2) (.v 4) o0 o0) true s)
    && s.crossLanes (rg (.v 2) (.v 4) o0 o0) != 0#32
    && [false, true].all fun norm => (had32 norm (allLanes.map (s.laneVal (.v 4)))).2 &&& s.grp.trapEn != 0#8)].all id) = true := by decide +kernel

theorem witness_QuantisationResults : ([tiny.goesOn false (regForm rHad (rg (.v 2) (.v 4) o0 o0) true tiny),
    trapLanes 0#8 (tiny.crossLanes V2) (fun L => ((tiny.quantised V2 ⟨0xC6#8, 5#4, true⟩ (tiny.crossLanes V2)).2 L).2) == 0#32,
    (let s := trapping (vals tiny 4 0x7F800001#32)
    s.goesOn false (regForm rHad (rg (.v 2) (.v 4) o0 o0) true s)
    && trapLanes 0xFF#8 (s.crossLanes V2) (fun L => ((s.quantised V2 ⟨0xC6#8, 5#4, true⟩ (s.crossLanes V2)).2 L).2) != 0#32)].all id) = true := by decide +kernel

theorem witness_PlaneAndIndexResults : ([tiny.goesOn false (regForm rPset (rg o0 (.v 4) o0 o0) true tiny),
    (lanesOf tiny.slot.mask).all fun L => ((tiny.laneVal (.v 4) L).extractLsb' 0 2).toNat < tiny.lnc.planes,
    (let s := vals tiny 4 1#32; s.goesOn false (regForm rPset (rg o0 (.v 4) o0 o0) true s)
    && (lanesOf s.slot.mask).any fun L => s.lnc.planes ≤ ((s.laneVal (.v 4) L).extractLsb' 0 2).toNat),
    tiny.goesOn false (regForm rPget (rg (.v 4) o0 o0 o0) true tiny),
    (let s := withS tiny [(10, 188#32), (11, 4#32)]; s.goesOn false (regForm rXset (rg o0 (.v 6) (.s 10) (.s 11)) true s)
    && s.inIndirect 188 (188 + 4 - 1) && !s.inIndirect 189 (189 + 4 - 1)),
    (let s := withS tiny [(10, 189#32), (11, 4#32)]; s.goesOn false (regForm rXset (rg o0 (.v 6) (.s 10) (.s 11)) true s)),
    tiny.goesOn false (regForm rXidx (rg o0 (.v 6) o0 o0) true tiny),
    tiny.goesOn false (regForm rXget (rg (.v 6) o0 o0 o0) true tiny)].all id) = true := by decide +kernel


/-- A divergence stack of four entries at address 0x8000, 1 KiB of scratchpad, four tiles and a trap routine at offset 8. -/
def roomy : State :=
  withPkt tiny (0x8000 * 2 ^ 448 + 4 * 2 ^ 512 + 1024 * 2 ^ 224 + 4 * 2 ^ 205 + 2 ^ 575 + 8 * 2 ^ 544)

/-- m3 names the lower lanes. -/
def half (s : State) : State := withGrp s fun (g : Group) => { g with m := sput g.m 3 0xFFFF#32 }

/-- Split: the other slot has the upper lanes, at the split join 0. -/
def split (s : State) : State :=
  withGrp s fun (g : Group) =>
    { g with
      a := { g.a with mask := 0xFFFF#32 }, b := { g.a with mask := 0xFFFF0000#32, atJoin := true }, fusion := .split
      splitJoin := some 0#30, outerJoin := none }

/-- One entry of slot A whose join is the slot's offset. -/
def stacked (s : State) (phase : Bool) (m : Lanes) (chip : Bool) : State :=
  withGrp s fun (g : Group) =>
    { g with
      a := { g.a with mask := g.a.mask &&& ~~~ m, chip := chip }
      stack := [{ slot := .A, phase := phase, outer := none, dead := false, join := 0#30, resume := 9#30, mask := m }] }

abbrev D3 : BrF := { br 1#3 5#20 0#3 0#20 with cmask := 3#3 }
abbrev B0 : BrF := br 0#3 0#20 2#3 0#20

/-- An access to a stack entry goes through. -/
def stackOk (s : State) (i : Nat) : Bool :=
  match translate s (some s.grp.core) s.grp.ctx (s.stackVa s.grp i) .store with
  | .ok y => !s.walkHeld (some s.grp.core) s.grp.ctx [s.stackVa s.grp i] && !s.lineHeld [(y.pa, 16)] && (s.pay [s.cost 1 y.pa 1]).1
  | .error _ => false

/-- Whether a target goes to an offset. -/
def goes (t : Target) (o : Nat) : Bool := match t with | .ok p => p.toNat == o | _ => false

theorem witness_BranchResults : ([goes (tiny.dispTarget B0) 2 && tiny.issues true (brForm bBra B0 tiny) && tiny.issues true (brForm bCond { B0 with cmask := 3#3 } tiny),
    tiny.issues false (brForm bCall { B0 with d := .s 1 } tiny),
    (let s := withS tiny [(13, 1#32)]; s.issues true (brForm bNz { B0 with a := .s 13 } s) && s.grp.rdS (.s 13) 0 != 0#32
    && s.goesOn true (brForm bNz { B0 with a := .s 13 } s)),
    tiny.goesOn true (brForm bNz { B0 with a := .s 13 } tiny) && tiny.grp.rdS (.s 13) 0 == 0#32,
    (let s := half tiny; (s.condSet { B0 with cmask := 3#3 } &&& s.slot.mask) == 0xFFFF#32 && s.goesOn true (brForm bCond { B0 with cmask := 3#3 } s)),
    (tiny.condSet { B0 with cmask := 3#3 }) == 0#32 && tiny.condSet B0 == 0xFFFFFFFF#32,
    (let s := withS tiny [(13, 4#32)]; goes (s.regTarget true { B0 with a := .s 13 }) 4 && goes (s.regTarget false { B0 with a := .s 13 }) 4
    && s.issues true (brForm bReg { B0 with a := .s 13 } s) && s.issues false (brForm bCallx { B0 with d := .s 1, a := .s 13 } s)),
    (br 0#3 0#20 0#3 0xFFFFF#20).disp.toInt < 0 && tiny.lnc.stride < (1024 + 1) * 64 && (1023 + 1) * 64 ≤ tiny.lnc.stride,
    (match tiny.fetchLine tiny.grp 0 0 with | .ok bs => (lineWord bs).getLsbD 2 | .error _ => false),
    (let s := tiny; let x := br 0#3 0#20 0#3 0xFFFFF#20
    s.issues true (brForm bBra x s) && s.dispTarget x == .trap .fetchRange && s.dispTarget (br 0#3 0#20 0#3 1#20) == .trap .branchTarget),
    (let s := { tiny with cores := [] }; let x := br 0#3 0#20 0#3 1#20
    s.issues true (brForm bBra x s) && s.dispTarget x == .fault .pageAbsent 64),
    [5#32, 0x40000000#32, 0x2000#32].all fun w => let s := withS tiny [(13, w)]; let x := { B0 with a := .s 13 }
    s.issues true (brForm bReg x s) && s.regTarget false x == .trap .fetchRange && s.regTarget true x == .trap .fetchRange,
    (let s := withS tiny [(13, 8#32)]; let x := { B0 with a := .s 13 }
    goes (s.regTarget false x) 8 && s.regTarget true x == .trap .branchTarget)].all id) = true := by decide +kernel

theorem witness_DivergentBranchResults : ([(let s := half roomy; s.goesOn false (brForm bDbra D3 s) && (s.condSet D3 &&& s.slot.mask) == 0xFFFF#32),
    goes ((half roomy).dispTarget D3) 0 && goes ((split (half roomy)).dispTarget D3) 0 && goes (roomy.dispTarget D3) 0,
    roomy.condSet D3 == 0#32 && roomy.condSet (br 1#3 5#20 0#3 2#20) == 0xFFFFFFFF#32,
    (roomy.grp.slot .B).live == false && roomy.grp.fusion == .fused && (split roomy).grp.fusion == .split,
    (let s := split (half roomy); s.grp.stack.length < s.lnc.stackCap && stackOk s 0
    && s.goesOn false (brForm bDbra D3 s)),
    (let s := half roomy; let x := { D3 with slot := 0#3, disp := 0x80000#20 }
    s.issues false (brForm bDbra x s) && s.condSet x &&& s.slot.mask != 0#32 && s.dispTarget x == .trap .fetchRange),
    (let s := { half roomy with cores := [] }; let x := { D3 with disp := 1#20 }
    s.issues false (brForm bDbra x s) && s.dispTarget x == .fault .pageAbsent 64),
    (let s := withGrp (split tiny) fun (g : Group) => { g with m := sput g.m 3 0xFF#32 }
    s.lnc.stackCap ≤ s.grp.stack.length && s.goesOn false (brForm bDbra D3 s) && goes (s.dispTarget D3) 0
    && (s.condSet D3 &&& s.passLanes) == 0xFF#32 && s.passLanes == 0xFFFF#32 && s.grp.fusion == .split)].all id) = true := by decide +kernel

theorem witness_JoinResults : ([tiny.goesOn false (brForm bJoin (br 0#3 0#20 0#3 0#20) tiny) && tiny.matching == none && tiny.grp.splitJoin == none,
    (let s := split tiny; s.goesOn false (brForm bJoin (br 0#3 0#20 0#3 0#20) s) && (s.grp.slot .B).live && (s.grp.slot .B).atJoin),
    (let s := withGrp (split tiny) (fun (g : Group) => { g with b := { g.b with atJoin := false } })
    s.goesOn false (brForm bJoin (br 0#3 0#20 0#3 0#20) s) && (s.grp.slot .B).live && !(s.grp.slot .B).atJoin),
    (let s := withGrp (split tiny) (fun (g : Group) => { g with b := Slot.free })
    s.goesOn false (brForm bJoin (br 0#3 0#20 0#3 0#20) s) && !(s.grp.slot .B).live && s.grp.splitJoin == some 0#30),
    [false, true].all fun chip => [false, true].all fun phase =>
    let s := stacked roomy phase 0xFF00#32 chip
    s.goesOn false (brForm bJoin (br 0#3 0#20 0#3 0#20) s) && s.matching.isSome && stackOk s 0 && s.slot.chip == chip,
    (stacked roomy true 0#32 true).matching.isSome,
    (let s := stacked roomy false 0#32 true; s.matching.isSome && s.grp.stack.all (fun e => e.mask &&& s.grp.alive == 0#32)
    && s.goesOn false (brForm bJoin (br 0#3 0#20 0#3 0#20) s))].all id) = true := by decide +kernel

theorem witness_ExitResults : ([tiny.goesOn false (brForm bExit (br 0#3 0#20 0#3 0#20) tiny) && tiny.condSet { B0 with cmask := 3#3 } == 0#32,
    (let s := half tiny; (s.condSet { B0 with cmask := 3#3 } &&& s.slot.mask) == 0xFFFF#32 && s.condSet B0 == s.slot.mask
    && s.goesOn false (brForm bExit { br 0#3 0#20 0#3 0#20 with cmask := 3#3 } s))].all id) = true := by decide +kernel


/-- Lanes read and write one word at address 0x100. -/
abbrev L0 : MemF := me (.v 2) (.s 4) o0 o0 .b32 0x100#20
abbrev T0 : MemF := me o0 (.s 4) (.v 2) o0 .b32 0x100#20
abbrev A0 : MemF := me (.v 2) (.s 4) (.v 8) o0 .b32 0x100#20
abbrev full : Lanes := 0xFFFFFFFF#32

/-- What `PassForm.completes` asks of a state. -/
def PassForm.runs (p : PassForm) (x : MemF) (s : State) : Prop :=
  let E := s.memLanes x.guard x.ginv
  let acc := p.acc x s
  let xl := xlOf acc
  let vas := (lanesOf E).map (p.va x s)
  s.goesOn (p.row.cls == .V) (memForm p.row p.tw x s) = true ∧ (∀ L ∈ lanesOf E, p.legal x s L)
  ∧ (∀ L ∈ lanesOf E, acc L = .ok (xl L) ∧ s.ownPa (xl L).pa = true)
  ∧ s.unheld p.write vas E (fun L => (xl L).pa) (sizeBytes x.size)
  ∧ (s.accessing vas (p.reqs x s ((lanesOf E).map fun L => (L, xl L)))).1 = true

/-- An access that fails with a cause. -/
def failsWith (r : Except Cause Xlat) (c : Cause) : Bool := match r with | .error e => e == c | .ok _ => false

/-- What `PassForm.faults` asks of a state, where lane `L` is the lowest that faults, with the cause `c`. -/
def PassForm.stops (p : PassForm) (x : MemF) (s : State) (L : Lane) (c : Cause) : Prop :=
  let E := s.memLanes x.guard x.ginv
  let acc := p.acc x s
  let F := faultLanes s E (p.va x s) acc
  let G := E &&& ~~~ F
  let xl := xlOf acc
  let vas := (lanesOf E).map (p.va x s)
  s.goesOn (p.row.cls == .V) (memForm p.row p.tw x s) = true ∧ (∀ L ∈ lanesOf E, p.legal x s L)
  ∧ s.unheld p.write vas G (fun L => (xl L).pa) (sizeBytes x.size)
  ∧ (s.canPark = true → ∀ L ∈ lanesOf G, s.ownPa (xl L).pa = true)
  ∧ ((s.endWalks vas).pay (p.reqs x s (sentLanes s p.kind (p.va x s) acc
      (lanesOf ((if s.canPark then G else 0#32) ||| poisonLanes F acc))))).1 = true
  ∧ laneIn F L = true ∧ (∀ K, K < L → laneIn F K = false) ∧ failsWith (acc L) c = true

theorem witness_wf : roomy.wf := by simp only [State.wf]; decide +kernel
theorem witness_regsWf : roomy.regsWf := by simp only [State.regsWf, Group.canon]; decide +kernel

/-- Lanes 0 and 1 read and write beyond the mapped pages, where the address is a register of each lane. -/
def gone (s : State) : State := vals s 4 0x20000#32
/-- The page of the core's TLB is read-only constant data for the read-only path. -/
def roTiny : State := tiny.setCoreAt 0 { tiny.coreAt 0 with tlb := (tiny.coreAt 0).tlb.map fun e => { e with leaf := e.leaf ||| 0x1000#64 } }
abbrev L1 : MemF := { L0 with a := .v 4 }
abbrev T1 : MemF := { T0 with a := .v 4 }
abbrev A1 : MemF := { A0 with a := .v 4 }
/-- The constant bank begins in the last mapped page. -/
def lateConst (s : State) : State := withPkt (vals s 4 0x2000#32) (0xF000 * 2 ^ 384)

theorem runs_load : PassForm.runs (loadForm true) L0 tiny := by
  simp only [PassForm.runs, PassForm.write, loadForm, vaLegal, State.unheld]; decide +kernel
theorem stops_load : PassForm.stops (loadForm true) L1 (gone tiny) 0 .pageAbsent ∧ (gone tiny).canPark = true := by
  simp only [PassForm.stops, PassForm.write, loadForm, vaLegal, State.unheld]; decide +kernel
theorem stops_load_whole : PassForm.stops (loadForm true) L1 (gone (split tiny)) 0 .pageAbsent ∧ (gone (split tiny)).canPark = false := by
  simp only [PassForm.stops, PassForm.write, loadForm, vaLegal, State.unheld]; decide +kernel
theorem runs_store : PassForm.runs (storeForm) T0 tiny := by
  simp only [PassForm.runs, PassForm.write, storeForm, vaLegal, State.unheld]; decide +kernel
theorem stops_store : PassForm.stops (storeForm) T1 (gone tiny) 0 .pageAbsent ∧ (gone tiny).canPark = true := by
  simp only [PassForm.stops, PassForm.write, storeForm, vaLegal, State.unheld]; decide +kernel
theorem stops_store_whole : PassForm.stops (storeForm) T1 (gone (split tiny)) 0 .pageAbsent ∧ (gone (split tiny)).canPark = false := by
  simp only [PassForm.stops, PassForm.write, storeForm, vaLegal, State.unheld]; decide +kernel
theorem runs_cas : PassForm.runs (atomForm (fun x => .atomCasB32 x ⟨0#2, 0#4⟩) 0x0B true .b32 ⟨0#2, 0#4⟩) A0 tiny := by
  simp only [PassForm.runs, PassForm.write, atomForm, vaLegal, State.unheld]; decide +kernel
theorem stops_cas : PassForm.stops (atomForm (fun x => .atomCasB32 x ⟨0#2, 0#4⟩) 0x0B true .b32 ⟨0#2, 0#4⟩) A1 (gone tiny) 0 .pageAbsent ∧ (gone tiny).canPark = true := by
  simp only [PassForm.stops, PassForm.write, atomForm, vaLegal, State.unheld]; decide +kernel
theorem stops_cas_whole : PassForm.stops (atomForm (fun x => .atomCasB32 x ⟨0#2, 0#4⟩) 0x0B true .b32 ⟨0#2, 0#4⟩) A1 (gone (split tiny)) 0 .pageAbsent ∧ (gone (split tiny)).canPark = false := by
  simp only [PassForm.stops, PassForm.write, atomForm, vaLegal, State.unheld]; decide +kernel
theorem runs_add64 : PassForm.runs (atomForm (fun x => .atomAddB64 x ⟨0#2, 0#4⟩) 0x01 false .b64 ⟨0#2, 0#4⟩) { A0 with size := .b64, t := o0 } tiny := by
  simp only [PassForm.runs, PassForm.write, atomForm, vaLegal, State.unheld]; decide +kernel
theorem stops_add64 : PassForm.stops (atomForm (fun x => .atomAddB64 x ⟨0#2, 0#4⟩) 0x01 false .b64 ⟨0#2, 0#4⟩) { A1 with size := .b64, t := o0 } (gone tiny) 0 .pageAbsent ∧ (gone tiny).canPark = true := by
  simp only [PassForm.stops, PassForm.write, atomForm, vaLegal, State.unheld]; decide +kernel
theorem stops_add64_whole : PassForm.stops (atomForm (fun x => .atomAddB64 x ⟨0#2, 0#4⟩) 0x01 false .b64 ⟨0#2, 0#4⟩) { A1 with size := .b64, t := o0 } (gone (split tiny)) 0 .pageAbsent ∧ (gone (split tiny)).canPark = false := by
  simp only [PassForm.stops, PassForm.write, atomForm, vaLegal, State.unheld]; decide +kernel
theorem runs_const : PassForm.runs (constForm false) L0 tiny := by
  simp only [PassForm.runs, PassForm.write, constForm, State.unheld]; decide +kernel
theorem stops_const : PassForm.stops (constForm false) L1 (lateConst tiny) 0 .pageAbsent ∧ (lateConst tiny).canPark = true := by
  simp only [PassForm.stops, PassForm.write, constForm, State.unheld]; decide +kernel
theorem stops_const_whole : PassForm.stops (constForm false) L1 (lateConst (split tiny)) 0 .pageAbsent ∧ (lateConst (split tiny)).canPark = false := by
  simp only [PassForm.stops, PassForm.write, constForm, State.unheld]; decide +kernel
theorem runs_ro : PassForm.runs (roForm false) L0 roTiny := by
  simp only [PassForm.runs, PassForm.write, roForm, vaLegal, State.unheld]; decide +kernel
theorem stops_ro : PassForm.stops (roForm false) L1 (gone tiny) 0 .pageAbsent ∧ (gone tiny).canPark = true := by
  simp only [PassForm.stops, PassForm.write, roForm, vaLegal, State.unheld]; decide +kernel
theorem stops_ro_whole : PassForm.stops (roForm false) L1 (gone (split tiny)) 0 .pageAbsent ∧ (gone (split tiny)).canPark = false := by
  simp only [PassForm.stops, PassForm.write, roForm, vaLegal, State.unheld]; decide +kernel

theorem witness_scratchClear : roomy.scratchClear (me (.v 2) (.s 4) (.v 8) o0 .b32 1020#20) (some fun _ _ => 0) true true full := by
  simp only [State.scratchClear, Option.some.injEq]
  have h0 : (0 : Nat) < 2 ^ roomy.lnc.gangLog := by decide +kernel
  have h1 : ∀ L ∈ lanesOf full, roomy.lowOff (me (.v 2) (.s 4) (.v 8) o0 .b32 1020#20) L % sizeBytes .b32 = 0
      ∧ roomy.lnc.scratchOk (roomy.lowOff (me (.v 2) (.s 4) (.v 8) o0 .b32 1020#20) L) (sizeBytes .b32) = true := by decide +kernel
  have h2 : ∀ L ∈ lanesOf full, roomy.scratchTarget (some fun _ _ => 0) L = some 0 := by decide +kernel
  have h3 : ∀ L ∈ lanesOf full,
      (roomy.blkAt 0).scratchPoison.contains (roomy.lowOff (me (.v 2) (.s 4) (.v 8) o0 .b32 1020#20) L / 64) = false := by
    decide +kernel
  refine ⟨fun L hL => ⟨fun f hf => ?_, h1 L hL⟩, by decide +kernel, fun _ L hL b hb => ?_⟩
  · subst hf; exact h0
  · rw [h2 L hL] at hb; cases hb; exact h3 L hL

theorem witness_GlobalAccessCompletes : ([tiny.goesOn true (memForm mLoad 1 L0 tiny) && tiny.memLanes 0#3 false == full,
    (gone tiny).memLanes 0#3 false == full && faultLanes (gone tiny) full ((gone tiny).va L1) (laneXlat (gone tiny) .load .default none ∘ (gone tiny).va L1) == 3#32].all id) = true := by decide +kernel

theorem witness_GlobalAddressTraps : ([(let s := withS tiny [(5, 0x10000#32)]; s.issues true (memForm mLoad 1 L0 s) && s.issues true (memForm mLoadRO 1 L0 s)
    && s.issues true (memForm mStore 1 T0 s) && s.issues true (memForm (mAtom true .b32 ⟨0#2, 0#4⟩) 1 A0 s)
    && (lanesOf full).all fun L => 2 ^ 48 ≤ s.va L0 L),
    (let s := withS tiny [(5, 0xFFFF#32)]; (lanesOf full).all fun L => s.va L0 L < 2 ^ 48),
    (let x := { T0 with offset := 0x102#20 }; tiny.issues true (memForm mStore 1 x tiny) && (lanesOf full).all fun L => tiny.va x L % 4 != 0),
    (let x := { L0 with offset := 0x102#20 }; tiny.issues true (memForm mLoad 1 x tiny) && tiny.issues true (memForm mLoadRO 1 x tiny)
    && tiny.issues true (memForm (mAtom true .b32 ⟨0#2, 0#4⟩) 1 { A0 with offset := 0x102#20 } tiny)
    && (lanesOf full).all fun L => tiny.va x L % 4 != 0),
    (let x := { A0 with size := .b64, t := o0, offset := 0x104#20 }
    tiny.issues true (memForm (mAtom false .b64 ⟨0#2, 0#4⟩) 2 x tiny) && (lanesOf full).all fun L => tiny.va x L % 8 != 0),
    (let x := { L0 with offset := 0x102#20 }; tiny.issues true (memForm mLoadC 1 x tiny) && (lanesOf full).all fun L => tiny.lowOff x L % 4 != 0),
    (let s := withS tiny [(4, 0x10000#32)]; let x := { L0 with offset := 0#20 }
    s.issues true (memForm mLoadC 1 x s) && (lanesOf full).all fun L => s.lowOff x L % 4 == 0 && decide (0x10000 < s.lowOff x L + 4)),
    (let x := { L0 with offset := 0xFFFC#20 }; (lanesOf full).all fun L => tiny.lowOff x L + 4 == 0x10000)].all id) = true := by decide +kernel

theorem witness_GlobalAccessEffects : ([tiny.stores == [] && !tiny.deferLoads && !tiny.deferStores && tiny.slot.pending == [],
    (lanesOf full).all fun L => match laneXlat tiny .load .default none (tiny.va L0 L) with
    | .ok x => tiny.ownPa x.pa && !isHost x.pa
    | .error _ => false].all id) = true := by decide +kernel

theorem witness_ScratchAccessCompletes : ([roomy.goesOn true (memForm mLoadS 1 (me (.v 2) (.s 4) o0 o0 .b32 1020#20) roomy),
    roomy.goesOn true (memForm mStoreS 1 (me o0 (.s 4) (.v 4) o0 .b128 1008#20) roomy),
    roomy.goesOn true (memForm mLoadRS 1 (me (.v 2) (.s 4) o0 (.s 6) .b32 0#20) roomy) && rankT (me (.v 2) (.s 4) o0 (.s 6) .b32 0#20) roomy 0 < 2 ^ roomy.lnc.gangLog,
    roomy.goesOn true (memForm mStoreRS 1 (me o0 (.s 4) (.v 2) (.s 6) .b32 0#20) roomy),
    roomy.goesOn true (memForm (mAtom true .b64 ⟨1#2, 0#4⟩) 2 (me (.v 2) (.s 4) (.v 8) (.v 10) .b64 0#20) roomy),
    roomy.goesOn true (memForm (mAtom false .b32 ⟨2#2, 0#4⟩) 1 (me (.v 2) (.s 4) (.v 8) o0 .b32 0#20) roomy),
    (let s := withS roomy [(6, 1#32)]; let x := me (.v 2) (.s 4) o0 (.s 6) .b32 0#20
    s.issues true (memForm mLoadRS 1 x s) && 2 ^ s.lnc.gangLog ≤ rankT x s 0
    && s.issues true (memForm mStoreRS 1 (me o0 (.s 4) (.v 2) (.s 6) .b32 0#20) s)
    && s.issues true (memForm (mAtom false .b32 ⟨2#2, 1#4⟩) 1 (me (.v 2) (.s 4) (.v 8) o0 .b32 0#20) s)),
    (let x := me (.v 2) (.s 4) o0 o0 .b32 2#20; roomy.issues true (memForm mLoadS 1 x roomy) && roomy.lowOff x 0 % 4 != 0
    && roomy.issues true (memForm mStoreS 1 (me o0 (.s 4) (.v 4) o0 .b32 2#20) roomy)),
    (let x := me (.v 2) (.s 4) o0 o0 .b32 1024#20; roomy.issues true (memForm mLoadS 1 x roomy) && roomy.lowOff x 0 % 4 == 0
    && !roomy.lnc.scratchOk (roomy.lowOff x 0) 4 && roomy.lnc.scratchOk 1020 4),
    swf [(0, 1#8)] && isRel (me o0 (.s 4) (.v 4) o0 .b32 0#20).order == false].all id) = true := by decide +kernel

theorem witness_PathLoadCompletes : ([tiny.goesOn true (memForm mLoadC 1 (me (.v 2) (.s 4) o0 o0 .b32 0xFFFC#20) tiny) && tiny.lowOff (me (.v 2) (.s 4) o0 o0 .b32 0xFFFC#20) 0 + 4 == 0x10000,
    tiny.goesOn true (memForm mLoadRO 1 L0 tiny) && tiny.goesOn true (memForm mPf 1 (me o0 (.s 4) o0 o0 .b8 0#20) tiny),
    tiny.stores == [] && (lanesOf full).all fun L => match constPath.xlat tiny .load (tiny.constVa L0 L) with | .ok x => tiny.ownPa x.pa | .error _ => false].all id) = true := by decide +kernel

theorem witness_FenceResults : ([tiny.goesOn false (memForm (mFence .acq) 1 { me o0 o0 o0 o0 .b8 0#20 with order := .acq, scope := .pkg } tiny),
    tiny.goesOn false (memForm (mFence .rel) 1 { me o0 o0 o0 o0 .b8 0#20 with order := .rel } tiny),
    tiny.goesOn false (memForm (mFence .ar) 1 { me o0 o0 o0 o0 .b8 0#20 with order := .ar } tiny),
    tiny.goesOn false (memForm mFenceRo 1 (me o0 o0 o0 o0 .b8 0#20) tiny),
    (let s := { tiny with stores := [(4, ⟨0, .A, some 0, false, [(0x200, [1#8])]⟩)] }; s.stores.all fun e => !s.lineHeld e.2.spans)].all id) = true := by decide +kernel

theorem witness_ResidencyResults : ([(let s := withS tiny [(10, 128#32)]; s.goesOn false (memForm mResSet 1 (me o0 (.s 8) (.s 10) o0 .b8 0#20) s)
    && (s.grp.rdS (.s 10) 0).toNat % 128 == 0 && (s.grp.rdS (.s 10) 0).toNat != 0),
    (let s := withS tiny [(8, 0xFFFFFF80#32), (9, 0xFFFF#32), (10, 128#32)]; (s.grp.rd64 (.s 8) 0).toNat + 128 == 2 ^ 48
    && s.goesOn false (memForm mResSet 1 (me o0 (.s 8) (.s 10) o0 .b8 0#20) s)),
    tiny.goesOn false (memForm mResSet 1 (me o0 (.s 8) (.s 10) o0 .b8 0#20) tiny) && (tiny.grp.rdS (.s 10) 0) == 0#32,
    tiny.goesOn false (memForm mResH 1 (me o0 o0 o0 o0 .b8 0#20) tiny) && tget? tiny.ctx.handles 5 == none,
    (tget? (tiny.setCtxAt 0 { tiny.ctx with handles := [(5, ⟨0, 128, 2, false, some [0]⟩)] }).ctx.handles 5).isSome,
    (let s := tiny.setCtxAt 0 { tiny.ctx with handles := [(5, ⟨0, 128, 2, false, some [0]⟩)] }
    tget? s.l2 0 == none && (tget? { s with l2 := [(0, ⟨3#2, 0#2, 0#2, [(0, 5)]⟩)] }.l2 0).isSome),
    (let s := tiny.setCtxAt 0 { tiny.ctx with handles := [(5, ⟨0, 128, 2, false, some []⟩)] }
    tget? (s.ctxAt 0).handles 5 == some ⟨0, 128, 2, false, some []⟩),
    ({ tiny with evictions := [5] } : State).evictions.contains 5 && (tiny.setCtxAt 0 { tiny.ctx with handles := [(5, ⟨0, 128, 2, false, some [0]⟩)] }).goesOn false
    (memForm mResSet 1 (me o0 (.s 8) (.s 10) o0 .b8 0#20) (tiny.setCtxAt 0 { tiny.ctx with handles := [(5, ⟨0, 128, 2, false, some [0]⟩)] }))].all id) = true := by decide +kernel

theorem witness_ControlRegisterResults : ([tiny.goesOn false (sysForm ⟨csrDst .timebase, csrRegs .timebase⟩ sysNone (csrPerLane .timebase) (sy (.s 2) o0 0x010#12 0#16) tiny),
    tiny.goesOn false (sysForm ⟨csrDst .laneFlags, csrRegs .laneFlags⟩ sysNone (csrPerLane .laneFlags) (sy (.v 2) o0 0x000#12 0#16) tiny),
    csrOf 0x000#12 == some .laneFlags && csrOf 0x001#12 == some .trapEn && csrOf 0x002#12 == some .fpMode && csrOf 0x010#12 == some .timebase,
    tiny.goesOn false (sysForm sysNone ⟨csrSrc .laneFlags, csrRegs .laneFlags⟩ (csrPerLane .laneFlags) (sy o0 (.v 2) 0x000#12 0#16) tiny),
    tiny.goesOn false (sysForm sysNone ⟨csrSrc .trapEn, csrRegs .trapEn⟩ (csrPerLane .trapEn) (sy o0 (.s 2) 0x001#12 0#16) tiny),
    tiny.goesOn false (sysForm sysNone ⟨csrSrc .timebase, csrRegs .timebase⟩ (csrPerLane .timebase) (sy o0 (.s 2) 0x010#12 0#16) tiny)].all id) = true := by decide +kernel

theorem witness_TrapBkptNopResults : ([tiny.issues false (sysForm sysNone sysNone false (sy o0 o0 0#12 0xFFFF#16) tiny) && tiny.goesOn false (sysForm sysNone sysNone false (sy o0 o0 0#12 0#16) tiny),
    tiny.ctx.bkpt == false && (tiny.setCtxAt 0 { tiny.ctx with bkpt := true }).ctx.bkpt,
    tiny.goesOn true { cls := .S, lanes := tiny.slot.mask, opds := [], modOk := true },
    (let s := tiny.setCtxAt 0 { tiny.ctx with bkpt := true }; s.ctx.bkpt && s.issues false (sysForm sysNone sysNone false (sy o0 o0 0#12 5#16) s))].all id) = true := by decide +kernel

theorem witness_TrapEntry : ([roomy.lnc.trv && !roomy.slot.inTrap && !((roomy.grp.slot .B).live && (roomy.grp.slot .B).inTrap)].all id) = true := by decide +kernel

theorem witness_TrapKills : ([!tiny.ctx.killed && !tiny.lnc.trv && (withSlot roomy fun (x : Slot) => { x with inTrap := true }).slot.inTrap,
    (let s := { tiny with queues := [(0, Queue.blank)] }; !s.ctx.killed && !s.lnc.trv && (tget? s.queues 0).any fun q => q.ctx == s.grp.ctx && q.state == .active),
    (let l := tiny.blocks.filter fun p => p.2.ctx == tiny.grp.ctx; l.length == 1 && l.all fun p => tget? tiny.blocks p.1 == some p.2
    && decide (p.2.groups.map fun g => ((tiny.grpAt g).core, (tiny.grpAt g).tagKey)).Nodup && p.2.groups == [0])].all id) = true := by decide +kernel

theorem witness_FlashbackPointResults : ([(let x := im o0 (.v 8) 0x80000000#32; x.imm.getLsbD 31 && tiny.goesOn false { immForm iFbp x tiny with regOk := (fbpRegs (.v 8) 0xFF#8).all fun n => n < min 192 tiny.grp.alloc }),
    (let x := im o0 (.v 184) 0x140#32; tiny.lnc.lineOk (lineOf (x.imm.extractLsb' 0 30)) && tiny.goesOn false { immForm iFbp x tiny with regOk := (fbpRegs (.v 184) 1#8).all fun n => n < min 192 tiny.grp.alloc }),
    tiny.lnc.lineOk 1023 && !tiny.lnc.lineOk 1024].all id) = true := by decide +kernel

theorem witness_LeaseResults : ([tiny.goesOn false (sysForm ⟨.dstS, 1⟩ ⟨.sOnly, 1⟩ false (sy (.s 3) (.s 6) 0#12 1#16) tiny) && (tiny.grp.rdS (.s 6) 0).toNat == 0,
    (let s := withS tiny [(6, 4#32)]; 3 < (s.grp.rdS (.s 6) 0).toNat),
    (let s := withS tiny [(6, 3#32)]; s.porch.shed == 0 && s.boost s.ctx.part == 0 && 0 < 1 * (s.quadsOf s.grp.ctx).length * 3),
    (let s := withS tiny [(6, 1#32)]; let t := { s with porch := { s.porch with caps := (9, ⟨0x13, 0, 1, 0, 0, 100, 0, 0⟩) :: s.porch.caps } }
    1 * (t.quadsOf t.grp.ctx).length * 1 ≤ t.boost t.ctx.part && t.porch.shed == 0 && 0 < (t.quadsOf t.grp.ctx).length
    && (t.endLease t.grp.ctx).cap? 0x13 t.ctx.part == some (9, ⟨0x13, 0, 1, 0, 0, 100, 0, 0⟩)),
    (let t := { tiny with leases := [(4, ⟨some 0, 0, [0], 2, 5000⟩)] }
    let u := { t with porch := { t.porch with caps := (9, ⟨0x13, 0, 1, 0, 0, 100, 8, 0⟩) :: t.porch.caps } }
    (t.leases.find? fun p => p.2.ctx == some 0) == some (4, ⟨some 0, 0, [0], 2, 5000⟩)
    && u.cap? 0x13 0 == some (9, ⟨0x13, 0, 1, 0, 0, 100, 8, 0⟩)),
    (let t := { tiny with porch := { tiny.porch with shed := 1 } }; 1 ≤ t.porch.shed)].all id) = true := by decide +kernel

theorem witness_BarrierResults : ([tiny.barOwner .die == some (.gang 0 0) && tiny.marked (.gang 0 0) 0 == 0#32 && tiny.barOwner .pkg == none && tiny.barOwner .sys == none,
    tiny.goesOn false (engForm eArrive 1 { en (.s 5) o0 o0 o0 with scope := .die } tiny) && tiny.goesOn false (engForm eMeet 1 { en o0 o0 o0 o0 with scope := .die } tiny),
    (let s := tiny.setBar (.gang 0 0) 0 ⟨0#24, [(0, 1#32)]⟩; s.marked (.gang 0 0) 0 != 0#32
    && s.issues false (engForm eArrive 1 { en (.s 5) o0 o0 o0 with scope := .die } s)
    && s.issues false (engForm eMeet 1 { en o0 o0 o0 o0 with scope := .die } s)),
    tiny.issues false (engForm eArrive 1 { en (.s 5) o0 o0 o0 with scope := .pkg } tiny)
    && tiny.issues false (engForm eWait 1 { en o0 (.s 5) o0 o0 with scope := .sys } tiny)
    && tiny.issues false (engForm eMeet 1 { en o0 o0 o0 o0 with scope := .pkg } tiny),
    tiny.goesOn false (engForm eWait 1 { en o0 (.s 5) o0 o0 with scope := .die } tiny),
    (let s := withS tiny [(5, 0x02#32)]; (s.grp.rdS (.s 5) 0).extractLsb' 0 8 == 0#4 ++ 0#1 ++ scopeCode .die && (s.grp.rdS (.s 5) 0).extractLsb' 8 24 == (s.barAt (.gang 0 0) 0).gen),
    (let s := withS tiny [(5, 0xFFFFFF02#32)]; (s.grp.rdS (.s 5) 0).extractLsb' 8 24 != (s.barAt (.gang 0 0) 0).gen),
    (let s := withSlot tiny fun (x : Slot) => { x with meet := some 2#32 }; s.slot.meet == some 2#32 && s.barOwner .die == some (.gang 0 0) && scopeOf? ((2#32).extractLsb' 0 3) == some .die),
    (let s := tiny.setBar (.gang 0 0) 0 ⟨0#24, [(0, full)]⟩; s.podWhole (.gang 0 0) && (s.barAt (.gang 0 0) 0).marks != [] && s.groups.all fun p => p.2.alive &&& ~~~ ((tget? (s.barAt (.gang 0 0) 0).marks p.1).getD 0#32) == 0#32)].all id) = true := by decide +kernel


/-- Tile 0 of the block, defined, in a state. -/
def tiled (st : TileState) : State :=
  withS (roomy.setTile 0 0 { Tile.blank with defd := true, owner := 7#3, state := st, pitch := 128, size := 4096 })
    [(14, 1#32), (16, 0x1022#32)]

/-- A copy job of one row of 16 bytes into tile 0, and a matrix command, of the group. -/
def job : CopyJob := (tiled .empty).readCard (en o0 o0 (.s 12) o0) 0
def mcmd (op : MxOp) : MxCmd := { num := 0, gid := 0, slot := .A, block := 0, offset := 0#30, gnum := 0, gtag := 0#6, op := op, ret := none }
def queued (op : MxOp) : State := roomy.setCoreAt 0 { roomy.coreAt 0 with mxQ := [mcmd op], mxOwner := some 0 }
/-- The slot waits with what its instruction has read. -/
def engaged (s : State) (w : EngWait) : State := withSlot s fun (x : Slot) => { x with eng := some w }
/-- The queue's command comes from slot A, which waits for its result. -/
def awaited (op : MxOp) : State :=
  withSlot (roomy.setCoreAt 0 { roomy.coreAt 0 with mxQ := [{ mcmd op with ret := some 7 }], mxOwner := some 0 })
    fun (x : Slot) => { x with pending := [7] }
/-- Weights of format 2 stand in the active plane. -/
def weighted (wf : Nat) : State :=
  let s := queued (.mma 0#2 0 false false false 0x1022#128)
  let s := s.setTile 0 0 ((tiled .ready).tileAt 0 0)
  s.setCoreAt 0 { s.coreAt 0 with active := { WPlane.blank with mark := .loaded, fmt := wf, k32 := 1 } }
/-- Quad 0 is the partition's. -/
def owned : State := { tiny with porch := { tiny.porch with caps := [(3, ⟨1, 0, 1, 0, 0, 0, 0, 0⟩)] } }
abbrev T5 : EngF := en o0 o0 (.s 8) (.s 9)

theorem witness_TileInstructionResults : ([tiny.goesOn false (engForm eTdef 1 T5 tiny) && tiny.lnc.tiles ≤ tiny.tileIx T5 && roomy.goesOn false (engForm eTdef 1 T5 roomy) && roomy.tileIx T5 < roomy.lnc.tiles,
    (let s := withS roomy [(9, 1#32)]; (s.grp.rdS (.s 9) 0).toNat % 256 != 0),
    (let s := withS roomy [(9, 1280#32)]; (s.grp.rdS (.s 9) 0).toNat % 256 == 0 && !s.lnc.scratchOk 0 1280),
    (let s := withS roomy [(9, 1024#32)]; s.lnc.scratchOk 0 1024 && (s.tileAt 0 0).state == .empty),
    (tiled .filling).goesOn false (engForm eTdef 1 T5 (tiled .filling)) && ((tiled .filling).tileAt 0 0).state != .empty,
    roomy.goesOn false (engForm eTrel 1 (en o0 o0 o0 o0) roomy) && !(roomy.tileAt 0 0).defd && tiny.goesOn false (engForm eTrel 1 (en o0 o0 o0 o0) tiny),
    (tiled .ready).goesOn false (engForm eTrel 1 (en o0 o0 o0 o0) (tiled .ready)) && ((tiled .ready).tileAt 0 0).state == .ready && !((tiled .ready).tileAt 0 0).relPending,
    (tiled .empty).goesOn false (engForm eTrel 1 (en o0 o0 o0 o0) (tiled .empty)) && ((tiled .empty).tileAt 0 0).state == .empty && ((tiled .empty).tileAt 0 0).defd,
    roomy.goesOn false (engForm eTstate 1 (en (.s 3) o0 o0 o0) roomy) && tiny.goesOn false (engForm eTstate 1 (en (.s 3) o0 o0 o0) tiny),
    (let s := engaged (tiled .ready) (.tile 0 false); s.goesOn false (engForm eTrel 1 (en o0 o0 o0 o0) s) && s.slot.eng == some (.tile 0 false)
    && (s.tileAt 0 0).state == .ready)].all id) = true := by decide +kernel

theorem witness_CopyResults : ([[eCpy, eGath, eMx].all fun r => (tiled .empty).goesOn false (engForm r 1 (en o0 o0 (.s 12) (if r.c == .none then o0 else .s 16)) (tiled .empty)),
    (roomy.cardCheck (en o0 o0 (.s 12) o0) (roomy.readCard (en o0 o0 (.s 12) o0) 0)).isSome,
    (let s := withS (tiled .empty) [(15, 2#32)]; let x := en o0 o0 (.s 12) (.s 20); [0, 2].all fun fn => s.cardCheck x (s.readCard x fn) == none && s.copyReady (s.readCard x fn)),
    [0].all fun fn => (tiled .empty).cardCheck (en o0 o0 (.s 12) (.s 20)) ((tiled .empty).readCard (en o0 o0 (.s 12) (.s 20)) fn) == none
    && (tiled .empty).copyReady ((tiled .empty).readCard (en o0 o0 (.s 12) (.s 20)) fn) && !(tiled .ready).copyReady ((tiled .ready).readCard (en o0 o0 (.s 12) (.s 20)) fn),
    (let s := withS (tiled .ready) [(15, 2#32)]; let x := en o0 o0 (.s 12) (.s 20); [1, 3].all fun fn => s.cardCheck x (s.readCard x fn) == none && s.copyReady (s.readCard x fn)),
    [1].all fun fn => (tiled .ready).cardCheck (en o0 o0 (.s 12) (.s 20)) ((tiled .ready).readCard (en o0 o0 (.s 12) (.s 20)) fn) == none
    && (tiled .ready).copyReady ((tiled .ready).readCard (en o0 o0 (.s 12) (.s 20)) fn),
    (let j := (tiled .empty).readCard (en o0 o0 (.s 12) (.s 16)) 4; (tiled .empty).cardCheck (en o0 o0 (.s 12) (.s 16)) j == none && (tiled .empty).copyReady j),
    (let s := withSlot (tiled .empty) fun (x : Slot) => { x with cpy := some job }; s.slot.cpy == some job && s.tileCheck true job.tile == none
    && s.cardFits job == none && s.copyReady job),
    (let s := (tiled .filling).setCoreAt 0 { roomy.coreAt 0 with copyQ := [(5, job)] }; tget? (s.coreAt 0).copyQ 5 == some job && !job.stopped
    && !s.jobBlocked 0 5 job && (State.runRows 0 (job.rows - job.row) job s).1 == .whole),
    (let j := { job with addr := 0x20000 }; let s := (tiled .filling).setCoreAt 0 { roomy.coreAt 0 with copyQ := [(5, j)] }
    (match (State.runRows 0 (j.rows - j.row) j s).1 with | .fault c va => c == .pageAbsent && va == 0x20000 | _ => false)
    && !j.stopped && !s.jobBlocked 0 5 j),
    ((tiled .filling).blkAt 0).groups != [],
    roomy.ownPa 0 && roomy.ownPa (2 ^ 36 - 1),
    (let s := (tiled .ready).setCoreAt 0 { Core.blank with followQ := [mcmd (.mma 0#2 0 false false false 0x1022#128)], mxOwner := some 0 }
    s.followReady 0 (mcmd (.mma 0#2 0 false false false 0x1022#128))
    && !s.followReady 0 { mcmd (.mma 0#2 0 false false false 0x1022#128) with block := 9 }),
    (let s := withSlot (tiled .filling) fun (x : Slot) => { x with cpy := some job }; s.slot.cpy == some job && !s.copyReady job),
    (let s := withSlot (roomy.setTile 0 0 { Tile.blank with defd := true, owner := 7#3, pitch := 128, size := 0 }) fun (x : Slot) => { x with cpy := some job }
    s.slot.cpy == some job && s.copyReady job && (s.cardFits job).isSome),
    (let s := (tiled .filling).setCoreAt 0 { roomy.coreAt 0 with copyQ := [(5, job)] }; let s := s.setCtxAt 0 { s.ctxAt 0 with mem := ⟨1, 1, 0⟩ }
    !job.stopped && !s.jobBlocked 0 5 job && (match State.runRows 0 (job.rows - job.row) job s with | (.wait, j, _) => j.paid == 0 | _ => false))].all id) = true := by decide +kernel

theorem witness_MatrixInstructionResults : ([(tiled .ready).goesOn false (engForm eMldw 1 (en o0 o0 o0 (.s 16)) (tiled .ready)) && (tiled .ready).mxCheck true 0 0x1022#128 == none && (tiled .ready).grp.quad (.s 16) == 0x1022#128,
    (tiled .ready).goesOn false (engForm eMma 1 (en o0 o0 o0 (.s 16)) (tiled .ready)) && (tiled .ready).mxCheck false 0 0x1022#128 == none,
    (tiled .ready).mxReady (.mldw 0 false 0x1022#128) && !(tiled .filling).mxReady (.mldw 0 false 0x1022#128) && (roomy.mxCheck true 0 0#128).isSome,
    roomy.goesOn false (engForm eAccz 1 (en o0 o0 o0 o0) roomy) && roomy.mxReady (.accz 0#2 false false),
    (tiled .empty).goesOn false (engForm eAccrd 1 (en o0 o0 o0 o0) (tiled .empty)) && (tiled .empty).mxReady (.accrd 0#2 0 4#4 false 0 1),
    firstBad [(tiled .empty).tileCheck true 0, must (4 ≤ 5) .mxFormat, must (0 + 1 ≤ 128 && ((tiled .empty).tileAt 0 0).fits 1 (128 * outBytes 4)) .mxShape] == none,
    roomy.goesOn false (engForm eAccrdReg (accrdRegs ⟨0#4, false, 127#8, 0#7⟩) (en (.v 16) o0 o0 o0) roomy) && roomy.mxReady (.accrdReg 0#2 16 full 0#4 false 127),
    roomy.goesOn false (engForm eAccst 1 (en (.s 4) o0 o0 o0) roomy) && roomy.goesOn false (engForm eAccstW 1 (en o0 o0 (.s 4) o0) roomy),
    roomy.goesOn false (engForm eAccprom 1 (en o0 o0 o0 o0) roomy) && roomy.mxReady (.accprom 0#2),
    (let s := engaged (tiled .ready) (.mx (.mldw 0 false 0x1022#128)); s.slot.eng == some (.mx (.mldw 0 false 0x1022#128))
    && s.goesOn false (engForm eMldw 1 (en o0 o0 o0 (.s 16)) s) && s.mxReady (.mldw 0 false 0x1022#128) && s.mxFits (.mldw 0 false 0x1022#128) == none),
    (let s := engaged roomy (.mx (.accprom 0#2)); [eAccz, eAccprom].all fun r => s.goesOn false (engForm r 1 (en o0 o0 o0 o0) s)),
    (let s := engaged roomy (.mx (.accprom 0#2)); s.goesOn false (engForm eAccst 1 (en (.s 4) o0 o0 o0) s) && s.goesOn false (engForm eAccstW 1 (en o0 o0 (.s 4) o0) s)),
    (let op := MxOp.accrd 0#2 0 4#4 false 0 128; let s := engaged (tiled .empty) (.mx op)
    s.goesOn false (engForm eAccrd 1 (en o0 o0 o0 o0) s) && s.mxReady op && s.mxFits op == some .mxShape
    && s.goesOn false (engForm eAccrdReg (accrdRegs ⟨0#4, false, 127#8, 0#7⟩) (en (.v 16) o0 o0 o0) s))].all id) = true := by decide +kernel

theorem witness_MatrixCommandResults : ([[MxOp.accz 1#2 true false, .accz 1#2 false true, .accstW 3#2 5#5, .accprom 0#2, .mma 0#2 0 false false false 0x1022#128].all fun op =>
    ((queued op).coreAt 0).mxQ == [mcmd op] && !(queued op).cmdBlocked 0 (mcmd op),
    ((queued (.accprom 0#2)).coreAt 0).shadow.mark != .loaded && ((queued (.accprom 0#2)).coreAt 0).active.mark != .loaded,
    (let op := MxOp.mldw 0 false 0x1022#128; let s := (queued op).setTile 0 0 ((tiled .ready).tileAt 0 0)
    !s.cmdBlocked 0 (mcmd op) && FmtBlk.wfmt 0x1022#128 != 9),
    (let fmt := 0x1092#128; let s := ((tiled .ready).setCoreAt 0 { roomy.coreAt 0 with mxQ := [mcmd (.mldw 0 false fmt)], mxOwner := some 0 })
    let s := s.setBlkAt 0 { s.blkAt 0 with scratch := [(0, 2#8)] }
    FmtBlk.wfmt fmt == 9 && (tget? s.groups 0).isSome
    && (s.codeRows 0 0 (Machine.elemBits 9) (32 * FmtBlk.k32 fmt) 128).any fun r => r.contains 2),
    ((weighted 2).coreAt 0).active.mark == .loaded,
    ((weighted 2).coreAt 0).active.fmt == FmtBlk.wfmt 0x1022#128 && ((weighted 2).coreAt 0).active.k32 == FmtBlk.k32 0x1022#128
    && ((weighted 3).coreAt 0).active.fmt != FmtBlk.wfmt 0x1022#128
    && (List.range (FmtBlk.mrows 0x1022#128 + 1)).all fun r => !(weighted 2).rowPoisoned 0 0 r (32 * Machine.elemBits (FmtBlk.afmt 0x1022#128) / 8)
    && ((((weighted 2).coreAt 0).accAt 0).streamStart 0x1022#128 false 1).cells[127]?.isSome,
    (let s := (queued (.accrd 0#2 0 4#4 false 0 1)).setTile 0 0 { (tiled .empty).tileAt 0 0 with state := .filling }
    128 * outBytes 4 ≤ (s.tileAt 0 0).pitch && !s.cmdBlocked 0 (mcmd (.accrd 0#2 0 4#4 false 0 1))),
    [MxOp.accrdReg 0#2 16 full 0#4 false 0, .accst 0#2 4].all fun op => let s := awaited op
    (tget? s.groups 0).isSome && (s.grpAt 0).gtag == (mcmd op).gtag && (s.grpAt 0).a.pending.contains 7
    && !s.cmdBlocked 0 { mcmd op with ret := some 7 },
    swf (Acc.blank).words].all id) = true := by decide +kernel

theorem witness_LaunchAndNearQueueResults : ([tiny.goesOn false (engForm eLaunch 1 (en (.s 2) o0 (.s 16) o0) tiny) && tiny.deviceQueue 0 < 64
    && !tiny.acceptHeld 0 (launchPacket (tiny.grp.packet (.s 16)) 0 tiny.lnc.prio),
    (let s := { tiny with launches := tiny.launches ++ (List.range 64).map fun i => (i + 1, { Launch.blank with pkt := BitVec.ofNat 1024 0 }) }
    64 ≤ s.deviceQueue 0),
    tiny.goesOn false (engForm eNqpost 1 (en (.s 3) o0 (.s 16) o0) tiny) && tiny.nearQueued 0 < 64 && tiny.ctx.mem.open,
    (let s := tiny.setCtxAt 0 { tiny.ctx with mem := { tiny.ctx.mem with rate := 1, balance := 0 } }; !s.ctx.mem.open),
    tiny.goesOn false (engForm eNqpoll 1 (en (.s 5) (.s 3) o0 o0) tiny) && tiny.grp.rdS (.s 3) 0 == 0#32,
    (let s := withS (tiny.setCtxAt 0 { tiny.ctx with nearSeq := 3#32, nearDone := [2#32] }) [(3, 2#32)]
    s.grp.rdS (.s 3) 0 != 0#32 && (s.ctx.nearSeq - s.grp.rdS (.s 3) 0).toNat < 2 ^ 31 && s.ctx.nearDone.contains (s.grp.rdS (.s 3) 0)),
    (let l := { Launch.blank with pkt := (withPkt tiny (4096 * 2 ^ 992)).lnc.pkt }; l.badBit 0 == none && l.ctx == 0 && l.type != 0 && l.perCore != 0 && !l.coop
    && owned.partQuads (owned.ctxAt 0).part != [] && (match owned.readPreload 0 l.args 0 l.spre with | .ok ws => ws == [] | .error _ => false))].all id) = true := by decide +kernel


/-- Words placed in slots 0 on of the line at address 0. -/
def coded (s : State) (ws : List IWord) : State :=
  let ps := ws.foldr (fun (w : IWord) n => (if parity w then 1 else 0) + 2 * n) 0
  { s with mem := writeBytes (writeBytes s.mem 0 (ws.flatMap fun (w : IWord) => leBytes 12 w.toNat)) 60
                    (leBytes 4 (openLineWord (BitVec.ofNat 5 ps)).toNat) }
def hdr : SinkF :=
  ⟨0#3, false, 0xF5#8, 2#8, 0xF5#8, 0xF5#8, 0xF5#8, 0xF5#8, 0xF5#8, 3#4, 0#3, 1#2, false, false⟩
noncomputable def region3 : List Instr := [.sink hdr, .ldG L0 false, .vaddI32Imm (im (.v 2) (.v 2) 1#32), .stG T0]
noncomputable def sunk (is : List Instr) : State := coded roomy (is.map fun i => (encode i).getD 0#96)

/-- The state after a step of the header, and its one packet; then accepted, executed. -/
def after (o : Host.Outcome State Fault Refusal) : State := match o with | .next t => t | _ => State.reset
noncomputable def formed : State := after (execSink hdr (sunk region3))
noncomputable def accepted : State := after (execSinkPacketAccept 1 formed)
noncomputable def executed : State := after (execSinkPacketExecute 1 accepted)
def pkt (s : State) : Option Packet := tget? s.packets 1

theorem witness_SinkHeaderResults : ([(sunk region3).issues false (sinkForm hdr (sunk region3)) && slotIn (sunk region3).slot.offset == 0,
    { hdr with len := 0#4 }.len.toNat == 0 && decide (9 < { hdr with len := 10#4 }.len.toNat),
    (let s := withSlot (sunk region3) fun (x : Slot) => { x with offset := 3#30 }; slotIn s.slot.offset == 3 && 9 < slotIn s.slot.offset + 7 && slotIn s.slot.offset + 6 == 9
    && s.issues false (sinkForm { hdr with len := 7#4 } s)),
    (match (sunk [.sink hdr, .nop, .nop, .nop]).region hdr with | .trap c => c == .sinkIllegal | _ => false),
    (let s := withSlot { sunk region3 with cores := [] } fun (x : Slot) => { x with offset := 4#30 }
    s.issues false (sinkForm hdr s) && match s.region hdr with | .fault c va => c == .pageAbsent && va == 64 | _ => false),
    (match (sunk region3).region hdr with
    | .ok slots first =>
    let s := sunk region3
    let t := s.sinkPre hdr slots first
    let E := s.slot.mask &&& ~~~ s.landedHere
    let va := t.va L0
    let xl := fun L => match s.xlate (va L) .load with | .ok r => r | .error _ => ⟨0, 0, false⟩
    let vas := (lanesOf E).map va
    let u := s.endWalks vas
    let lines := (lanesOf E).foldl (fun l L => insertNat ((xl L).pa / 128) l) []
    firstLoad slots first == some L0 && first == 0 && E == full && globalTrap L0 E t == none
    && s.lnc.lineOk (lineOf (regionEnd hdr s.slot.offset)) && (s.awaitWalks vas).isNone
    && (lanesOf E).all (fun L => match s.xlate (va L) .load with | .ok r => r == xl L | .error _ => false)
    && !s.jobHazard true ((lanesOf E).map fun L => (va L / 128 * 128, 128)) && !s.nearHazard [((xl 0).pa / 128 * 128, 128)]
    && (u.pay (lines.map fun l =>
    let p := u.mkPacket hdr slots first t E va xl false l
    s.cost l (l * 128) (if p.tag then 2 else 0))).1
    | _ => false)].all id) = true := by decide +kernel

theorem witness_SinkPacketResults : ([(pkt formed).any fun p => p.phase == .formed && formed.ownPa (p.line * 128) && !formed.lineHeld [(p.line * 128, 128)]
    && (formed.tagsAt (homeSlice (p.line * 128))).length < 64,
    (pkt accepted).any fun p => { accepted with packets := [(1, p), (2, { p with phase := .formed })] }.lineHeld [(p.line * 128, 128)],
    (pkt accepted).any fun p => p.phase == .accepted && (p.runOn (accepted.sinkLine p).1 (accepted.sinkLine p).2).bad == none && !p.readOnly
    && accepted.ownPa (p.line * 128) && !p.fromL1 && !accepted.farPacket p,
    (pkt (after (execSinkPacketAccept 1 (after (execSink { hdr with len := 1#4 } (sunk [.sink { hdr with len := 1#4 }, .ldG L0 false])))))).any
    fun p => p.phase == .accepted && p.readOnly,
    (pkt accepted).any fun p => let s := { accepted with poison := [p.line * 2 % 2 ^ 30] }; (p.runOn (s.sinkLine p).1 (s.sinkLine p).2).bad != none,
    (pkt executed).any fun p => p.phase == .executed && (tget? executed.groups p.gid).isSome && (executed.grpAt p.gid).a.pending.contains 1
    && sget (executed.coreAt p.core).tags p.tagKey == p.gtag && p.bad == none,
    (pkt accepted).any fun p => let s := { accepted with poison := [p.line * 2 % 2 ^ 30] }; (pkt (after (execSinkPacketExecute 1 s))).any fun q =>
    q.phase == .executed && q.bad.any fun b => !b.trap,
    (pkt executed).any fun p => (let s := executed.setCoreAt p.core { executed.coreAt p.core with tags := [(p.tagKey, p.gtag + 1#6)] }
    sget (s.coreAt p.core).tags p.tagKey != p.gtag),
    (pkt formed).any fun p => let s := { formed with stores := [(4, ⟨0, .A, some 0, false, [(p.line * 128, [1#8])]⟩)] }
    s.stores.any (fun q => meets q.2.spans [(p.line * 128, 128)]) && !s.lineHeld [(p.line * 128, 128)]
    && (s.tagsAt (homeSlice (p.line * 128))).length < 64,
    (pkt executed).any fun p => (executed.grpAt p.gid).a.cannotFault p.routine == false && !p.bad.any fun b => b.trap,
    (pkt formed).any fun p => p.phase == .formed && !formed.heldAhead 1,
    (let i : Issued := { off := 0#30, next := 8#30, dests := [], sink := true, fbp := false }
    ({ formed with ahead := [(0, ⟨.A, i, [(i, formed.grpAt 0)], formed.grpAt 0⟩)] } : State).heldAhead 1)].all id) = true := by decide +kernel


/-- A packet that a home slice has accepted holds a line. -/
noncomputable def holding (s : State) (line : Nat) : State :=
  { s with packets := (accepted.packets.take 1).map fun p => (99, { p.2 with line := line }) }

theorem witness_executed_regsWf : executed.regsWf := by simp only [State.regsWf, Group.canon]; decide +kernel

/-- A load of lane 0 on its way, at an address of this package, of another one, or of the host. -/
def away (pa : Nat) (host : Bool) : Out :=
  { gid := 0, core := 0, tagKey := 0, gtag := 0#6, uni := true, size := .b32, kind := .load false,
    lanes := [⟨0, 0x100, pa, some 64⟩], host := host, above := 0#32, fill := none, acquire := none }
def waits (pa : Nat) (host : Bool) : State :=
  withSlot { tiny with outs := [(9, away pa host)] } fun (x : Slot) => { x with pending := [9] }
def awayStore : Out := { away (2 ^ 43) false with kind := .store [[1#8, 0#8, 0#8, 0#8]], lanes := [⟨0, 0x100, 2 ^ 43, none⟩] }
/-- The context's memory bucket is exhausted. -/
def poor (s : State) : State := s.setCtxAt 0 { s.ctx with mem := ⟨1, 1, 0⟩ }
/-- Partition 0 exists. -/
def parted0 (s : State) : State := { s with porch := { s.porch with parts := [(0, ⟨[], 0, 0#128, 0, false⟩)] } }
def store9 : PStore := { gid := 0, slot := .A, core := some 0, uo := false, writes := [(0x200, [1#8, 2#8])] }

/-- Page tables at 1 MiB of the package map the first 64 KiB of context 0. -/
def paged : State :=
  let entry (m : Memory) (p : Nat × Nat) : Memory := writeBytes m p.1 (leBytes 8 p.2)
  { tiny.setCtxAt 0 { tiny.ctx with root := 0x100000 } with
      mem := [(0x100000, 0x101C01), (0x101000, 0x102C01), (0x102000, 0x103C01), (0x103000, 0x139)].foldl entry tiny.mem }

/-- A queue of context 0 whose ring is at 0x1000, with packets to accept. -/
def queue0 (r w : Nat) : Queue := { Queue.blank with base := 0x1000, log2n := 4, status := 0x2000, rdptr := r, wrptr := w }
def withQ (r w : Nat) : State := { paged with queues := [(0, queue0 r w)] }

/-- Quad 0 assigned to partition 0; a launch that waits, with room to save one block. -/
def open0 : State := { tiny with porch := { tiny.porch with caps := (7, ⟨1, 0, 1, 0, 0, 0, 0, 0⟩) :: tiny.porch.caps } }
def ready1 (c heat : Nat) : Launch :=
  { Launch.blank with pkt := BitVec.ofNat 1024 (1 + 24 * 2 ^ 192 + 1024 * 2 ^ 160 + heat * 2 ^ 140 + c * 2 ^ 528 + 1024 * 2 ^ 992),
                      depOk := true }
def rivals : State :=
  let r := ready1 1 2
  let s := withGrp { open0 with launches := open0.launches ++ [(1, { r with pkt := r.pkt ||| BitVec.ofNat 1024 (2 ^ 132 + 2 ^ 32 + 0xC0000 * 2 ^ 224 + 2048 * 2 ^ 992) })], ctxs := open0.ctxs ++ [(1, Ctx.blank)] }
    fun (g : Group) => { g with core := 1 }
  (s.setBlkAt 0 { s.blkAt 0 with core := 1 }).setCtxAt 0 { s.ctx with sliceEnd := 0 }

theorem witness_MemoryEventResults : ([(let t := withSlot (stacked roomy false 0xFF00#32 false) fun (x : Slot) => { x with joinRead := true }
    t.slot.live && t.slot.joinRead && (match t.grp.topEntry .A with
    | some (i, _) => (match translate t (some 0) 0 (t.stackVa t.grp i) .load with
    | .ok x => !t.walkHeld (some 0) 0 [t.stackVa t.grp i] && !t.lineHeld [(x.pa, 16)] && (t.pay [t.cost 0 x.pa 1]).1
    && !((poor t).pay [t.cost 0 x.pa 1]).1
    | .error _ => false)
    | none => false)),
    (tget? (waits 0x100 false).outs 9).isSome && (waits 0x100 false).homeReq (away 0x100 false),
    (away (2 ^ 46) true).host && !(waits (2 ^ 43) false).homeReq (away (2 ^ 43) false),
    (let s := waits 0x100 false; (tget? s.groups 0).isSome && sget (s.coreAt 0).tags 0 == 0#6 && (s.grpAt 0).a.pending.contains 9
    && (away 0x100 false).kind == .load false && (away 0x100 false).lanes.length == 1
    && s.grp.a.left == 0#32 && s.grp.a.got == [] && !s.grp.a.stopped && !s.grp.a.parked && (away 0x100 false).above == 0#32),
    (let s := withSlot (waits 0x100 false) fun (x : Slot) => { x with pending := [9, 10] }; s.grp.a.pending.any fun j => j != 9),
    awayStore.kind.writes && !awayStore.host && awayStore.lanes.all fun r => r.entry == none,
    (let s := (waits 0x100 false).setCoreAt 0 { Core.blank with tags := [(0, 1#6)] }; sget (s.coreAt 0).tags 0 != 0#6),
    (let s := { tiny with stores := [(4, store9)] }; (tget? s.outs 4).isNone && tget? s.stores 4 == some store9 && !s.storeBlocked 4 store9
    && !s.tagHazard store9.spans),
    (let s := { tiny with walks := [(4, ⟨0, 0, .A, 0x100, false⟩)] }
    (tget? s.walks 4).isSome && (s.walking (dieOf (s.grpAt 0).core)).contains 4 && !s.walkHeld (some 0) 0 [0x100]),
    (waits (2 ^ 43) false).farOuts 0 && !(waits 0x100 false).farOuts 0 && !tiny.jobsIn 0 0 0x10000
    && (tiny.coreAt 0).tlb.any fun e => e.ctx == 0,
    ((tiled .filling).setCoreAt 0 { roomy.coreAt 0 with copyQ := [(5, { job with row := 1 })] }).jobsIn 0 0 16,
    (pkt accepted).any fun p => let s := holding (waits (p.line * 128) false) p.line
    s.outHeld (away (p.line * 128) false) && s.outs.any fun q => (s.grpAt q.2.gid).ctx == 0 && s.outHeld q.2,
    !(waits 0x100 false).outHeld (away 0x100 false) && (pkt accepted).any fun p => accepted.outHeld (away (p.line * 128) false)].all id) = true := by decide +kernel

theorem witness_QueueAndLaunchResults : ([(tget? tiny.ctxs 0).isSome && 0x1000 % 4096 == 0 && 0x2000 % 32 == 0,
    (match (withQ 0 0).sysWrite 0 0x2000 .store with | .ok pa => (withQ 0 0).ownPa pa && !(withQ 0 0).lineHeld [(pa, 32)] | .error _ => false) && (withQ 0 0).stores == [],
    (let s := { withQ 0 0 with queues := [(0, { queue0 0 0 with status := 0x20000 })] }
    (s.queueAt 0).state == .active && match s.sysWrite 0 0x20000 .store with | .error _ => true | .ok _ => false),
    (tget? (parted0 (withQ 3 4)).porch.parts 0).isSome && ((withQ 3 4).ctxAt 0).part == 0
    && (tget? (withQ 3 4).queues 0).any fun x => x.state == .active && !x.destroying
    && (3 < x.wrptr && x.rdptr + 2 ^ x.log2n < 20) && (x.wrptr ≤ 4 && 19 ≤ x.rdptr + 2 ^ x.log2n),
    (let s := holding (withQ 0 1) 32; s.sysHeld 0 0x1000 128 && !s.sysHeld 0 0x2000 128 && (holding (withQ 0 1) 0x2000).sysHeld 0 0x5000 4),
    (let s := holding (withQ 15 16) 0x60; let va := 0x1000 + 15 * 128; let pkt := fun (c : Nat) => BitVec.ofNat 1024 (1 + c * 2 ^ 768)
    s.acceptHeld 0 (pkt 0x3000) && !s.acceptHeld 0 (pkt 0x3080) && !s.sysHeld 0 va 128),
    (let s := withQ 15 16; let va := 0x1000 + 15 * 128
    !s.sysHeld 0 va 128 && !s.acceptHeld 0 0#1024 &&
    match s.sysRead 0 va, s.sysRead 0 (va + 64) with | .ok pa, .ok _ => s.ownPa pa | _, _ => false),
    (match ({ withQ 0 1 with queues := [(0, { queue0 0 1 with base := 0x100000 })] } : State).sysRead 0 0x100000 with | .error _ => true | .ok _ => false),
    (let l := { ready1 0 0 with depOk := false, pkt := (ready1 0 0).pkt ||| BitVec.ofNat 1024 (0x100 * 2 ^ 640) }
    !l.depOk && l.state == .waiting && !paged.sysHeld l.ctx l.depAddr 8 && (holding paged 2).sysHeld l.ctx l.depAddr 8 && match paged.sysRead l.ctx l.depAddr with | .ok pa => tiny.ownPa pa && pa == 0x100 | .error _ => false),
    (let l := { ready1 0 0 with depOk := false, pkt := (ready1 0 0).pkt ||| BitVec.ofNat 1024 (0x20000 * 2 ^ 640) }
    match paged.sysRead l.ctx l.depAddr with | .ok _ => false | .error _ => true),
    ({ open0 with launches := open0.launches ++ [(1, ready1 0 0)] }.makeResident 1 [⟨0, [1]⟩]).isSome,
    (let r := ready1 0 0
    let l := { r with state := .running, started := 1, ended := 1, src := .queue 0, pkt := r.pkt ||| BitVec.ofNat 1024 (0x3000 * 2 ^ 768) }
    let s := { withQ 0 0 with launches := tiny.launches ++ [(1, l)] }
    s.launchOver 1 && !s.complHeld l.ctx l.compl && (holding s 0x60).complHeld l.ctx l.compl && complValid l.compl && s.stores == [] && !(s.queueAt 0).destroying
    && match s.complAt l.ctx l.compl with | .ok pa => s.ownPa pa && s.ownPa (pa + 16) && !s.lineHeld [(pa, 24)] | .error _ => false),
    (let s := paged; (match s.sysWrite 0 0x3000 .store, s.sysWrite 0 0x3010 .atomic with | .ok pa, .ok _ => s.ownPa pa | _, _ => false)
    && (match s.sysWrite 0 0xFFF0 .store, s.sysWrite 0 (0xFFF0 + 16) .atomic with | .ok _, .error _ => true | _, _ => false)
    && match s.sysWrite 0 0x20000 .store with | .error _ => true | .ok _ => false),
    (let s := { withQ 0 1 with launches := tiny.launches ++ [(1, { ready1 0 0 with src := .queue 0, pkt := (ready1 0 0).pkt ||| BitVec.ofNat 1024 (0x20000 * 2 ^ 768) })] }
    (s.queueAt 0).state == .active && match s.complAt 0 (s.lncAt 1).compl with | .error _ => complValid (s.lncAt 1).compl | .ok _ => false),
    (let s := { withQ 0 0 with launches := tiny.launches ++ [(1, { ready1 0 0 with src := .queue 0 })] }
    (s.lncAt 1).src == .queue 0 && (s.lncAt 1).state != .completed),
    (tget? (withQ 0 1).queues 0).any fun x => !x.destroying && x.state == .active && x.rdptr < x.wrptr,
    (tiny.launches.all fun p => p.2.src != .queue 0) && !(queue0 1 0).dirty && 1 > (queue0 1 0).wrptr].all id) = true := by decide +kernel

theorem witness_ContextResults : ([(tget? tiny.ctxs 4095).isNone && (tget? (parted0 tiny).porch.parts 0).isSome,
    rivals.mustYield 0 && !rivals.crossHeld 0,
    (let s := withSlot (holding { rivals with outs := [(9, { away 0x100 false with core := 1 })] } 2) fun (x : Slot) => { x with pending := [9], crossed := true }
    s.mustYield 0 && s.crossHeld 0),
    (let s := tiny.setCtxAt 0 { tiny.ctx with sliceEnd := 0 }; !s.mustYield 0 && s.sliceOver 0),
    ((tiny.setCtxAt 0 { tiny.ctx with resident := false }).resume 0 []).isSome,
    (let s := (tiled .filling).setCoreAt 0 { roomy.coreAt 0 with copyQ := [(5, job)] }
    (tget? (s.blkAt 0).tiles 0).any fun e => !e.relPending && e.state == .filling),
    tiny.grp.a.live && (tiny.grp.savedAs .A).pjoin != some (~~~ 0#30) && (tiny.grp.savedAs .A).kind != 3,
    (let s := withSlot tiny fun (x : Slot) => { x with crossed := true }; (s.grp.savedAs .A).kind == 3),
    swf (tiny.checkpoint (.v 8) 1#8 0x80000000#32).regs,
    decide (tiny.blocks.map Prod.fst).Nodup && decide (tiny.groups.map Prod.fst).Nodup && decide (rivals.launches.map Prod.fst).Nodup].all id) = true := by decide +kernel


def rec1 : Record := (tiny.plainRecord 0 .poison)
def withFq (fq wait : List FqEntry) : State := tiny.setCtxAt 0 { tiny.ctx with fq := fq, fqWait := wait }
def held1 : State := withGrp tiny fun (g : Group) => { g with halted := true }

/-- A near command of context 0 for station 0, its words numbered as its region entries reach all of the first 4 MiB. -/
def bitsOf (ws : List (Nat × Nat)) : Nat := ws.foldl (fun n p => n + p.2 * 2 ^ (32 * p.1)) 0
def cmdOf (ws : List (Nat × Nat)) : BitVec 512 := BitVec.ofNat 512 (bitsOf ws)
def rgn0 : BitVec 256 := BitVec.ofNat 256 (1 + 0x8000 * 2 ^ 64 + 2 ^ 120 + 2 ^ 121 + 2 ^ 122 + 2 ^ 128)
def near0 (ws : List (Nat × Nat)) (started : Bool) : NearCmd :=
  { ctx := 0, launch := 0, cmd := cmdOf ([(1, 16), (2, 2), (3, 32), (4, 2)] ++ ws), ticket := 1#32, gid := 0, core := 0, block := 0,
    rrgn := rgn0, wrgn := rgn0, crgn := rgn0, gnum := 0, gtag := 0#6, started := started, stalled := false, count := 0, ev := 0#4,
    steps := none, abm := false, early := false }
def withNear (ws : List (Nat × Nat)) (started : Bool) : State := { tiny with near := [(4, near0 ws started)] }
def runsOp (ws : List (Nat × Nat)) (op : Nat) : Bool := (near0 ws true).op == op && !(withNear ws true).bankHeld 4 (near0 ws true)

/-- The table's entries, those of partition 0 when it is created, and a partition with two of each kind it can shrink. -/
def capOf (st o : Nat) (r : Resource) : Cap := ⟨(resKey r).1, (resKey r).2, st, o, 0, 0, 0, 0⟩
def res0 : List Resource := [.quad 0, .station 1, .hall 3, .eth 0, .nvme 2]
def capped (st o : Nat) (rs : List Resource) : State :=
  { State.reset with porch := { Porch.blank with caps := (List.range rs.length).zip (rs.map (capOf st o)) } }
def parted (rs : List Resource) : State :=
  let s := capped 1 0 rs
  { s with porch := { s.porch with parts := [(0, ⟨[], 0, 0#128, 0, false⟩)] } }
def shares : State := { tiny with porch := { tiny.porch with caps := tiny.porch.caps ++ [(1, capOf 1 0 (.quad 0))] } }

/-- R289: the window's record, record count and table: POISON is 0x4C, and entry 0 is station 0's (TYPE 2). -/
theorem test_window : [0, 0x40, 0x48, 0x1000].map (fun (o : Nat) => (withFq [⟨rec1, .none⟩] []).windowByte 0 o)
    = [0x4C#8, 1#8, 0#8, 2#8] := by decide +kernel
theorem witness_partLegal : (capped 0 255 res0).partLegal 0 res0 (2 ^ 32) 128 := by
  simp only [State.partLegal]; decide +kernel
theorem witness_minimaFit : (capped 0 255 res0).minimaFit 1 4 := by simp only [State.minimaFit]; decide +kernel
theorem witness_minimaShort : ¬ (capped 0 255 res0).minimaFit 2 4 := by simp only [State.minimaFit]; decide +kernel
theorem witness_shrinkLegal : (parted (res0 ++ [.hall 4, .station 5, .quad 1])).shrinkLegal 0 [.hall 4, .quad 1] := by
  refine ⟨by decide +kernel, by decide +kernel, fun r hr => ?_, by decide +kernel⟩
  simp only [List.mem_cons, List.not_mem_nil, or_false] at hr
  rcases hr with rfl | rfl
  · exact ⟨5, capOf 1 0 (.hall 4), by decide +kernel, by decide +kernel, by decide +kernel⟩
  · exact ⟨7, capOf 1 0 (.quad 1), by decide +kernel, by decide +kernel, by decide +kernel⟩
theorem witness_verifies (h : Config.sigOk [] (Config.sm3 []) [] = true) :
    { Porch.blank with fusedHash := Config.sm3 [] }.verifies BootImage.blank = true := by
  simp [Porch.verifies, BootImage.blank, h]
theorem witness_not_verifies : { Porch.blank with fusedHash := Config.sm3 [] ++ [1#8] }.verifies BootImage.blank = false := by
  simp [Porch.verifies, BootImage.blank]
theorem witness_reset_wf : State.reset.wf := by simp only [State.wf]; decide +kernel
theorem witness_reset_canonical : State.reset.canonical := by simp [State.canonical, State.regsWf, State.reset]

/-- A header of a four-slot region is outstanding; what stands behind the region may be issued ahead. -/
noncomputable def issuing (behind : List Instr) : State := { after (execSink hdr (sunk (region3 ++ behind))) with agenda := [] }
/-- One word has been issued ahead. -/
noncomputable def issued : State := after (step (issuing []))
theorem test_ahead_issues : (issued.ahead.map fun p => p.2.tip.a.offset) = [8#30] := by decide +kernel
theorem witness_canonical : issued.canonical := by simp only [State.canonical, State.regsWf, Group.canon]; decide +kernel

theorem witness_FaultPathResults : ([(let s := withSlot roomy fun (x : Slot) => { x with trap := some rec1 }; s.slot.trap == some rec1 && s.slot.live
    && !((s.grp.slot .B).live && (s.grp.slot .B).inTrap)),
    (let s := withSlot roomy fun (x : Slot) => { x with deferred := [⟨.mxFormat, 1#32, .matrix, 3#30, 0, 0, 0#6, 0#64⟩] }; s.slot.atIssue),
    (let s := withFq [] [⟨rec1, .none⟩]; (s.ctxAt 0).fqWait == [⟨rec1, .none⟩] && s.fqRoom 0),
    (let s := withFq (List.replicate 8 ⟨rec1, .none⟩) [⟨rec1, .none⟩]; (s.ctxAt 0).fq.length == 8),
    (tget? tiny.ctxs 0).isSome && (tiny.ctxAt 0).part == 0 && (tget? tiny.ctxs 4095).isNone,
    (let r := { rec1 with seq := 5#32 }; let s := withFq [⟨r, .parked 0 .A⟩] []
    (s.ctxAt 0).fq.any (fun e => e.record.seq == 5#32) && ((s.ctxAt 0).fq.find? fun f => f.record.seq == 5#32) == some ⟨r, .parked 0 .A⟩
    && (s.ctxAt 0).resident && (tget? s.groups 0).isSome && (s.ctxAt 0).fq.all (fun e => e.record.seq != 6#32)),
    (List.range 256).any fun c => c != 0 && (killCause c).isSome,
    (List.range 256).any fun c => c != 0 && (killCause c).isNone].all id) = true := by decide +kernel

theorem witness_DebuggerResults : ([tiny.dbgGroup 0 0 0 == some 0 && held1.dbgGroup 0 0 0 == some 0,
    (held1.grpAt 0).halted && ((held1.grpAt 0).slot .A).live && !((held1.grpAt 0).slot .A).atBkpt && !(held1.grpAt 0).b.atBkpt,
    (held1.grpAt 0).isHalted && !(tiny.grpAt 0).isHalted,
    (let s := withGrp tiny fun (g : Group) => { g with port := 3 }; s.dbgGroup 0 0 0 == some 0 && !s.unitHeld 0 3 (unitOf 511)),
    tiny.unitHeld 0 0 (unitOf 5) && tiny.entryOwner 0 0 5 == some (0, 5) && held1.unitHeld 0 0 (unitOf 5) && (held1.grpAt 0).isHalted && swf (tiny.coreAt 0).spare,
    ((held1.grpAt 0).dbgOwn.length == 143) && (held1.grpAt 0).isHalted,
    (let s := held1.setCoreAt 0 { held1.coreAt 0 with mxOwner := some 0 }; (s.coreAt 0).mxOwner == some (s.grpAt 0).block && (s.grpAt 0).isHalted
    && swf ((s.coreAt 0).accAt 3).words),
    (let s := withGrp roomy fun (g : Group) => { g with halted := true }; 3 < (s.lncAt (s.grpAt 0).launch).tiles && (s.grpAt 0).isHalted),
    (let s := withSlot tiny fun (x : Slot) => { x with atBkpt := true }; ((s.grpAt 0).slot .A).atBkpt && !((s.grpAt 0).slot .B).atBkpt
    && (s.grpAt 0).fusion != .parked && s.dbgGroup 0 0 0 == some 0)].all id) = true := by decide +kernel

theorem witness_NearCommandResults : ([((withNear [] false).near.find? fun p => p.2.ctx == 0 && !p.2.started) == some (4, near0 [] false) && !(withNear [] false).nearBlocked 4 (near0 [] false)
    && !(withNear [] false).bankHeld 4 (near0 [] false)
    && headerClean (near0 [] false).cmd && (nearOp 0 4).isSome,
    runsOp [] 0 && bodyZero (near0 [] true).cmd 8 && !bodyZero (near0 [(15, 1)] true).cmd 8,
    runsOp [(0, 1)] 1 && (match (withNear [(0, 1)] true).nearRead (near0 [(0, 1)] true) 2048 256 with | .ok (img, _) => imageOk img | .error _ => false),
    (match ({ withNear [(0, 1)] true with mem := [(2048, 0xFF#8)] } : State).nearRead (near0 [(0, 1)] true) 2048 256 with
    | .ok (img, _) => !imageOk img | .error _ => false),
    runsOp [(0, 2)] 2 && runClean (near0 [(0, 2)] true).cmd && !runClean (near0 [(0, 2), (14, 1)] true).cmd && (tiny.stationAt 0).cfgs == [],
    (let img := List.replicate 256 0#8; let n := near0 [(0, 2)] true; let s := tiny.setStationAt 0 { Station.blank with cfgs := [⟨0, img⟩] }
    n.stn == 0 && (match Cg.run n img (routes img) (runFuel n.cmd) (Cg.start (s.setStationAt 0 ((s.stationAt 0).hold ⟨0, img⟩))) with
    | (.done, _) => true | _ => false)),
    { near0 [(0, 2)] true with stalled := true }.op == 2,
    (let n := near0 [(0, 3), (9, 2), (11, 2 * 65536 + 32)] true; let r := iredOf n.cmd
    n.op == 3 && (r.ok && r.tbl4 % 32 == 0 && r.out4 % 32 == 0 && n.w 13 / 2 == 0 && bodyZero n.cmd 14)),
    !(iredOf (near0 [(0, 3)] true).cmd).ok,
    (let n := near0 [(0, 16), (9, 1)] true; let ws := [(0, 16), (8, 256), (9, 1)]; let m := near0 ws true
    n.op == 16 && bseqClean n && bseqClean m && !bseqClean (near0 [(0, 16)] true)
    && (match tiny.preCheck n 1 0 ⟨false, allClosed, 0⟩ with | .error c => c == .nearBounds || c == .nearFormat | .ok _ => false)),
    (let m := near0 [(0, 16), (8, 256), (9, 1)] true
    let s : State := { tiny with mem := writeBytes tiny.mem 2048 (leBytes 8 (1 * 2 ^ 60)) }
    match s.preCheck m (bseqSteps m) 0 ⟨false, allClosed, 0⟩ with | .ok ws => ws.length == 1 | .error _ => false),
    (let n := { near0 [(0, 16)] true with steps := some [] }; n.op == 16 && n.steps == some [] && n.started),
    (match State.bldSources (near0 [(0, 16)] true) (segment []).1 tiny with | .ok (l, _) => l == [] && (segment []).2 == [] | .error _ => false),
    (match State.bldSources (near0 [(0, 16)] true) (segment [1 * 2 ^ 60, 0]).1 tiny with | .ok _ => true | .error _ => false),
    (let c := cmdOf [(0, 0xF0), (8, 1 + 0x80000 * 0), (10, 0x8000), (11, 2 ^ 24), (12, 1)]; let e : Rgn := c.extractLsb' 256 256
    headerClean c && nearWord c 1 / 4096 == 0 && nearWord c 2 / 256 == 0 && Rgn.clean e && tiny.ctx.mem.open && (tget? tiny.ctxs 0).isSome && Rgn.valid e && rgnLen e != 0
    && tiny.ownsRange 0 (rgnBase e) (rgnLen e) && tiny.ownsSet 0 e),
    (let c := cmdOf [(0, 0xF1)]; headerClean c && nearWord c 0 % 256 == 0xF1 && bodyZero c 8 && !headerClean (cmdOf [(0, 0x80F1)])),
    !(poor tiny).ctx.mem.open && tiny.ctx.part == 0 && (tget? tiny.ctxs 7).isNone].all id) = true := by decide +kernel

theorem witness_PowerResults : ([(tget? tiny.ctxs 0).isSome && tiny.porch.caps.all fun p => p.2.state != 2,
    (shares.cap? 1 0).any fun e => e.2.owner == 0,
    (let s := { tiny with porch := { tiny.porch with ilim := true } }; s.shedDue == some 2000 && tiny.shedDue == none),
    ({ tiny with leases := [(0, ⟨none, 0, [0], 1, 10⟩)] }.leases.all fun p => tiny.timebase.toNat < p.2.expiry),
    (let s := { tiny with porch := { tiny.porch with caps := (9, ⟨0x14, 0, 1, 0, 0, 16, 0, 0⟩) :: tiny.porch.caps } }
    (tget? s.ctxs 0).isSome && s.cap? 0x14 0 == some (9, ⟨0x14, 0, 1, 0, 0, 16, 0, 0⟩) && s.quotas 0 0 + 16 ≤ 16 && 16 < s.quotas 0 0 + 17),
    (⟨1, 1, 0⟩ : Bucket).rate != 0xFFFFFFFF,
    tiny.unitHeld 0 0 0 && !tiny.unitHeld 0 3 15].all id) = true := by decide +kernel

theorem witness_PartitionResults : ([(let s := capped 0 255 res0; s.allFree res0 && !(capped 1 0 res0).allFree res0),
    (let s := parted res0; (tget? s.porch.parts 0).isSome && [Resource.hall 4].eraseDups == [.hall 4] && !s.allFree [.hall 4]),
    ({ capped 0 255 [.hall 4] with porch := { (capped 0 255 [.hall 4]).porch with parts := [(0, ⟨[], 0, 0#128, 0, false⟩)] } }.allFree [.hall 4]),
    (let s := parted (res0 ++ [.hall 4, .station 5, .quad 1]); s.coopFits 0 [0] && !(s.ctxsOn [1]).any s.hasHalted),
    (let s := { shares with launches := [(0, { Launch.blank with pkt := BitVec.ofNat 1024 (2 ^ 10 + 24 * 2 ^ 192), state := .running })] }; !s.coopFits 0 []),
    (held1.ctxsOn [0]).any held1.hasHalted,
    (tget? (parted res0).porch.parts 1).isNone && tiny.ctx.part == 0,
    [0x11, 0x12, 0x13, 0x15].all fun t => (tget? { (parted res0).porch with caps := [(9, ⟨t, 0, 1, 0, 4, 4, 2, 0⟩)] }.caps 9).isSome,
    (shares.resCap (.quad 0)).isSome && (shares.resCap (.station 0)).isSome && shares.blocks.any fun b => quadOfCore b.2.core == 0,
    !(capped 0 255 res0).porch.minimaShort && { (capped 0 255 res0).porch with minimaShort := true }.minimaShort].all id) = true := by decide +kernel

theorem witness_OutsideResults : ([(let s := parted res0; s.barAddr 0 0 8 == some (2 ^ 32) && (tget? s.porch.parts 0).isSome && !s.lineHeld [(2 ^ 32, 8)] && (s.barAddr 0 (2 ^ 32 - 4) 8).isNone
    && hostOpLegal (.atom 0x01 true 1#64 0#64) && !hostOpLegal (.atom 0x0D false 1#64 0#64) && 2 ^ 32 % 8 == 0 && !s.poisoned (2 ^ 32)),
    [(1, 0x1#128), (2, 0x2#128), (3, 0x3#128)].all fun p => fpOp p.2 == p.1,
    0x100 ≤ 0x108 && 0x108 + 8 ≤ 0x110 && 0xFFFF + 1 ≤ 65536,
    tiny.ownPa (128 + 127) && !tiny.lineHeld [(128, 128)] && !tiny.poisoned 128,
    (pkt accepted).any fun p => accepted.lineHeld [(p.line * 128, 8)],
    tiny.ownPa 0 && tiny.ownPa (2 ^ 37 - 1) && !tiny.ownPa (2 ^ 42),
    (let s := capped 0 255 [.eth 1]; (s.cap? 4 1).any fun c => c.2.state == 0),
    (let s := parted res0; (s.cap? 4 0).any (fun c => c.2.state == 1) && s.partBytes 0 (2 ^ 32) 9216 && !s.partBytes 0 0 1 && !s.lineHeld [(2 ^ 32, 9216)]
    && (s.cap? 5 2).any fun c => c.2.state == 1),
    (tget? tiny.groups 0).isSome && (tget? tiny.blocks 0).isSome,
    roomy.ownPa 128 && roomy.ownPa (128 + 8 - 1) && !roomy.lineHeld [(128, 8)] && !roomy.poisoned 128,
    (let s : State := { tiny with l2 := [(1, ⟨1#2, 0#2, 0#2, []⟩)], msc := [(1, ⟨3#2, 0#2, 0#2⟩)] }
    s.ownPa 128 && s.l2Has 2 && !s.l2Has 3 && s.mscHas 3 && !s.mscHas 4 && !s.l2Has 4 && !s.badSector 2)].all id) = true := by decide +kernel

theorem witness_BootResults : ([{ Porch.blank with running := some BootImage.blank }.running.isSome && State.reset.porch.running == none && readyBit 0 && readyBit 38 && readyBit 48 && readyBit 127 && !State.reset.porch.ready.getLsbD 48
    && !(State.reset.quadAt 0).retired && State.reset.cap? 1 0 == none && State.reset.freeEntry != none,
    (tget? { Porch.blank with harts := [(3, ⟨0, 0, false, .machine⟩)] }.harts 3) == some ⟨0, 0, false, .machine⟩ && (List.replicate 32 0#8).length == 32].all id) = true := by decide +kernel

theorem witness_RegisterFrames : ([[rSSS, rSSSS].all fun r => tiny.goesOn false (regForm r (rg (.s 3) (.s 4) (.s 5) (if r == rSSSS then .s 6 else o0)) true tiny),
    tiny.goesOn false (immForm iSS (im (.s 3) (.s 4) 1#32) tiny) && tiny.goesOn true (immForm iVV (im (.v 3) (.v 4) 1#32) tiny),
    [(rVVV, o0), (rVVVV, Opd.v 6)].all fun r => tiny.goesOn true (regForm r.1 (rg (.v 3) (.v 4) (.v 5) r.2) true tiny),
    tiny.goesOn true (regForm rCmp (rg (.v 3) (.v 4) (.v 5) o0) true tiny) && tiny.goesOn true (regForm rFcmp (rg (.v 3) (.v 4) (.v 5) o0) true tiny),
    [(rCvtN, o0, o0), (rFromElem ⟨0#3, 0#3, false, 0#4⟩, o0, o0), (rFromElem ⟨0#3, 0#3, true, 0#4⟩, Opd.v 5, o0), (rCvtE, o0, .v 6)].all fun r =>
    tiny.goesOn true (regForm r.1 (rg (.v 3) (.v 4) r.2.1 r.2.2) true tiny),
    tiny.goesOn true (immForm iV (im (.v 3) o0 1#32) tiny) && tiny.goesOn false (immForm iS (im (.s 3) o0 1#32) tiny)].all id) = true := by decide +kernel

theorem witness_StepRunsDecoded : ([({ tiny with agenda := [.bucketRefill] }.agenda.length == 1),
    (let s := { tiny with cores := [] }
    s.tick.schedWork.isNone && !s.tick.unitsNext && s.tick.flipTurn.pick.any fun u => u.slotEvent.isNone && (match u.fetched with | .ok _ => false | .error _ => true)),
    match { tiny with cores := [] }.fetch with | .fault _ _ => true | _ => false,
    tiny.tick.schedWork.isNone && !tiny.tick.unitsNext && tiny.tick.flipTurn.pick.any fun u => u.slotEvent.isNone && (match u.fetched with | .ok _ => true | .error _ => false),
    (let s := { tiny with unitsNext := true, stores := [(7, ⟨0, .A, some 0, false, [(0x20, [5#8])]⟩)] }
    s.tick.unitsNext && s.tick.schedWork.isNone && (match firstMove s.tick.flipTurn s.tick.flipTurn.unitWork with | .next v => v != s.tick.flipTurn | _ => false)),
    tiny.grp.occupied tiny.slot.mask == [0#2] && tiny.lnc.lineOk (lineOf tiny.slot.offset) && tiny.grp.step.isNone,
    (match tiny.fetchLine tiny.grp 0 0 with
    | .ok bs => !badParity (lineWord bs) && !badReserved (lineWord bs) && (List.range 5).all fun k => parity (slotWord bs k) == (lineWord bs).getLsbD (26 + k)
    | .error _ => false),
    ({ open0 with launches := open0.launches ++ [(1, ready1 0 0)] } : State).tick.schedWork.isSome,
    tiny.tick.flipTurn.pick.any fun u => (u.ready || u.slot.pending == []) && u.ahead == [],
    (issuing []).tick.flipTurn.pick.any fun u => (issuing []).tick.schedWork.isNone && !(issuing []).tick.unitsNext && u.slotEvent.isNone
    && !u.ready && u.slot.pending != [] && (u.aheadNext u.gid u.sel).any fun x => x.kind == .own && decode x.w == .ok .nop,
    (issuing [.ldG { L0 with d := .v 20 } false]).tick.flipTurn.pick.any fun u => u.slotEvent.isNone && !u.ready && u.slot.pending != []
    && (u.aheadNext u.gid u.sel).any fun x => x.kind == .memory].all id) = true := by decide +kernel

theorem witness_DecodeEncodeAgree : ([Instr.nop.wf && encode .nop == some 0#96].all id) = true := by decide +kernel

theorem witness_MemoryStaysCanonical : ([(match step roomy with | .next _ => true | _ => false)].all id) = true := by decide +kernel

theorem witness_RegistersStayCanonical : ([(match step executed with | .next _ => true | _ => false)].all id) = true := by decide +kernel

theorem witness_RoundingIsNearestOrDirected : ([(roundAt 0 false 3 0 false 1).1 == 2 && (roundAt 0 false 5 0 false 1).1 == 2 && (roundAt 1 false 7 0 false 2).1 == 1 && (roundAt 2 false 5 0 false 2).1 == 2].all id) = true := by decide +kernel

end Sys2Proof.Tests
end

/-! Per-lane results with events, and division (R53, R83, R84). -/

namespace Sys2Proof.Machine

/-! ## Masks of lanes -/

theorem laneIn_maskWhere (p : Lane → Bool) (L : Lane) : laneIn (maskWhere p) L = (decide (L < 32) && p L) := by
  simp only [laneIn, maskWhere, allLanes, BitVec.getLsbD_setWidth, BitVec.getLsbD_ofBoolListLE]
  by_cases h : L < 32 <;> simp [h]

theorem lane_lt_of_laneIn {m : Lanes} {L : Lane} (h : laneIn m L = true) : L < 32 := BitVec.lt_of_getLsbD h

theorem mem_lanesOf {m : Lanes} {L : Lane} : L ∈ lanesOf m ↔ laneIn m L = true := by
  simp only [lanesOf, allLanes, List.mem_filter, List.mem_range, and_iff_right_iff_imp]
  exact lane_lt_of_laneIn

theorem exists_laneIn_of_ne_zero {m : Lanes} (h : m ≠ 0#32) : ∃ L, laneIn m L = true := by
  by_contra hn
  exact h (BitVec.eq_of_getLsbD_eq fun L _ => by simpa using fun e => hn ⟨L, e⟩)

/-- R53: the trap set holds the executing lanes that have an enabled event. -/
theorem laneIn_trapLanes (en : Events) (E : Lanes) (ev : Lane → Events) (L : Lane) :
    laneIn (trapLanes en E ev) L = (laneIn E L && (ev L &&& en) != 0#8) := by
  cases hE : laneIn E L with
  | false => simp [trapLanes, laneIn, hE]
  | true =>
    have hm := laneIn_maskWhere (fun K => (ev K &&& en) != 0#8) L
    simp only [laneIn, lane_lt_of_laneIn hE, decide_true, Bool.true_and] at hE hm ⊢
    simp [trapLanes, hE, hm]

/-! ## A per-lane instruction with events -/

theorem vecEv_quiet {r : RegRow} {x : RegF} {f : LaneFn} {s : State} (hr : r.cls = .V)
    (h : s.goesOn true (regForm r x true s) = true)
    (hq : s.noTrap (s.execLanes x.guard x.ginv) fun L => (s.over f L).2) :
    vecEv r x f s = .next (s.withEvents x.d (s.execLanes x.guard x.ginv) (s.over f)).advance := by
  simp only [vecEv, regIssue, hr]
  exact issue_done h (writeEv_done hq)

theorem vecEv_trap {r : RegRow} {x : RegF} {f : LaneFn} {s : State} (hr : r.cls = .V)
    (h : s.goesOn true (regForm r x true s) = true)
    (ht : trapLanes s.grp.trapEn (s.execLanes x.guard x.ginv) (fun L => (s.over f L).2) ≠ 0#32) :
    vecEv r x f s = .next (s.takeTrap
      { cause := trapCause s.grp.trapEn (trapLanes s.grp.trapEn (s.execLanes x.guard x.ginv) fun L => (s.over f L).2)
          fun L => (s.over f L).2
        mask := trapLanes s.grp.trapEn (s.execLanes x.guard x.ginv) fun L => (s.over f L).2 }) := by
  simp only [vecEv, regIssue, hr]
  exact issue_trap (State.issues_of_goesOn h) (writeEv_trap ht)

/-! ## The arithmetic of division (R84) -/

theorem divU_zero (n : Word) : divU n 0#32 = (0xFFFFFFFF#32, n, 1#8) := rfl

theorem divS_zero (n : Word) : divS n 0#32 = (0xFFFFFFFF#32, n, 1#8) := rfl

theorem divS_overflow : divS 0x80000000#32 0xFFFFFFFF#32 = (0x80000000#32, 0#32, 2#8) := rfl

theorem divU_of_ne_zero {n d : Word} (h : d ≠ 0#32) :
    divU n d = (BitVec.ofNat 32 (n.toNat / d.toNat), BitVec.ofNat 32 (n.toNat % d.toNat), 0#8) := by
  have hr : n - BitVec.ofNat 32 (n.toNat / d.toNat) * d = BitVec.ofNat 32 (n.toNat % d.toNat) := by
    have hn : BitVec.ofNat 32 (n.toNat / d.toNat * d.toNat + n.toNat % d.toNat) = n := by
      rw [Nat.div_add_mod', BitVec.ofNat_toNat, BitVec.setWidth_eq]
    rw [BitVec.ofNat_add, BitVec.ofNat_mul, BitVec.ofNat_toNat, BitVec.setWidth_eq] at hn
    rw [BitVec.sub_eq_iff_eq_add, BitVec.add_comm, hn]
  simp [divU, h, hr]

/-- The quotient truncates toward zero and the remainder has the dividend's sign. -/
theorem divS_of_ne_zero {n d : Word} (h : d ≠ 0#32) (ho : ¬ (n = 0x80000000#32 ∧ d = 0xFFFFFFFF#32)) :
    divS n d = (BitVec.ofInt 32 (n.toInt.tdiv d.toInt), BitVec.ofInt 32 (n.toInt.tmod d.toInt), 0#8) := by
  have hr : n - BitVec.ofInt 32 (n.toInt.tdiv d.toInt) * d = BitVec.ofInt 32 (n.toInt.tmod d.toInt) := by
    have hn : BitVec.ofInt 32 (n.toInt.tdiv d.toInt * d.toInt + n.toInt.tmod d.toInt) = n := by
      rw [Int.tdiv_mul_add_tmod, BitVec.ofInt_toInt]
    rw [BitVec.ofInt_add, BitVec.ofInt_mul, BitVec.ofInt_toInt] at hn
    rw [BitVec.sub_eq_iff_eq_add, BitVec.add_comm, hn]
  simp [divS, h, ho, hr]

/-! ## The events of division and the cause of its trap -/

/-- An event a division can raise: none, the division by zero or the overflow. -/
def divEvent (e : Events) : Prop := e = 0#8 ∨ e = evDZ ∨ e = evIOV

theorem divU_event (n d : Word) : divEvent (divU n d).2.2 := by
  by_cases h : d = 0#32 <;> simp [divU, divEvent, h]

theorem divS_event (n d : Word) : divEvent (divS n d).2.2 := by
  by_cases h : d = 0#32
  · simp [divS, divEvent, h]
  · by_cases ho : n = 0x80000000#32 ∧ d = 0xFFFFFFFF#32 <;> simp [divS, divEvent, h, ho]

theorem divEvent_enabled {e en : Events} (he : divEvent e) (hen : (e &&& en) ≠ 0#8) :
    (e &&& en &&& evDZ != 0#8) = e.getLsbD 0 ∧ (e &&& en &&& evIOV != 0#8) = !e.getLsbD 0 := by
  rcases he with rfl | rfl | rfl <;> revert en <;> decide

/-- R84: INT_DIVZERO where a trapping lane divides by zero, otherwise INT_OVERFLOW. -/
theorem trapCause_div {en : Events} {E : Lanes} {ev : Lane → Events} (hev : ∀ L, divEvent (ev L))
    (hT : trapLanes en E ev ≠ 0#32) :
    trapCause en (trapLanes en E ev) ev
      = if ∃ L ∈ lanesOf (trapLanes en E ev), (ev L).getLsbD 0 then .intDivzero else .intOverflow := by
  have hbits : ∀ L ∈ lanesOf (trapLanes en E ev),
      (ev L &&& en &&& evDZ != 0#8) = (ev L).getLsbD 0 ∧ (ev L &&& en &&& evIOV != 0#8) = !(ev L).getLsbD 0 := by
    intro L hL
    rw [mem_lanesOf, laneIn_trapLanes, Bool.and_eq_true, bne_iff_ne] at hL
    exact divEvent_enabled (hev L) hL.2
  obtain ⟨K, hK⟩ := exists_laneIn_of_ne_zero hT
  rw [← mem_lanesOf] at hK
  split
  · next hdz =>
    obtain ⟨L, hL, hb⟩ := hdz
    have h0 : (lanesOf (trapLanes en E ev)).any (fun L => ev L &&& en &&& evDZ != 0#8) = true :=
      List.any_eq_true.mpr ⟨L, hL, (hbits L hL).1.trans hb⟩
    simp only [trapCause, eventCauses, List.find?_cons_of_pos, h0, Option.map_some, Option.getD_some]
  · next hdz =>
    have h0 : (lanesOf (trapLanes en E ev)).any (fun L => ev L &&& en &&& evDZ != 0#8) = false :=
      List.any_eq_false.mpr fun L hL hd => hdz ⟨L, hL, (hbits L hL).1 ▸ hd⟩
    have h1 : (lanesOf (trapLanes en E ev)).any (fun L => ev L &&& en &&& evIOV != 0#8) = true :=
      List.any_eq_true.mpr ⟨K, hK, (hbits K hK).2.trans (by simpa using fun hd => hdz ⟨K, hK, hd⟩)⟩
    simp only [trapCause, eventCauses, List.find?_cons, h0, h1, Option.map_some, Option.getD_some]

/-! ## The division instructions -/

/-- R83: each instruction of the table is class V, its division raises the events of R84 only, and its lanes get that division. -/
theorem divisionTable_shape : ∀ p ∈ divisionTable, p.2.1.cls = .V ∧ (∀ n d, divEvent (p.2.2.1 n d).2.2)
    ∧ ∀ (x : RegF) (s : State), exec (p.1 x) s = vecEv p.2.1 x (laneDiv p.2.2.1 p.2.2.2 x) s := by
  simp only [divisionTable, List.forall_mem_cons, List.not_mem_nil, false_imp_iff, implies_true, and_true]
  exact ⟨⟨rfl, divS_event, fun _ _ => rfl⟩, ⟨rfl, divS_event, fun _ _ => rfl⟩, ⟨rfl, divU_event, fun _ _ => rfl⟩,
    ⟨rfl, divU_event, fun _ _ => rfl⟩, ⟨rfl, divS_event, fun _ _ => rfl⟩, ⟨rfl, divU_event, fun _ _ => rfl⟩⟩

/-- Settles O8. The quiet and the trapping clause are those of a per-lane instruction with events; its cause is reduced to the two
events a division can raise, and the values are integer division with remainder. -/
theorem divisionResults : Obligations.DivisionResults := by
  refine ⟨fun p hp x s h => ?_, fun n d => divU_of_ne_zero, fun n => ⟨divU_zero n, divS_zero n⟩,
    fun n d => divS_of_ne_zero, divS_overflow⟩
  obtain ⟨hcls, hevent, hexec⟩ := divisionTable_shape p hp
  rw [hexec x s]
  refine ⟨fun hq => vecEv_quiet hcls h hq, fun L => laneIn_trapLanes _ _ _ L, fun ht => ?_⟩
  rw [vecEv_trap (f := laneDiv p.2.2.1 p.2.2.2 x) hcls h ht, ← trapCause_div (fun L => hevent _ _) ht]
  rfl

end Sys2Proof.Machine

/-! Scalar compare and select: their results, and the words they are decoded from (R58, R60). -/

namespace Sys2Proof.Machine

/-! ## A scalar instruction -/

theorem sclPlain_next {r : RegRow} {x : RegF} {f : State → Word} {s : State} (hr : r.cls = .S)
    (h : s.goesOn false (regForm r x true s) = true) : sclPlain r x f s = .next (s.setS x.d (f s)).advance := by
  simp only [sclPlain, regIssue, hr]
  exact issue_done h rfl

theorem cEq_eq_decide : cEq = fun a b => decide (a = b) := by
  funext a b
  exact Bool.beq_eq_decide_eq a b

theorem cNe_eq_decide : cNe = fun a b => decide (a ≠ b) := by
  funext a b
  simp only [cNe, bne, Bool.beq_eq_decide_eq, ne_eq, decide_not]

theorem compareTable_exec : ∀ p ∈ compareTable, ∀ (x : RegF) (s : State),
    exec (p.1 x) s = sclPlain rSSS x (sclCmp p.2.2 x) s := by
  simp only [compareTable, List.forall_mem_cons, List.not_mem_nil, false_imp_iff, implies_true, and_true]
  exact ⟨fun _ _ => cEq_eq_decide ▸ rfl, fun _ _ => cNe_eq_decide ▸ rfl, fun _ _ => rfl, fun _ _ => rfl,
    fun _ _ => rfl, fun _ _ => rfl, fun _ _ => rfl, fun _ _ => rfl, fun _ _ => rfl, fun _ _ => rfl⟩

/-! ## A word read in the register form -/

theorem readOpd_accepts {c : OpClass} {code : BitVec 8} {o : Opd} (h : readOpd c code = some o) : accepts c o = true := by
  unfold readOpd at h
  split at h
  · split at h
    · next ha => exact Option.some.inj h ▸ ha
    · cases h
  · cases h

/-- Its function-specific field is in order and its operands are of their classes. -/
theorem decReg_ok {α : Type} {r : RegRow} {spOk opOk : Bool} {mk : RegF → α} {w : IWord} {y : α}
    (h : decReg r spOk opOk mk w = .ok y) :
    ∃ x, y = mk x ∧ spOk = true ∧ accepts r.d.cls x.d = true ∧ accepts r.a.cls x.a = true ∧ accepts r.b.cls x.b = true
      ∧ accepts r.c.cls x.c = true := by
  unfold decReg at h
  split at h
  · next hf =>
    simp only [Bool.and_eq_true] at hf
    obtain ⟨⟨⟨⟨⟨hsp, -⟩, -⟩, -⟩, -⟩, -⟩ := hf
    split at h
    · next hd ha hb hc =>
      split at h
      · cases h
        exact ⟨_, rfl, hsp, readOpd_accepts hd, readOpd_accepts ha, readOpd_accepts hb, readOpd_accepts hc⟩
      · cases h
    · cases h
  · cases h

/-! ## The words of major 0x03 -/

/-- The row and the fields of a scalar compare or select (R60); reducible, for `simp` to compute it at a constructor. -/
abbrev compareForm : Instr → Option (RegRow × RegF)
  | .scmpEqB32 x | .scmpNeB32 x | .scmpLtI32 x | .scmpLeI32 x | .scmpGtI32 x | .scmpGeI32 x | .scmpLtB32 x | .scmpLeB32 x
  | .scmpGtB32 x | .scmpGeB32 x => some (rSSS, x)
  | .sselB32 x => some (rSSSS, x)
  | _ => none

theorem compareForm_compareTable : ∀ p ∈ compareTable, ∀ x, compareForm (p.1 x) = some (rSSS, x) := by
  simp only [compareTable, List.forall_mem_cons, List.not_mem_nil, false_imp_iff, implies_true, and_true]

/-- A decoded word that is no scalar compare or select. -/
def noCompare : Except Cause Instr → Bool
  | .ok i => (compareForm i).isNone
  | .error _ => true

section
variable {w : IWord}

theorem noCompare_error (c : Cause) : noCompare (.error c) = true := rfl

theorem noCompare_nop : noCompare (.ok .nop) = true := rfl

theorem noCompare_ite {c : Prop} [Decidable c] (d e : Except Cause Instr) :
    noCompare (if c then d else e) = if c then noCompare d else noCompare e := apply_ite noCompare c d e

/-! Each format makes the instruction `mk` says, or refuses the word. -/

theorem noCompare_decReg {r : RegRow} {spOk opOk : Bool} {mk : RegF → Instr} (h : ∀ x, compareForm (mk x) = none) :
    noCompare (decReg r spOk opOk mk w) = true := by
  simp only [decReg]
  repeat' split
  all_goals simp only [noCompare, h, Option.isNone_none]

theorem noCompare_decImm {r : ImmRow} {spOk : ImmF → Bool} {mk : ImmF → Instr} (h : ∀ x, compareForm (mk x) = none) :
    noCompare (decImm r spOk mk w) = true := by
  simp only [decImm]
  repeat' split
  all_goals simp only [noCompare, h, Option.isNone_none]

theorem noCompare_decMem {r : MemRow} {spOk : MemF → Bool} {mk : MemF → Instr} (h : ∀ x, compareForm (mk x) = none) :
    noCompare (decMem r spOk mk w) = true := by
  simp only [decMem]
  repeat' split
  all_goals simp only [noCompare, h, Option.isNone_none]

theorem noCompare_decBr {r : BrRow} {mk : BrF → Instr} (h : ∀ x, compareForm (mk x) = none) :
    noCompare (decBr r mk w) = true := by
  simp only [decBr]
  repeat' split
  all_goals simp only [noCompare, h, Option.isNone_none]

theorem noCompare_decEng {r : EngRow} {spOk : EngF → Bool} {mk : EngF → Instr} (h : ∀ x, compareForm (mk x) = none) :
    noCompare (decEng r spOk mk w) = true := by
  simp only [decEng]
  repeat' split
  all_goals simp only [noCompare, h, Option.isNone_none]

theorem noCompare_decSys {dc bc : OpClass} {mk : SysF → Instr} (h : ∀ x, compareForm (mk x) = none) :
    noCompare (decSys dc bc mk w) = true := by
  simp only [decSys]
  repeat' split
  all_goals simp only [noCompare, h, Option.isNone_none]

theorem noCompare_decCsr {write : Bool} {mk : SysF → Instr} (h : ∀ x, compareForm (mk x) = none) :
    noCompare (decCsr write mk w) = true := by
  simp only [decCsr]
  repeat' split
  all_goals simp only [noCompare, h, Option.isNone_none]

theorem noCompare_decSink {mk : SinkF → Instr} (h : ∀ x, compareForm (mk x) = none) :
    noCompare (decSink mk w) = true := by
  simp only [decSink]
  repeat' split
  all_goals simp only [noCompare, h, Option.isNone_none]

/-- Only major 0x03 holds scalar compares and selects. -/
theorem dispatch_noCompare {mj fn : Nat} (h : mj ≠ 3) : noCompare (dispatch mj fn w) = true := by
  unfold dispatch
  split
  case h_1 => simp only [noCompare_ite, noCompare_nop, noCompare_error, ite_self]
  case h_4 => exact absurd rfl h
  case h_46 => exact noCompare_error _
  all_goals simp only [
    dispatch01, dispatch02, dispatch04, dispatch05, dispatch06, dispatch07, dispatch20, dispatch21, dispatch22,
    dispatch23, dispatch24, dispatch25, dispatch26, dispatch40, dispatch41, dispatch42, dispatch43, dispatch44,
    dispatch45, dispatch46, dispatch47, dispatch70, dispatch71, dispatch72, dispatch73, dispatch74, dispatch75,
    dispatch76, dispatch77, dispatch90, dispatch91, dispatch92, dispatch93, dispatchA0, dispatchA1, dispatchA2,
    dispatchB0, dispatchB1, dispatchB2, dispatchB3, dispatchE0, dispatchE1, dispatchE2]
  all_goals split
  all_goals simp (disch := exact fun _ => rfl) only [noCompare_error, noCompare_ite, ite_self, noCompare_decReg,
    noCompare_decImm, noCompare_decMem, noCompare_decBr, noCompare_decEng, noCompare_decSys, noCompare_decCsr, noCompare_decSink]

/-- What R58 and R60 ask of a word read in row `r` with fields `x`. -/
def readInRow (w : IWord) (r : RegRow) (x : RegF) : Prop :=
  fld w 0 28 = 0#28 ∧ accepts r.d.cls x.d = true ∧ accepts r.a.cls x.a = true ∧ accepts r.b.cls x.b = true
    ∧ accepts r.c.cls x.c = true

theorem decReg_compare {r r' : RegRow} {opOk : Bool} {mk : RegF → Instr} {i : Instr} {x : RegF}
    (hmk : ∀ y, compareForm (mk y) = some (r, y)) (h : decReg r (fld w 0 28 == 0#28) opOk mk w = .ok i)
    (hi : compareForm i = some (r', x)) : readInRow w r' x := by
  obtain ⟨y, rfl, hsp, hops⟩ := decReg_ok h
  rw [hmk] at hi
  cases hi
  exact ⟨eq_of_beq hsp, hops⟩

theorem dispatch03_compare {fn : Nat} {i : Instr} {r : RegRow} {x : RegF} (h : dispatch03 fn w = .ok i)
    (hi : compareForm i = some (r, x)) : readInRow w r x := by
  unfold dispatch03 at h
  split at h
  case h_12 => cases h
  all_goals exact decReg_compare (fun _ => rfl) h hi

/-- A word that decodes to a scalar compare or select is read in that instruction's row. -/
theorem decode_compare {i : Instr} {r : RegRow} {x : RegF} (h : decode w = .ok i) (hi : compareForm i = some (r, x)) :
    readInRow w r x := by
  unfold decode at h
  by_cases hmj : (fld w 88 8).toNat = 3
  · rw [hmj] at h
    exact dispatch03_compare h hi
  · have hno := dispatch_noCompare (fn := (fld w 80 8).toNat) (w := w) hmj
    rw [h] at hno
    simp [noCompare, hi] at hno
end

theorem accepts_srcS {o : Opd} : accepts .srcS o = true ↔ (∃ n, o = .s n) ∨ o = .zero ∨ o = .group := by
  unfold accepts
  cases o <;> simp

theorem accepts_dstS {o : Opd} : accepts .dstS o = true ↔ (∃ n, o = .s n) ∨ o = .zero := by
  unfold accepts
  cases o <;> simp

theorem accepts_none {o : Opd} : accepts .none o = true ↔ o = opdZero := beq_iff_eq

/-- Settles O3. The results are those of a class-S instruction whose check passes; a word of theirs is read by major 0x03 alone, in
the row of its instruction. -/
theorem scalarCompareResults : Obligations.ScalarCompareResults := by
  refine ⟨fun p hp x s h => ?_, fun x s h => ?_, fun w x => ⟨fun p hp hw => ?_, fun hw => ?_⟩⟩
  · rw [compareTable_exec p hp, sclPlain_next rfl h]
    rfl
  · refine (sclPlain_next rfl h).trans ?_
    simp only [scl3, ite_not]
  · obtain ⟨hsp, hd, ha, hb, hc⟩ := decode_compare hw (compareForm_compareTable p hp x)
    exact ⟨⟨hsp, accepts_dstS.mp hd, accepts_srcS.mp ha, accepts_srcS.mp hb⟩, accepts_none.mp hc⟩
  · obtain ⟨hsp, hd, ha, hb, hc⟩ := decode_compare hw rfl
    exact ⟨⟨hsp, accepts_dstS.mp hd, accepts_srcS.mp ha, accepts_srcS.mp hb⟩, accepts_srcS.mp hc⟩

end Sys2Proof.Machine
